-- ==== Sys2Proof/Word.lean ====
section
/-! DEFINITION. The words the manual counts in: bytes, 32-bit register words, 64-bit program words. -/

namespace Sys2Proof

/-- A byte of a memory, a buffer or a message. -/
abbrev Byte := BitVec 8

/-- A 16-bit value. -/
abbrev W16 := BitVec 16

/-- A register word, a data word of the engine and a Weir word. -/
abbrev W32 := BitVec 32

/-- A 64-bit value: a program word, a pass number, a product. -/
abbrev W64 := BitVec 64

/-- An accumulator of the engine (R76): 72 bits. -/
abbrev W72 := BitVec 72

end Sys2Proof
end

