-- ==== Sys2Proof/Syntax.lean ====
section
/-! DEFINITION. The commands of the NK4128, one constructor per row of the command table, and the operands they carry:
messages as the receiver takes them off a wire, bus accesses, decoded engine instruction fields. -/

namespace Sys2Proof

/-- The two sides of the isolation barrier (R9). -/
inductive Side where
  | host | field
  deriving DecidableEq, Repr

/-- The credited message classes of the Weir (R20). -/
inductive WClass where
  | s | c | m | i
  deriving DecidableEq, Repr

/-- The Causeway ports (R243). -/
inductive Port where
  | ca | cb | cc
  deriving DecidableEq, Repr

/-- A Weir message as its receiver frames it (R15 to R17): the header without the TYPE that the row names, the words
between the header and the CRC, the CRC word, and whether a code violation fell inside it. -/
structure WRx where
  len     : BitVec 12
  seq     : Byte
  flags   : Byte
  payload : List W32
  crc     : W32
  viol    : Bool
  deriving DecidableEq, Repr

/-- The operands of a format A word (R88), the condition of R85 with them. A bus operand is its nine bits (R89). -/
structure FmtA where
  cond  : BitVec 4
  f     : BitVec 1
  sat   : BitVec 1
  pf    : BitVec 2
  unit  : BitVec 1
  acd   : BitVec 3
  ra    : BitVec 4
  rb    : BitVec 4
  xop   : BitVec 9
  yop   : BitVec 9
  zop   : BitVec 9
  sub   : BitVec 5
  shift : BitVec 4
  ofmt  : BitVec 2
  deriving DecidableEq, Repr

/-- The operand bits of MOVR (R126), which lays its word out as a format of its own: the condition and bits [53:0]. -/
structure FmtM where
  cond : BitVec 4
  bits : BitVec 54
  deriving DecidableEq, Repr

/-- The operands of a format B word (R90). `iop` stands in the row for OPI rows. -/
structure FmtB where
  cond : BitVec 4
  reg  : BitVec 7
  iop  : BitVec 3
  rsv  : BitVec 12
  imm  : W32
  deriving DecidableEq, Repr

/-- The operands of a format C word (R91). -/
structure FmtC where
  cond   : BitVec 4
  blen   : BitVec 8
  cache  : BitVec 1
  span   : BitVec 1
  chan   : BitVec 1
  csrc   : BitVec 2
  creg   : BitVec 4
  cstep  : BitVec 4
  count  : BitVec 16
  budget : BitVec 12
  rsv    : BitVec 5
  deriving DecidableEq, Repr

/-- The operands of a format U word (R92); `user` is the user instruction number. -/
structure FmtU where
  cond : BitVec 4
  user : BitVec 5
  acd  : BitVec 3
  ra   : BitVec 4
  rb   : BitVec 4
  xop  : BitVec 9
  yop  : BitVec 9
  zop  : BitVec 9
  uimm : BitVec 14
  deriving DecidableEq, Repr

/-- A mismatch of a pass between MAC-S and the unit that it shadows (R418): which of the two fails its residue check. -/
structure MacMismatch where
  unitFails   : Bool
  shadowFails : Bool
  deriving DecidableEq, Repr

/-- The memories that the maintenance rows name (R410). -/
inductive BankId where
  | h0 | h1 | h2 | h3 | n | e | f | p0 | p1 | x | y | z
  deriving DecidableEq, Repr

/-- One bus access of a master to a byte address (R145, R167): its size in bytes and the value of a write. -/
structure BusAcc where
  addr : Nat
  size : Nat
  write : Option W32
  deriving DecidableEq, Repr

/-- A frame as a Causeway port receives it (R246, R248): addresses, EtherType, the 16 header bytes and the bytes after them.
`fcs` is 0 for a correct FCS, 1 for a wrong one, 2 for exactly the complement of the correct one (R249). `dev` is the deviation of
its SFD from the expected instant in nanoseconds (R262, R265), `at'` its arrival at the ball in units of 2^-16 ns of the node's
Datum estimate (R285). -/
structure CwRx where
  dst     : BitVec 48
  src     : BitVec 48
  etype   : W16
  hdr     : List Byte
  payload : List Byte
  fcs     : Nat
  dev     : Int
  at'     : Nat
  /-- A T, A or E frame that finds the four receive buffers of its class at the port taken (R274). -/
  full    : Bool
  deriving DecidableEq, Repr

/-- Where a Legend request comes from (R309): a V frame, the node itself, or a tool at the endpoint `ep` of the gateway (0 the exchange bank, any other an
IPv4 address and UDP port). -/
inductive LegVia where
  | chain
  | own
  | tool (ep : Nat)
  deriving DecidableEq, Repr

/-- A Legend request as the node gets it (R316): the header fields and the body. For the rows that name one entry (OPEN, SAVE and
the like) the body starts at TYPE, the row giving IDX and SUB. `group` says that it came to all nodes or to a tag (R323), `late` that
the challenge it uses is past its time (R310, R344). `dest` names the DMODE and the DST of a tool's request for other nodes than the gateway. -/
structure LegReq where
  flags : Byte
  rid   : W16
  rseq  : W16
  role  : Byte
  epoch : W32
  blen  : W16
  body  : List Byte
  group : Bool
  late  : Bool
  via   : LegVia
  dest   : Option (Nat × Nat)
  deriving DecidableEq, Repr

/-- A token shifted into a test port (R344, R345), and whether the challenge it uses is past its time. -/
structure TokenIn where
  bytes : List Byte
  late  : Bool
  deriving DecidableEq, Repr

/-- A slave register read (R397): how many words, and which of them find the port's read late. -/
structure RegBeats where
  words : Nat
  late  : List Nat
  deriving DecidableEq, Repr

/-- A slave register write (R397): the words, and which of them find the port's buffer full. -/
structure RegWords where
  words : List W32
  full  : List Nat
  deriving DecidableEq, Repr

/-- A register named by its offset on the bus, or by the code at which a test port reaches it (R77, R345). -/
structure RegAt where
  off     : Nat
  viaTest : Bool
  deriving DecidableEq, Repr

/-- One constructor for each row of the command table; the operands are what the row's rule says the sender gives
(log entry 7). -/
inductive Instr where
  /-- `HOST_POWER_ON` (R431). Host supplies rise in order; the I/O ring applies pulls and senses the I/O level while the host power-on reset is held. -/
  | hostPowerOn (io3v3 : Bool)
  /-- `HOST_POWER_ON_RESET_RELEASE` (R431). 2 ms after the last host rail is in range and HRST_N is high, the host reset releases, straps are sampled and the boot ROM starts. -/
  | hostPowerOnResetRelease (head : Bool) (boot : BitVec 3) (bad : List (Nat × Nat))
  /-- `FIELD_POWER_ON` (R432). Field supplies rise in order while the field power-on reset is held; pilot DACs stay clamped. -/
  | fieldPowerOn (io3v3 avddOk avssOk : Bool)
  /-- `FIELD_POWER_ON_RESET_RELEASE` (R432). 2 ms after the last field rail is in range and FRST_N is high, the field reset releases, the PLL locks, and DRAM training, the start-up march and row repairs run. -/
  | fieldPowerOnResetRelease
  /-- `RESET_BALL_LOW` (R434). A reset ball held low for 1 µs or more, or a rail below its minimum, holds that side in power-on reset. -/
  | resetBallLow (side : Side)
  /-- `CORE_RST` (R32). A keyed write of CORE_RST resets the host cores, L2, interrupt controller, host DMA, crypto and SPP ports, and every host queue is disabled first. -/
  | coreRst (v : W32) (viaTest : Bool)
  /-- `CTRL_RST` (R32). A keyed write of CTRL_RST resets the field controller and field DMA while passes continue. -/
  | ctrlRst (v : W32) (viaTest : Bool)
  /-- `SWITCH_RST` (R277). A keyed write of SWITCH_RST resets the switch and ports; the node goes OFFLINE and clears its route and token tables. -/
  | switchRst (v : W32)
  /-- `ENGINE_RST` (R35). A keyed write of ENGINE_RST requests an engine reset, applied at once or at the end of the running pass's seam. -/
  | engineRst (v : W32)
  /-- `ENGINE_RESET_APPLY` (R35). At the end of the seam, the engine reset is applied, outputs read zero and the capture ring freezes. -/
  | engineResetApply
  /-- `ENGINE_RESET_RELEASE` (R35). 64 field clock cycles after it is applied, the engine reset releases and passes resume by TIME_MARK, by waiting, or by timer wrap. -/
  | engineResetRelease
  /-- `FIELD_RESTART` (R368). A PARAM_WRITE of A5C3h to 8040h sub 10h makes the bridge apply a controller reset in hardware and set REMOTE. -/
  | fieldRestart (m : WRx)
  /-- `COMMON_MODE_TRANSIENT` (R12). A transient beyond the rated immunity corrupts Weir characters and may displace one tick edge, with no reset. -/
  | commonModeTransient (rx : Side) (corrupt : Bool) (shift : Int)
  /-- `WEIR_BRING_UP` (R29). With both sides powered and ENABLE set, the lanes train and deskew, the tick lane calibrates and INIT HEARTBEATs are exchanged. -/
  | weirBringUp
  /-- `WEIR_LINK_UP` (R29). When bring-up completes, full credits are granted and LINK_UP sets. -/
  | weirLinkUp
  /-- `WEIR_ENABLE_WRITE` (R41). A write of ENABLE 0 finishes the message in progress, aborts queued messages and stops HEARTBEATs, so the far side declares this side absent. -/
  | weirEnableWrite (side : Side) (v : W32)
  /-- `HEARTBEAT_SEND` (R23). Every 1.0 µs each side sends a HEARTBEAT carrying its cumulative RELEASED counts and failed-lane report. -/
  | heartbeatSend (side : Side)
  /-- `HEARTBEAT` (R23). A received HEARTBEAT updates the free credits from RELEASED and reports lane failures to the transmitter. -/
  | heartbeat (rx : Side) (m : WRx)
  /-- `FAR_SIDE_ABSENT` (R13). 64 µs without a valid HEARTBEAT clears FAR_PRESENT, aborts queued messages and makes Legend reads of far entries answer STATE. -/
  | farSideAbsent (side : Side)
  /-- `WEIR_MESSAGE_SENT` (R21). At a message boundary, the transmitter starts the highest-priority ready message for which it holds a credit. -/
  | weirMessageSent (side : Side)
  /-- `BUFFER_RELEASE` (R20). When the receiver frees a receive buffer, it releases the credit, which the next HEARTBEAT reports. -/
  | bufferRelease (side : Side) (cls : WClass)
  /-- `AUDIT_SEND` (R24). At each AUDIT_PERIOD interval, a side sends an AUDIT carrying its cumulative SENT counts. -/
  | auditSend (side : Side)
  /-- `AUDIT_NOW` (R24). A write of AUDIT_NOW sends an AUDIT at the next message boundary. -/
  | auditNow (side : Side) (v : W32)
  /-- `AUDIT` (R24). A received AUDIT compares SENT with ACCOUNTED per class, returns lost credits, or starts a resynchronisation. -/
  | auditMsg (rx : Side) (m : WRx)
  /-- `RESYNC` (R25). A received RESYNC makes the sender stop sending the named class. -/
  | resync (rx : Side) (m : WRx)
  /-- `RESYNC_ACK_SEND` (R25). When the last message of the class has finished, the sender sends RESYNC_ACK with its SENT count. -/
  | resyncAckSend (side : Side) (cls : WClass)
  /-- `RESYNC_ACK` (R25). A received RESYNC_ACK makes the receiver drain the class and set ACCOUNTED and RELEASED to SENT. -/
  | resyncAck (rx : Side) (m : WRx)
  /-- `LANE_FAILED` (R26). Loss of alignment, or 16 code violations in 1,024 characters, makes the receiver declare a data lane or the spare failed. -/
  | laneFailed (rx : Side) (lane : Nat)
  /-- `SPARE_SWITCH` (R26). At its next message boundary, the transmitter trains the spare, moves the failed lane's bytes to it and audits all classes. -/
  | spareSwitch (side : Side)
  /-- `TICK_EDGE` (R55). A tick edge arrives on the tick lane and, once usable, is classified as on time, late, early or stray. -/
  | tickEdge (e ph : Int)
  /-- `TICK_LANE_TIMEOUT` (R28). 100 µs without a tick edge clears TICK_LOCK in WEIR_STAT. -/
  | tickLaneTimeout
  /-- `TICK_MISSING` (R55). When no tick falls within ±64 slots of a pass's slot 0, the pass is classed missing and counted. -/
  | tickMissing
  /-- `STREAM_IN` (R62). A received STREAM_IN places chain frames for their passes, or is held, discarded or counted late. -/
  | streamIn (rx : Side) (m : WRx)
  /-- `STREAM_RET` (R265). A received STREAM_RET gives the host bridge the node's return words for its U frame. -/
  | streamRet (rx : Side) (m : WRx)
  /-- `PARAM_WRITE` (R34). A received PARAM_WRITE is executed in hardware for binding points or passed to the field controller, after the field duplicate check. -/
  | paramWrite (rx : Side) (m : WRx)
  /-- `PARAM_READ` (R34). A received PARAM_READ is served by the bridge or the field controller, and one of 8020h sub 10h resends MEASURE. -/
  | paramRead (rx : Side) (m : WRx)
  /-- `PARAM_RESP` (R329). A received PARAM_RESP answers the forwarded Legend request. -/
  | paramResp (rx : Side) (m : WRx)
  /-- `BUNDLE_COMMIT` (R149). A received BUNDLE_COMMIT requests a commit bundle, which the bridge executes in hardware. -/
  | bundleCommit (rx : Side) (m : WRx)
  /-- `STATUS` (R446). A received STATUS updates the host's view of field status, including the field temperature. -/
  | statusMsg (rx : Side) (m : WRx)
  /-- `EVENT` (R18). A received EVENT message carries an event code and data to the far side. -/
  | eventMsg (rx : Side) (m : WRx)
  /-- `TIME_MARK` (R46). A received TIME_MARK gives the number, TAI time, class and rate of a future tick. -/
  | timeMark (rx : Side) (m : WRx) (ahead : Nat)
  /-- `IMAGE_BLOCK` (R365). A received IMAGE_BLOCK quarter is checked for order, and each complete block is judged and written or refused. -/
  | imageBlock (rx : Side) (m : WRx)
  /-- `IMAGE_RESULT` (R366). A received IMAGE_RESULT reports a block or image verdict to the host. -/
  | imageResult (rx : Side) (m : WRx)
  /-- `MEASURE` (R367). A received MEASURE carries the field manifest digest for extension into MS2. -/
  | measureMsg (rx : Side) (m : WRx)
  /-- `PASS_TIMER_WRAP` (R42). At slot 0 of the pass timer, a pass starts, the OUT frame is presented at the sample edge and the engine feed loads the pilot DACs. -/
  | passTimerWrap
  /-- `SEAM` (R53). At slot N − 16, the seam performs capture, swaps, commits, program swap, repairs and the PCNT update in fixed order. -/
  | seam (mm : Option MacMismatch)
  /-- `RUN_WRITE_1` (R47). A write of RUN 1 is refused on a family mismatch; otherwise it waits for a TIME_MARK or starts at the next timer wrap. -/
  | runWrite1 (v : W32)
  /-- `RUN_WRITE_0` (R51). A write of RUN 0 stops passes after the seam of the running pass. -/
  | runWrite0 (v : W32)
  /-- `FIRST_PASS_START` (R47). Once TICK_LOCK and a TIME_MARK are both present, the first pass starts at the identified tick with the timer set in phase. -/
  | firstPassStart
  /-- `SWAP_REQ` (R69). A write of REQ judges a program swap for pass n as BUSY, RATE, LENGTH, LATE or PENDING. -/
  | swapReq (v : W32)
  /-- `SWAP_CANCEL` (R72). A write of CANCEL withdraws a pending swap when it reaches the engine in time. -/
  | swapCancel (v : W32)
  /-- `MPY` (R117). Multiplies two data registers into a product-holding register. -/
  | mpy (i : FmtA)
  /-- `MPYXY` (R117). Multiplies the X and Y bus reads into a product-holding register. -/
  | mpyxy (i : FmtA)
  /-- `MAC` (R117). Adds the aligned product of two data registers to an accumulator. -/
  | mac (i : FmtA)
  /-- `MSU` (R117). Subtracts the aligned product of two data registers from an accumulator. -/
  | msu (i : FmtA)
  /-- `MACXY` (R117). Accumulates the product of the X and Y bus reads. -/
  | macxy (i : FmtA)
  /-- `MSUXY` (R117). Subtracts the product of the X and Y bus reads from an accumulator. -/
  | msuxy (i : FmtA)
  /-- `MACL` (R117). Multiply-accumulates while loading the X and Y reads into data registers. -/
  | macl (i : FmtA)
  /-- `MAC2` (R117). Accumulates two products, one from each multiplier. -/
  | mac2 (i : FmtA)
  /-- `MAC2N` (R117). Accumulates one product and subtracts another. -/
  | mac2n (i : FmtA)
  /-- `TAP` (R120). A filter tap that accumulates x × c and moves x up the delay line. -/
  | tapOp (i : FmtA)
  /-- `TAPC` (R121). Two circular taps from an X pair and a Y pair. -/
  | tapc (i : FmtA)
  /-- `MACPH` (R117). Adds or subtracts an aligned product-holding register to an accumulator with latency 1. -/
  | macph (i : FmtA)
  /-- `MACRZ` (R117). Accumulates a data register times a Z read. -/
  | macrz (i : FmtA)
  /-- `MACRY` (R117). Accumulates a data register times a Y read. -/
  | macry (i : FmtA)
  /-- `EXT` (R122). Extracts an accumulator into a data register with shift, rounding and saturation. -/
  | extOp (i : FmtA)
  /-- `EXTS` (R122). Extracts an accumulator and also writes the result on the bus operands that have write access. -/
  | extsOp (i : FmtA)
  /-- `ACC_CLR` (R123). Clears an accumulator. -/
  | accClr (i : FmtA)
  /-- `ACC_MOV` (R123). Copies one accumulator to another. -/
  | accMov (i : FmtA)
  /-- `ACC_ADD` (R123). Adds two accumulators. -/
  | accAdd (i : FmtA)
  /-- `ACC_SUB` (R123). Subtracts one accumulator from another. -/
  | accSub (i : FmtA)
  /-- `ACC_NEG` (R123). Negates an accumulator. -/
  | accNeg (i : FmtA)
  /-- `ACC_ABS` (R123). Takes the absolute value of an accumulator. -/
  | accAbs (i : FmtA)
  /-- `ACC_SHL` (R123). Shifts an accumulator left by SHIFT. -/
  | accShl (i : FmtA)
  /-- `ACC_SHR` (R123). Shifts an accumulator right by SHIFT. -/
  | accShr (i : FmtA)
  /-- `ACC_LDF` (R123). Loads a Q1.31 data register into an accumulator as Q10.62. -/
  | accLdf (i : FmtA)
  /-- `ACC_LDI` (R123). Loads a sign-extended integer data register into an accumulator. -/
  | accLdi (i : FmtA)
  /-- `ALU_ADD` (R124). Adds two data registers. -/
  | aluAdd (i : FmtA)
  /-- `ALU_SUB` (R124). Subtracts two data registers. -/
  | aluSub (i : FmtA)
  /-- `ALU_NEG` (R124). Negates a data register. -/
  | aluNeg (i : FmtA)
  /-- `ALU_ABS` (R124). Takes the absolute value of a data register. -/
  | aluAbs (i : FmtA)
  /-- `ALU_MIN` (R124). Takes the signed minimum of two data registers. -/
  | aluMin (i : FmtA)
  /-- `ALU_MAX` (R124). Takes the signed maximum of two data registers. -/
  | aluMax (i : FmtA)
  /-- `ALU_CMP` (R124). Sets the flags from a difference without writing a register. -/
  | aluCmp (i : FmtA)
  /-- `ALU_MOV` (R124). Copies a data register. -/
  | aluMov (i : FmtA)
  /-- `ALU_AVG` (R124). Averages two data registers, rounding up. -/
  | aluAvg (i : FmtA)
  /-- `LOGIC_AND` (R124). Bitwise AND of two data registers. -/
  | logicAnd (i : FmtA)
  /-- `LOGIC_OR` (R124). Bitwise OR of two data registers. -/
  | logicOr (i : FmtA)
  /-- `LOGIC_XOR` (R124). Bitwise XOR of two data registers. -/
  | logicXor (i : FmtA)
  /-- `LOGIC_ANDN` (R124). Bitwise AND with the complement of a data register. -/
  | logicAndn (i : FmtA)
  /-- `LOGIC_NOT` (R124). Bitwise NOT of a data register. -/
  | logicNot (i : FmtA)
  /-- `LOGIC_TST` (R124). Sets the flags from a bitwise AND without writing a register. -/
  | logicTst (i : FmtA)
  /-- `SHF_LSL` (R124). Logical left shift by SHIFT. -/
  | shfLsl (i : FmtA)
  /-- `SHF_LSR` (R124). Logical right shift by SHIFT. -/
  | shfLsr (i : FmtA)
  /-- `SHF_ASR` (R124). Arithmetic right shift by SHIFT. -/
  | shfAsr (i : FmtA)
  /-- `SHF_ROR` (R124). Rotate right by SHIFT. -/
  | shfRor (i : FmtA)
  /-- `SHF_LSL_REG` (R124). Logical left shift by a register amount. -/
  | shfLslReg (i : FmtA)
  /-- `SHF_LSR_REG` (R124). Logical right shift by a register amount. -/
  | shfLsrReg (i : FmtA)
  /-- `SHF_ASR_REG` (R124). Arithmetic right shift by a register amount. -/
  | shfAsrReg (i : FmtA)
  /-- `SHF_ROR_REG` (R124). Rotate right by a register amount. -/
  | shfRorReg (i : FmtA)
  /-- `NORM_AC` (R125). Counts the redundant sign bits of an accumulator. -/
  | normAc (i : FmtA)
  /-- `NORM_D` (R125). Counts the redundant sign bits of a data register. -/
  | normD (i : FmtA)
  /-- `CVT_Q131_TO_Q329` (R125). Converts Q1.31 to Q3.29, rounding half up. -/
  | cvtQ131ToQ329 (i : FmtA)
  /-- `CVT_Q329_TO_Q131` (R125). Converts Q3.29 to Q1.31, saturating. -/
  | cvtQ329ToQ131 (i : FmtA)
  /-- `CVT_F32_TO_Q131` (R125). Converts F32 to Q1.31, rounding and saturating. -/
  | cvtF32ToQ131 (i : FmtA)
  /-- `CVT_Q131_TO_F32` (R125). Converts Q1.31 to F32, rounding half up. -/
  | cvtQ131ToF32 (i : FmtA)
  /-- `CLAMP` (R125). Clamps a data register to ±another data register. -/
  | clamp (i : FmtA)
  /-- `PEAK` (R125). Updates a running peak of absolute values. -/
  | peak (i : FmtA)
  /-- `MOVR` (R126). Copies a register to a register by their codes. -/
  | movr (i : FmtM)
  /-- `BUS` (R127). Makes parallel loads and stores on X, Y and Z. -/
  | busOp (i : FmtA)
  /-- `SMOV` (R128). A string move of one word from one bus to another. -/
  | smov (i : FmtA)
  /-- `SFILL` (R128). A string fill from a data register on the bus operands that have write access. -/
  | sfill (i : FmtA)
  /-- `ATADD` (R129). Atomic add at a bank word, returning the old word. -/
  | atadd (i : FmtA)
  /-- `ATSWP` (R129). Atomic swap at a bank word, returning the old word. -/
  | atswp (i : FmtA)
  /-- `LDP` (R130). Loads pointers from bus reads. -/
  | ldp (i : FmtA)
  /-- `MACP` (R117). A paired multiply-accumulate on both MAC units into adjacent accumulators. -/
  | macp (i : FmtA)
  /-- `OPI_MOV` (R90). Sets a register to an immediate. -/
  | opiMov (i : FmtB)
  /-- `OPI_ADD` (R90). Adds an immediate to a register. -/
  | opiAdd (i : FmtB)
  /-- `OPI_AND` (R90). ANDs an immediate into a register. -/
  | opiAnd (i : FmtB)
  /-- `OPI_OR` (R90). ORs an immediate into a register. -/
  | opiOr (i : FmtB)
  /-- `OPI_XOR` (R90). XORs an immediate into a register. -/
  | opiXor (i : FmtB)
  /-- `LDX` (R117). Loads a data register from an absolute X address. -/
  | ldx (i : FmtB)
  /-- `LDY` (R117). Loads a data register from an absolute Y address. -/
  | ldy (i : FmtB)
  /-- `LDZ` (R117). Loads a data register from an absolute Z address. -/
  | ldz (i : FmtB)
  /-- `STX` (R117). Stores a register to an absolute X address. -/
  | stx (i : FmtB)
  /-- `STY` (R117). Stores a register to an absolute Y address. -/
  | sty (i : FmtB)
  /-- `STZ` (R117). Stores a register to an absolute Z address. -/
  | stz (i : FmtB)
  /-- `OPIM` (R131). Modifies a pointer by an immediate modifier under its modulo or bit-reverse rule. -/
  | opim (i : FmtB)
  /-- `NOP` (R117). Does nothing for one slot. -/
  | nopOp (i : FmtC)
  /-- `RPT` (R106). Starts a block repeat on the next repeat level, optionally cached. -/
  | rpt (i : FmtC)
  /-- `RPT_CHAN` (R110). Starts a channel repeat whose every iteration begins with a context load and advances CX. -/
  | rptChan (i : FmtC)
  /-- `RPT_SPAN` (R112). Runs a SPAN construct for BUDGET slots per pass, resuming iterations across passes. -/
  | rptSpan (i : FmtC)
  /-- `REPI` (R113). Repeats the next instruction a latched number of times. -/
  | repi (i : FmtC)
  /-- `LDCTX` (R110). Loads BX0 to BX7 and CFR from the context at CTX in 5 slots. -/
  | ldctx (i : FmtC)
  /-- `STCTX` (R131). Stores BX0 to BX7 and CFR to the context at CTX in 5 slots. -/
  | stctx (i : FmtC)
  /-- `EVT` (R132). Posts an engine event to the 16-entry queue. -/
  | evt (i : FmtC)
  /-- `PHASE` (R117). Sets PMASK and PMATCH from the instruction fields. -/
  | phaseOp (i : FmtC)
  /-- `NOPN` (R131). Does nothing for COUNT slots. -/
  | nopn (i : FmtC)
  /-- `USER_INSTRUCTION` (R133). Issues the control words of a decode-table entry in consecutive slots. -/
  | userInstruction (i : FmtU)
  /-- `RESERVED_OPCODE` (R87). An instruction with a reserved major opcode takes one slot and sets RESERVED_OP. -/
  | reservedOpcode (w : W64)
  /-- `MER_EVT_READ` (R132). A read of F.MER_EVT returns and removes the oldest event entry and clears OVF. -/
  | merEvtRead
  /-- `UCTL_COPY` (R137). A write of COPY copies the decode shadow and ULEN to the active table, or is refused while RUNNING. -/
  | uctlCopy (v : W32)
  /-- `FIELD_BANK_ACCESS` (R141). A field-master access to a bank is granted in a free half-cycle by arbitration and served. -/
  | fieldBankAccess (a : BusAcc)
  /-- `ECC_WRITEBACK` (R405). In the next idle cycle of its half, the bank writes back a corrected codeword. -/
  | eccWriteback (bank : BankId) (cw : Nat)
  /-- `ATOMIC_ADD_ALIAS` (R145). An access to the atomic-add alias adds indivisibly to the bank word. -/
  | atomicAddAlias (a : BusAcc)
  /-- `ATOMIC_SWAP_ALIAS` (R145). An access to the atomic-swap alias swaps the bank word indivisibly. -/
  | atomicSwapAlias (a : BusAcc)
  /-- `X_SCRUB` (R71). In an idle X slot, the scrubber writes zero to a marked word and removes its mark. -/
  | xScrub (w : Nat)
  /-- `CG_DESC_WRITE` (R147). A write to a coefficient group descriptor is applied or refused, and disabling the group discards its staged values. -/
  | cgDescWrite (g : Nat) (v : W32)
  /-- `BUNDLE_REQ` (R150). A write of REQ to F.CG_CMD, or a Legend COMMIT, is judged as a commit bundle for pass n. -/
  | bundleReq (v : W32)
  /-- `BUNDLE_CANCEL` (R152). A write of CANCEL withdraws the pending bundles of the given TAG that reach the engine in time. -/
  | bundleCancel (v : W32)
  /-- `BIND_COPY` (R160). A write of COPY makes the shadow binding table and NENT active, or is refused while RUNNING. -/
  | bindCopy (v : W32)
  /-- `SILT_READY` (R166). When DRAM training, the march and the repairs complete, READY sets. -/
  | siltReady
  /-- `SILT_WINDOW_ACCESS` (R164). A field-master access through the 256 MiB window reaches Silt at WBASE plus the offset. -/
  | siltWindowAccess (a : BusAcc)
  /-- `SILT_LINE_WRITE` (R169). A write to a line descriptor is applied or refused, and an EN change takes effect at the next seam slot 6. -/
  | siltLineWrite (l : Nat) (word : Nat) (v : W32)
  /-- `SILT_TAP_CONFIG_WRITE` (R171). A write to a tap configuration is applied or refused, and an EN change takes effect at the next seam slot 6. -/
  | siltTapConfigWrite (e : Nat) (v : W32)
  /-- `DELAY_LO_WRITE` (R178). A write of DELAY_LO forms the delay and stages it, or puts it in force with LINK 0. -/
  | delayLoWrite (e : Nat) (v : W32)
  /-- `DELAY_HI_WRITE` (R178). A write of DELAY_HI holds its value for the next DELAY_LO write. -/
  | delayHiWrite (e : Nat) (v : W32)
  /-- `CAPTURE_ARM` (R182). A write of ARM clears the ring's flags and starts recording at frame 0. -/
  | captureArm (v : W32)
  /-- `CAPTURE_FREEZE` (R183). A write of FREEZE triggers the capture ring at the current frame. -/
  | captureFreeze (v : W32)
  /-- `CAPTURE_POST_DONE` (R183). After POST frames following the trigger, ARMED clears and FROZEN sets. -/
  | capturePostDone
  /-- `CAPTURE_EN_WRITE` (R187). A write of capture EN 0 triggers and freezes the ring at the last frame. -/
  | captureEnWrite (v : W32)
  /-- `PLAYBACK_START` (R185). A START is judged for a mask of clips and pass S, which apply at seam slot 6 of pass S − 1. -/
  | playbackStart (v : W32)
  /-- `PLAYBACK_STOP` (R185). A STOP is judged, and the clips deliver 0 from pass S on. -/
  | playbackStop (v : W32)
  /-- `SILT_CTRL_EN_WRITE` (R187). A write of F.SILT_CTRL EN starts or stops the streamer at the end of the pass. -/
  | siltCtrlEnWrite (v : W32)
  /-- `SILT_PATROL` (R407). The controller reads every Silt codeword each 8 hours and writes back those it corrects. -/
  | siltPatrol (cw : Nat)
  /-- `SAP_CFG_WRITE` (R191). A write of F.SAP_CFGp stages a configuration or is refused. -/
  | sapCfgWrite (p : Nat) (v : W32)
  /-- `SAP_ENABLE_WRITE` (R192). A write of a port's EN enables it with a restart, or disables it at the next frame boundary. -/
  | sapEnableWrite (p : Nat) (v : W32)
  /-- `SAP_BALL_FRAME` (R193). A port completes one word-select frame, taking or sending its left and right words. -/
  | sapBallFrame (p : Nat) (l r : List Bool) (edgesL edgesR : Nat)
  /-- `SAP_GLITCH` (R211). A short bit-clock phase discards the edge pair, repeats the word and realigns the port. -/
  | sapGlitch (p : Nat) (right : Bool)
  /-- `SAP_CLOCK_LOST` (R211). No bit-clock edge for four expected periods sets LOST, fades the inputs and stops a reference port's group. -/
  | sapClockLost (p : Nat)
  /-- `SAP_CLOCK_RETURN` (R211). Two good frames after a loss clear LOST, centre a reference port's group and fade the inputs in. -/
  | sapClockReturn (p : Nat)
  /-- `GROUP_FRAME` (R198). At each reference-port frame, the group writes input pairs and reads output pairs, slipping at the buffer limits. -/
  | groupFrame (g : Nat)
  /-- `RATE_WINDOW` (R207). Every 1/16 s each port's rate is measured and CODE and DEV_HI are updated, with an EVENT on change. -/
  | rateWindow (p : Nat) (frames ticks8 : Nat)
  /-- `MCLK_CTL_WRITE` (R197). A write of MCLK DIV or EN takes effect at the next sample edge. -/
  | mclkCtlWrite (v : W32)
  /-- `OSC_MODE_WRITE` (R201). A write of MODE changes the steering source bumplessly. -/
  | oscModeWrite (v : W32)
  /-- `OSC_TRIM_WRITE` (R202). A write of TRIM sets the free-running target, which the frequency slews toward. -/
  | oscTrimWrite (v : W32)
  /-- `FAMILY_WRITE` (R206). A write of FAMILY retunes the PLL while RUNNING is 0, or is refused. -/
  | familyWrite (v : W32)
  /-- `PLL_LOCK` (R206). When the engine PLL locks, PLL_LOCK sets and the G0 clocks and MCLK run. -/
  | pllLock
  /-- `OSC_LOCAL_LOCK` (R204). After FILL stays within 32 ± 0.25 frames for 1 s, the local loop sets LOCK. -/
  | oscLocalLock
  /-- `RSMP_LOCK` (R210). A resampler channel's rate estimate locks and its fade-in starts. -/
  | rsmpLock (j : Nat)
  /-- `SNS_CFG_WRITE` (R228). A write of F.SNS_CFGi stages a sense configuration or is refused. -/
  | snsCfgWrite (i : Nat) (v : W32)
  /-- `SNS_ENABLE_WRITE` (R229). A write of a sense channel's EN enables it with a restart, or disables it holding the last output. -/
  | snsEnableWrite (i : Nat) (v : W32)
  /-- `SMCLK_WRITE` (R218). A write of F.SNS_SMCLK enables or inverts a modulator clock and restarts the pairs it times. -/
  | smclkWrite (v : W32)
  /-- `SENSE_BOUNDARY` (R226). At an output boundary, a decimated sense sample is written to the IN frame with its new-sense flag. -/
  | senseBoundary (i : Nat) (bits : List Bool)
  /-- `STUCK` (R220). 1,024 bits without a transition set STUCK and send an EVENT. -/
  | stuck (i : Nat) (recent : Bool)
  /-- `STUCK_CLEAR` (R220). The next transition on a stuck input clears STUCK and sends an EVENT. -/
  | stuckClear (i : Nat) (recent : Bool)
  /-- `SNS_FIR_WRITE` (R230). A write of a shadow FIR tap marks its set dirty, or is refused while the linked group glides. -/
  | snsFirWrite (set tap : Nat) (v : W32)
  /-- `PDAC_CODE_WRITE` (R235). A write of CODE loads the converter within 2 slots. -/
  | pdacCodeWrite (c : Nat) (v : W32)
  /-- `PDAC_SRC_WRITE` (R235). A write of SRC changes how the code is formed and loads the converter. -/
  | pdacSrcWrite (c : Nat) (v : W32)
  /-- `PDAC_AMP_WRITE` (R239). A write of AMP changes the sine amplitude from the next update edge. -/
  | pdacAmpWrite (c : Nat) (v : W32)
  /-- `PDAC_FTW_WRITE` (R239). A write of FTW changes the sine frequency from the next update edge. -/
  | pdacFtwWrite (c : Nat) (v : W32)
  /-- `PDAC_SPAN_WRITE` (R237). A write of a new SPAN loads 0 V and starts the span sequence. -/
  | pdacSpanWrite (c : Nat) (v : W32)
  /-- `PDAC_SPAN_CLAMP` (R237). 10 µs into the span sequence, the ball is clamped at 0 V and the output stage switches range. -/
  | pdacSpanClamp (c : Nat)
  /-- `PDAC_SPAN_RELEASE` (R237). 60 µs into the span sequence, the clamp releases and the converter loads in the new span. -/
  | pdacSpanRelease (c : Nat)
  /-- `DEGLITCH_HOLD_END` (R236). 200 ns after the last major-carry load, the output moves to the new level. -/
  | deglitchHoldEnd (c : Nat)
  /-- `PDAC_EN_WRITE` (R238). A write of EN 0 loads the safe code and stops the sine generator. -/
  | pdacEnWrite (c : Nat) (v : W32)
  /-- `SUPPLY_LOW` (R238). AVDD or AVSS outside its limit sets SUPPLY_LOW, sends an EVENT and clamps every DAC at 0 V. -/
  | supplyLow (avddOk avssOk : Bool)
  /-- `SUPPLY_RECOVER` (R238). After both supplies are in limits for 1 ms, the clamp releases and the channels reload. -/
  | supplyRecover
  /-- `SINE_UPDATE` (R239). At each of 16 update edges per tick, the phase accumulator advances and a new sine value loads. -/
  | sineUpdate (u : Nat)
  /-- `SYNC_REQ` (R240). A write of REQ judges a phase sync for a mask and tick S. -/
  | syncReq (v : W32)
  /-- `PORT_LINK_UP` (R244). A Causeway port gains synchronisation and negotiation; its role is set, blocked on a speed mismatch, and calibration starts. -/
  | portLinkUp (x : Port) (speed1000 anDone remoteFault : Bool)
  /-- `PORT_LINK_DOWN` (R257). A port's link goes down; a downstream loss sends LEAVE and an upstream loss counts as lost upstream. -/
  | portLinkDown (x : Port)
  /-- `SPEED_TRY_TIMEOUT` (R244). In AUTO, after 200 ms without a link, the port switches to the other speed. -/
  | speedTryTimeout (x : Port)
  /-- `PORT_EN_WRITE` (R41). A write of a port's EN 0 ends the frame in progress, holds the link down and returns its credits. -/
  | portEnWrite (x : Port) (v : W32)
  /-- `CW_EN_WRITE` (R41). A write of H.CW_CTRL EN 0 disables every Causeway port. -/
  | cwEnWrite (v : W32)
  /-- `MDIO_GO` (R245). A write of GO starts a clause 22 or clause 45 MDIO command, or is refused while busy. -/
  | mdioGo (v : W32)
  /-- `MDIO_FRAME_DONE` (R245). At the end of an MDIO frame, GO clears and read data is available. -/
  | mdioFrameDone (rdata : BitVec 16)
  /-- `S_FRAME` (R262). A received S frame is checked, forwarded cut-through downstream and held for hand-off. -/
  | sFrame (x : Port) (f : CwRx) (cut : List Port)
  /-- `S_FRAME_SEND` (R261). At t(m) − SLEAD, the head starts S frame m on every downstream port, pre-empting gap traffic. -/
  | sFrameSend (cut : List Port)
  /-- `S_FRAME_MISSING` (R262). No valid S frame within ±1 µs of the expected instant counts SMISS, and no STREAM_IN is sent. -/
  | sFrameMissing
  /-- `STREAM_IN_HANDOFF` (R262). At t(m) − 9,700 ns, or when ready, the host bridge hands the chain channels to the Weir. -/
  | streamInHandoff (late : Bool)
  /-- `U_FRAME` (R265). A child's U frame is received and checked for timing for merging. -/
  | uFrame (x : Port) (f : CwRx)
  /-- `U_FRAME_SEND` (R265). At its instant, the node sends its U frame, merging its own return words and its children's slots by token table. -/
  | uFrameSend (cut : Bool)
  /-- `GAP_FRAME_SEND` (R271). When a gap has room, the port sends the next ready T, A, E, V or P frame or fragment. -/
  | gapFrameSend (x : Port) (room t : Nat)
  /-- `T_REQ` (R285). A received T_REQ is timestamped and answered with a T_RESP in the next gap. -/
  | tReq (x : Port) (f : CwRx)
  /-- `T_REQ_SEND` (R285). Every 1 ms, or 125 µs during calibration, the downstream end sends a T_REQ on its time-path and standby ports. -/
  | tReqSend (x : Port) (t1 : Nat)
  /-- `T_RESP` (R287). A received T_RESP yields delay and offset; the loop steers or steps, and class, anchor and rate changes are taken. -/
  | tResp (x : Port) (f : CwRx)
  /-- `CAL_DONE` (R286). After 256 exchanges, the link's forward delay is set and CAL_DONE sets. -/
  | calDone (x : Port)
  /-- `TIME_LOST` (R288). 32 unanswered exchanges make the node lose upstream time and enter holdover. -/
  | timeLost
  /-- `V_FRAME` (R258). A received V frame is reassembled and routed by the route table, or delivered to Legend. -/
  | vFrame (x : Port) (f : CwRx)
  /-- `P_FRAME` (R258). A received P frame is reassembled and bridged by the learning table. -/
  | pFrame (x : Port) (f : CwRx)
  /-- `LEARN_AGE` (R258). A learning-table entry ages out after 300 s. -/
  | learnAge (mac : BitVec 48)
  /-- `DISCOVER` (R254). A received DISCOVER records depth, path delay and epoch and is re-sent downstream, or marks a loop. -/
  | discover (x : Port) (f : CwRx)
  /-- `DISCOVER_SEND` (R254). Every 100 ms, the head sends DISCOVER on every downstream port. -/
  | discoverSend
  /-- `HEAD_LISTEN_TIMEOUT` (R252). After 300 ms without a DISCOVER, a HEAD_EN node becomes head, sets its anchor and starts enumeration. -/
  | headListenTimeout
  /-- `REENUM` (R255). A write of REENUM at the head starts a full enumeration. -/
  | reenum (v : W32)
  /-- `REPORT` (R255). A received REPORT records a subtree count, and the node reports upward once all ports have reported. -/
  | report (x : Port) (f : CwRx)
  /-- `REPORT_TIMEOUT` (R255). 1 s after forwarding DISCOVER, a node sends REPORT, counting unreported ports as 0. -/
  | reportTimeout
  /-- `REPORT_RESEND` (R274). A REPORT or ASSIGN left unanswered for 50 ms is sent again. -/
  | reportResend
  /-- `ASSIGN` (R255). A received ASSIGN gives the node its address and passes runs to CB and CC, or sets OVERFLOW. -/
  | assignMsg (x : Port) (f : CwRx)
  /-- `GRANT` (R268). A received GRANT sets a token table entry toward the owner at frame E. -/
  | grant (x : Port) (f : CwRx)
  /-- `REVOKE` (R268). A received REVOKE clears a token table entry at frame E. -/
  | revoke (x : Port) (f : CwRx)
  /-- `RELOCATE` (R276). A received RELOCATE sets route and token entries toward its arrival port at the effective frame. -/
  | relocate (x : Port) (f : CwRx)
  /-- `ROUTE` (R276). A received ROUTE clears stale route and token entries at the effective frame. -/
  | routeMsg (x : Port) (f : CwRx)
  /-- `LEAVE` (R257). A received LEAVE makes the head hold the named addresses for ADDR_HOLD. -/
  | leave (x : Port) (f : CwRx)
  /-- `ADDR_HOLD_EXPIRY` (R257). After ADDR_HOLD seconds, the head frees the held addresses. -/
  | addrHoldExpiry (addr : BitVec 12)
  /-- `OFFLINE_TIMEOUT` (R259). After 1 s with no DISCOVER, an OFFLINE node that is not head enters AUTONOMOUS. -/
  | offlineTimeout
  /-- `UPSTREAM_LOST` (R259). After 300 ms without DISCOVER upstream and no switchover, the node enters AUTONOMOUS. -/
  | upstreamLost
  /-- `TOKEN_AUDIT_SEND` (R269). Every second, the head floods 8 TOKEN_AUDIT frames. -/
  | tokenAuditSend
  /-- `TOKEN_AUDIT` (R269). A received TOKEN_AUDIT is compared with the token table, and mismatches are sent as DISPUTE. -/
  | tokenAudit (x : Port) (f : CwRx)
  /-- `DISPUTE` (R269). A received DISPUTE makes the head revoke and regrant each disputed token. -/
  | dispute (x : Port) (f : CwRx)
  /-- `CREL_ONLY` (R273). A received CREL_ONLY delivers credit releases. -/
  | crelOnly (x : Port) (f : CwRx)
  /-- `CAUDIT_SEND` (R273). Every second, each port sends CAUDIT with its cumulative SENT count. -/
  | cauditSend
  /-- `CW_AUDIT_NOW` (R273). A write of H.CW_CTRL AUDIT_NOW sends CAUDIT on every port. -/
  | cwAuditNow (v : W32)
  /-- `CAUDIT` (R273). A received CAUDIT returns lost credits or starts a credit resynchronisation. -/
  | caudit (x : Port) (f : CwRx)
  /-- `CRESYNC` (R273). A received CRESYNC makes the sender stop credited frames and send CRESYNC_ACK. -/
  | cresync (x : Port) (f : CwRx)
  /-- `CRESYNC_ACK` (R273). A received CRESYNC_ACK resets the receiver's credit counts. -/
  | cresyncAck (x : Port) (f : CwRx)
  /-- `CINIT` (R273). At link-up, a received CINIT gives each side 32 credits. -/
  | cinit (x : Port) (f : CwRx)
  /-- `SLOT_MAP_COMMIT` (R264). A Legend COMMIT of the slot map is judged for sequence C. -/
  | slotMapCommit (q : LegReq)
  /-- `RETURN_COMMIT` (R266). A Legend COMMIT of the return-word map is judged for a U sequence. -/
  | returnCommit (q : LegReq)
  /-- `SOURCE_COMMIT` (R270). A Legend COMMIT of the head's source map is judged for an S sequence. -/
  | sourceCommit (q : LegReq)
  /-- `TICK_EMIT` (R283). The host Datum unit emits the edge of tick m on the tick lane at its scheduled instant. -/
  | tickEmit (m : W64)
  /-- `TIME_MARK_SEND` (R28). The host sends a TIME_MARK every 1,024 ticks, on a class change and after bring-up. -/
  | timeMarkSend
  /-- `RATE_CHANGE_REQ` (R298). A rate change request at the head is judged for pass n. -/
  | rateChangeReq (v : W32)
  /-- `TIME_STEP` (R290). A write of GO at the head steps Datum time forward by STEP_MS. -/
  | timeStep (v : W32)
  /-- `SRC_OFS_WRITE` (R289). A write of H.DT_SRC_OFS supplies one PTP offset measurement to the head's loop. -/
  | srcOfsWrite (v : W32)
  /-- `TPPS_EDGE` (R289). A rising TPPS edge gives the head's source phase at the written TAI second. -/
  | tppsEdge (est : Nat)
  /-- `SRC_LOST` (R290). When the head's source times out, SRC_HOLD sets and the frequency is held. -/
  | srcLost
  /-- `CLASS_RISE` (R295). After the higher class's conditions hold for 10 s, the class rises, a TIME_MARK is added and an EVENT is sent. -/
  | classRise
  /-- `HOLDOVER_EXPIRY` (R297). When HOLD exceeds HOLD_MAX, the class becomes N. -/
  | holdoverExpiry
  /-- `READ` (R317). A Legend READ is judged and answered with the entry's value. -/
  | readReq (q : LegReq)
  /-- `WRITE` (R317). A Legend WRITE is judged and applied to the entry, or to a binding-point shadow. -/
  | writeReq (q : LegReq)
  /-- `READ_BLOCK` (R317). A Legend READ_BLOCK returns part of a large value. -/
  | readBlock (q : LegReq)
  /-- `WRITE_BUNDLE` (R321). A WRITE_BUNDLE checks all items, stages them and requests a bundle and slot-map commit for pass n. -/
  | writeBundle (q : LegReq)
  /-- `SUBSCRIBE` (R324). A SUBSCRIBE creates, renews or cancels a periodic or on-change notification. -/
  | subscribeReq (q : LegReq)
  /-- `DESCRIBE` (R317). A DESCRIBE returns an entry's type, access, roles, flags, size and limits. -/
  | describeReq (q : LegReq)
  /-- `NOTIFY_SEND` (R324). Each period, the node sends a NOTIFY for a subscription, or drops it without credit. -/
  | notifySend (n : Nat)
  /-- `SUBSCRIPTION_LAPSE` (R324). A subscription not renewed for 60 s ends. -/
  | subscriptionLapse (n : Nat)
  /-- `WATCH_CHECK` (R326). Every 100 ms, enabled watches are compared with their thresholds and fire EVENT WATCH. -/
  | watchCheck
  /-- `DUP_EXPIRY` (R327). Duplicate-store outcomes older than 2 s are removed. -/
  | dupExpiry (side : Side) (rid rseq : BitVec 16)
  /-- `WEIR_FORWARD_TIMEOUT` (R329). 20 ms without a PARAM_RESP makes the host store ABANDONED and send no response. -/
  | weirForwardTimeout (rid rseq : BitVec 16)
  /-- `SESSION_CHALLENGE_READ` (R310). A read of 0100h sub 01h returns a fresh one-use challenge. -/
  | sessionChallengeRead (q : LegReq)
  /-- `OPEN` (R310). An ACTION on 0100h sub 02h checks the proof and opens a session, or answers AUTH. -/
  | openSession (q : LegReq) (endpoint : BitVec 48) (within : Bool)
  /-- `OPEN_LOCKOUT_END` (R310). 60 s after the lockout began, OPEN is accepted again. -/
  | openLockoutEnd
  /-- `CLOSE` (R311). An ACTION on 0100h sub 03h closes the calling session. -/
  | closeSession (q : LegReq)
  /-- `SESSION_IDLE` (R311). A session without a request for IDLE_MAX seconds closes. -/
  | sessionIdle (n : Nat)
  /-- `SAFE` (R259). The SAFE ACTION moves the node from RUNNING to SAFE and mutes it. -/
  | safeCmd (q : LegReq)
  /-- `RESUME` (R259). The RESUME ACTION clears the stop, and the node returns as its conditions allow. -/
  | resumeCmd (q : LegReq)
  /-- `SAVE` (R314). The SAVE ACTION writes a complete persistence record to flash, or answers BUSY. -/
  | saveCmd (q : LegReq)
  /-- `SAVE_DONE` (R315). When the record is written, the SAVE is answered. -/
  | saveDone
  /-- `DEFAULTS` (R313). The DEFAULTS ACTION writes defaults to every persistent entry in configuration state. -/
  | defaultsCmd (q : LegReq)
  /-- `BUMP` (R333). The BUMP ACTION raises the head's epoch by 1. -/
  | bump (q : LegReq)
  /-- `APPLY` (R334). The APPLY ACTION makes the staged profile the profile in force and raises the epoch. -/
  | applyProfile (q : LegReq)
  /-- `PROFILE_FETCH` (R335). Every 100 ms, a node whose profile image is stale reads IMAGE from the head. -/
  | profileFetch
  /-- `PROFILE_EVALUATE` (R336). Within 10 ms of a trigger, the node evaluates its disagreement bits and moves to or from QUARANTINE. -/
  | profileEvaluate
  /-- `LIFECYCLE_ADVANCE` (R343). The ADVANCE ACTION checks authority and blows the next lifecycle fuse, wiping or voiding as needed. -/
  | lifecycleAdvance (q : LegReq)
  /-- `LIFECYCLE_CHALLENGE_READ` (R344). A read of 8000h sub 03h returns a fresh token challenge valid for 60 s. -/
  | lifecycleChallengeRead (q : LegReq)
  /-- `UNLOCK` (R345). An accepted UNLOCK token opens the named test ports until power-on and extends MS5. -/
  | unlock (q : LegReq)
  /-- `TEST_TOKEN` (R345). The TOKEN instruction shifts a token into a locked test port for judgement. -/
  | testToken (side : Side) (token : TokenIn)
  /-- `TEST_CTRL_WRITE` (R345). A write of OPEN or LOCK to TEST_CTRL is applied only as the lifecycle permits. -/
  | testCtrlWrite (side : Side) (v : W32)
  /-- `KEY_ADD` (R348). KEY_ADD programs an empty key slot with a digest or a KEY_ADD token. -/
  | keyAdd (q : LegReq)
  /-- `KEY_REVOKE` (R348). KEY_REVOKE revokes a key slot by token. -/
  | keyRevoke (q : LegReq)
  /-- `BOOT_SOURCE_ABANDON` (R350). A boot source that times out or fails is abandoned and the next one is tried. -/
  | bootSourceAbandon
  /-- `PULL_SEND` (R350). Every 100 ms, a booting ROM sends a PULL on CA. -/
  | pullSend
  /-- `PULL` (R350). A received PULL ACTION is answered OK. -/
  | pull (q : LegReq)
  /-- `STAGE1_START` (R359). When an image is chosen, the ROM extends MS0, derives AK, sets the locks and PMP, and jumps to stage 1. -/
  | stage1Start
  /-- `FIELD_READY_SEND` (R365). Every 10 ms until block 0 arrives, the field ROM sends IMAGE_RESULT READY. -/
  | fieldReadySend
  /-- `QUOTE` (R362). The QUOTE ACTION starts a signed quote with a nonce, or answers BUSY. -/
  | quote (q : LegReq)
  /-- `QUOTE_DONE` (R362). Within 20 ms, the quote is made and readable. -/
  | quoteDone
  /-- `MS_EXTEND` (R361). An extend sets MSk to the hash of MSk and the digest, or is refused for a locked MS0. -/
  | msExtend (v : W32)
  /-- `KS_DERIVE` (R363). A write of GO derives a sealing key into a handle, or refuses it by version or lock. -/
  | ksDerive (v : W32)
  /-- `KS_LOCK_WRITE` (R359). A write of 1 to a key-store lock sets it until core reset. -/
  | ksLockWrite (v : W32)
  /-- `IMAGE_OPEN` (R373). The image OPEN ACTION starts erasing the inactive slot. -/
  | imageOpen (q : LegReq)
  /-- `IMAGE_ERASE_DONE` (R373). When the erase completes, the transfer accepts pieces. -/
  | imageEraseDone
  /-- `IMAGE_ACTIVATE` (R374). ACTIVATE writes the directory and restarts only the changed sides under policy 0. -/
  | imageActivate (q : LegReq)
  /-- `IMAGE_ABORT` (R373). ABORT returns the transfer to IDLE and leaves the directory unchanged. -/
  | imageAbort (q : LegReq)
  /-- `FAULT_LOG_CLEAR` (R375). The CLEAR ACTION erases the fault log. -/
  | faultLogClear (q : LegReq)
  /-- `DMA_QUEUE_ENABLE` (R384). A write of a queue's EN 1 makes it ready to run its posted descriptors. -/
  | dmaQueueEnable (die : Side) (n : Nat) (v : W32)
  /-- `DMA_QUEUE_DISABLE` (R387). A write of a queue's EN 0 completes the beat, returns every descriptor ABORTED and equalises the indices. -/
  | dmaQueueDisable (die : Side) (n : Nat) (v : W32)
  /-- `DMA_RESUME` (R386). A write of RESUME clears HALTED and continues the queue. -/
  | dmaResume (die : Side) (n : Nat) (v : W32)
  /-- `DMA_AUDIT` (R388). A write of AUDIT checks the queue's indices and resynchronises it on a mismatch. -/
  | dmaAudit (die : Side) (n : Nat) (v : W32)
  /-- `DMA_PIDX_WRITE` (R378). A write of PIDX posts descriptors, or is ignored and sets OVERPOST. -/
  | dmaPidxWrite (die : Side) (n : Nat) (v : W32)
  /-- `DMA_DESC_FETCH` (R379). The engine fetches a descriptor in two beats and advances CIDX. -/
  | dmaDescFetch (die : Side) (n : Nat)
  /-- `DMA_NOP` (R379). A NOP descriptor returns at once. -/
  | dmaNop (die : Side) (n : Nat)
  /-- `DMA_COPY` (R379). A COPY descriptor moves LEN bytes from SRC to DST in beats. -/
  | dmaCopy (die : Side) (n : Nat) (beats : Nat)
  /-- `DMA_FILL` (R379). A FILL descriptor writes the pattern over LEN bytes. -/
  | dmaFill (die : Side) (n : Nat) (beats : Nat)
  /-- `DMA_SPP` (R390). An SPP descriptor runs a framed SPP transfer on the bound port. -/
  | dmaSpp (n : Nat) (rx : List Byte)
  /-- `SPP_EN_WRITE` (R392). A write of a port's EN 0 completes the word, releases the select and returns the entry ABORTED. -/
  | sppEnWrite (x : Nat) (v : W32)
  /-- `SPP_SELECT_LOST` (R393). A mismatch on the select or SCLK releases the balls, sets MM_FAULT and halts the queue. -/
  | sppSelectLost (x : Nat)
  /-- `XIP_READ` (R394). A read of the execution window is served from the prefetch buffer or by a miss frame. -/
  | xipRead (off : BitVec 28)
  /-- `XIP_EN_WRITE` (R394). A write of XIP_EN enables or clears execute-in-place, sending an exit frame on clearing. -/
  | xipEnWrite (v : W32)
  /-- `SLAVE_REG_READ` (R397). A slave register-read transaction returns the status byte and register words. -/
  | slaveRegRead (a : BitVec 6) (words : RegBeats)
  /-- `SLAVE_REG_WRITE` (R397). A slave register-write transaction writes words to the slave registers. -/
  | slaveRegWrite (a : BitVec 6) (data : RegWords)
  /-- `EXCHANGE_READ` (R398). A slave exchange-bank read returns the status byte and words, with underrun handling. -/
  | exchangeRead (a : BitVec 16) (words : Nat) (collide late : List Nat)
  /-- `EXCHANGE_WRITE` (R397). A slave exchange-bank write passes words through the four-word buffer into the bank. -/
  | exchangeWrite (a : BitVec 16) (data : List W32) (collide : List Nat) (full : List Nat)
  /-- `SLAVE_CS_RELEASE` (R399). The release of CS0 ends a transaction cleanly or sets ABORT and PARTIAL. -/
  | slaveCsRelease (bits : Nat)
  /-- `RESPONSE_DROP` (R402). A response blocked for 20 ms in the exchange ring is dropped. -/
  | responseDrop
  /-- `MARCH_GO` (R412). A write of GO, or the Legend MARCH command, starts a destructive or transparent march on a bank, or refuses it. -/
  | marchGo (side : Side) (v : W32)
  /-- `MARCH_ABORT` (R412). A write of ABORT stops the test after its current codeword. -/
  | marchAbort (side : Side) (v : W32)
  /-- `MARCH_DONE` (R413). The march test of a bank completes, with failing rows made repair candidates. -/
  | marchDone (side : Side) (bank : Nat) (rows : List Nat)
  /-- `REPAIR_REQUEST` (R415). A MEM_REPAIR GO or Legend REPAIR makes a named row a repair candidate. -/
  | repairRequest (side : Side) (v : W32)
  /-- `REPAIR_START` (R416). Within 1 ms of a candidate, a spare is chosen and the row copy begins, or RESERVE_OUT is raised. -/
  | repairStart (side : Side) (bank row : Nat)
  /-- `REPAIR_COPY_DONE` (R416). When the copy ends, the remap is scheduled for the next seam slot 9 or the next cycle. -/
  | repairCopyDone (side : Side) (spareBad : Bool)
  /-- `REPAIR_RECORD_RESTORE` (R419). A write to 9100h sub 41h reapplies field repair records at boot. -/
  | repairRecordRestore (m : WRx) (bad : List (Nat × Nat))
  /-- `TEMP_SAMPLE` (R446). Every 10 ms, each die's temperature is read, and HOT sets at 105 °C. -/
  | tempSample (side : Side) (t : BitVec 12)
  /-- `REGISTER_WRITE` (R7). A write to a register with no row of its own updates its fields, with reserved encodings refused as its chapter states. -/
  | registerWrite (side : Side) (off : RegAt) (v : W32)
  /-- `READ_SNAPSHOT` (R8). A read of the low word of a multi-word RS register latches all its other words for later reads. -/
  | readSnapshot (side : Side) (off : RegAt)
  /-- `WEIR_RESERVED_TYPE` (R19). A received Weir message with TYPE Eh or Fh is dropped and counted in WEIR_CNT_TYPE. -/
  | weirReservedType (rx : Side) (top : Bool) (m : WRx)
  /-- `STATUS_SEND` (R18). Once per millisecond the field side queues a STATUS message of periodic field status, including its temperature. -/
  | statusSend
  /-- `OSC_SLEW_END` (R202). In free-running mode the frequency reaches the TRIM target and SLEWING clears. -/
  | oscSlewEnd
  /-- `WCKI_EDGE` (R289). A rising WCKI edge gives the head with SRC 011b its source frequency and tick phase, and its return ends SRC_HOLD. -/
  | wckiEdge (est : Nat)
  /-- `ACTION` (R317). A Legend ACTION request is judged by the duplicate store, epoch, entry, access, role and type, and runs the command or is refused. -/
  | actionReq (q : LegReq)
  /-- `PROFILE_STALE` (R337). When a node has not held the profile of its epoch for 2 s since the epoch changed, STALE sets and a JOINING node is decided. -/
  | profileStale
  /-- `SPP_SELECT_IDLE` (R393). With MM 1, once the select and SCLK have been sensed idle for IDLE_MIN clocks, WAITSEL clears and the waiting frame starts. -/
  | sppSelectIdle (x : Nat)
  deriving DecidableEq, Repr

end Sys2Proof
end

