-- ==== Sys2Proof/Decode.lean ====
section
/-! DEFINITION. The words of the Meridian engine (R87 to R92, R117, R126): the command that a program word spells, and the word of a command.
The command table itself gives its rows no bits. -/

namespace Sys2Proof

/-- The command that a word spells by the bits of the command table: the table gives no row bits, so none. -/
def decodeTableWord (_nbits _w : Nat) : Option Instr := none

/-- Bits `lo` to `lo + n - 1` of a program word. -/
def wbits (w : W64) (lo n : Nat) : BitVec n := w.extractLsb' lo n

/-- The fields of format A (R88), B (R90), C (R91), U (R92) and of MOVR (R126). -/
def fmtA (w : W64) : FmtA :=
  { cond := wbits w 60 4, f := wbits w 53 1, sat := wbits w 52 1, pf := wbits w 50 2, unit := wbits w 49 1, acd := wbits w 46 3,
    ra := wbits w 42 4, rb := wbits w 38 4, xop := wbits w 29 9, yop := wbits w 20 9, zop := wbits w 11 9, sub := wbits w 6 5,
    shift := wbits w 2 4, ofmt := wbits w 0 2 }
def fmtB (w : W64) : FmtB :=
  { cond := wbits w 60 4, reg := wbits w 47 7, iop := wbits w 44 3, rsv := wbits w 32 12, imm := wbits w 0 32 }
def fmtC (w : W64) : FmtC :=
  { cond := wbits w 60 4, blen := wbits w 46 8, cache := wbits w 45 1, span := wbits w 44 1, chan := wbits w 43 1, csrc := wbits w 41 2,
    creg := wbits w 37 4, cstep := wbits w 33 4, count := wbits w 17 16, budget := wbits w 5 12, rsv := wbits w 0 5 }
def fmtU (w : W64) : FmtU :=
  { cond := wbits w 60 4, user := wbits w 52 5, acd := wbits w 49 3, ra := wbits w 45 4, rb := wbits w 41 4, xop := wbits w 32 9,
    yop := wbits w 23 9, zop := wbits w 14 9, uimm := wbits w 0 14 }
def fmtM (w : W64) : FmtM := { cond := wbits w 60 4, bits := wbits w 0 54 }

/-- ACC, ALU, LOGIC, SHF, NORM and CVT by SUB (R123 to R125); a code not listed is reserved. -/
def decodeSub (maj : Nat) (w : W64) : Instr :=
  let i := fmtA w
  match maj, i.sub.toNat with
  | 0x10, 0 => .accClr i | 0x10, 1 => .accMov i | 0x10, 2 => .accAdd i | 0x10, 3 => .accSub i | 0x10, 4 => .accNeg i
  | 0x10, 5 => .accAbs i | 0x10, 6 => .accShl i | 0x10, 7 => .accShr i | 0x10, 8 => .accLdf i | 0x10, 9 => .accLdi i
  | 0x11, 0 => .aluAdd i | 0x11, 1 => .aluSub i | 0x11, 2 => .aluNeg i | 0x11, 3 => .aluAbs i | 0x11, 4 => .aluMin i
  | 0x11, 5 => .aluMax i | 0x11, 6 => .aluCmp i | 0x11, 7 => .aluMov i | 0x11, 8 => .aluAvg i
  | 0x12, 0 => .logicAnd i | 0x12, 1 => .logicOr i | 0x12, 2 => .logicXor i | 0x12, 3 => .logicAndn i | 0x12, 4 => .logicNot i
  | 0x12, 5 => .logicTst i
  | 0x13, 0 => .shfLsl i | 0x13, 1 => .shfLsr i | 0x13, 2 => .shfAsr i | 0x13, 3 => .shfRor i | 0x13, 4 => .shfLslReg i
  | 0x13, 5 => .shfLsrReg i | 0x13, 6 => .shfAsrReg i | 0x13, 7 => .shfRorReg i
  | 0x1A, 0 => .normAc i | 0x1A, 1 => .normD i
  | 0x1B, 0 => .cvtQ131ToQ329 i | 0x1B, 1 => .cvtQ329ToQ131 i | 0x1B, 2 => .cvtF32ToQ131 i | 0x1B, 3 => .cvtQ131ToF32 i
  | _, _ => .reservedOpcode w

/-- Format A, major opcodes 00h to 1Fh (R117). -/
def decodeA (maj : Nat) (w : W64) : Instr :=
  let i := fmtA w
  match maj with
  | 0x00 => .mpy i | 0x01 => .mpyxy i | 0x02 => .mac i | 0x03 => .msu i | 0x04 => .macxy i | 0x05 => .msuxy i | 0x06 => .macl i
  | 0x07 => .mac2 i | 0x08 => .mac2n i | 0x09 => .tapOp i | 0x0A => .tapc i | 0x0B => .macph i | 0x0C => .macrz i | 0x0D => .macry i
  | 0x0E => .extOp i | 0x0F => .extsOp i | 0x14 => .movr (fmtM w) | 0x15 => .busOp i | 0x16 => .smov i | 0x17 => .sfill i
  | 0x18 => .atadd i | 0x19 => .atswp i | 0x1C => .clamp i | 0x1D => .peak i | 0x1E => .ldp i | 0x1F => .macp i
  | _ => decodeSub maj w

/-- Format B, major opcodes 20h to 27h (R90, R117, R131). -/
def decodeB (maj : Nat) (w : W64) : Instr :=
  let i := fmtB w
  match maj, i.iop.toNat with
  | 0x20, 0 => .opiMov i | 0x20, 1 => .opiAdd i | 0x20, 2 => .opiAnd i | 0x20, 3 => .opiOr i | 0x20, 4 => .opiXor i
  | 0x20, _ => .reservedOpcode w
  | 0x21, _ => .ldx i | 0x22, _ => .ldy i | 0x23, _ => .ldz i | 0x24, _ => .stx i | 0x25, _ => .sty i | 0x26, _ => .stz i
  | _, _ => .opim i

/-- Format C, major opcodes 28h to 2Fh (R91, R117). -/
def decodeC (maj : Nat) (w : W64) : Instr :=
  let i := fmtC w
  match maj with
  | 0x28 => .nopOp i
  | 0x29 => if i.span = 1 then .rptSpan i else if i.chan = 1 then .rptChan i else .rpt i
  | 0x2A => .repi i | 0x2B => .ldctx i | 0x2C => .stctx i | 0x2D => .evt i | 0x2E => .phaseOp i
  | _ => .nopn i

/-- The major opcode of a program word. -/
def majorBits (w : W64) : Nat := (wbits w 54 6).toNat

/-- The command that a program word spells (R87): every word spells one. -/
def decodeMeridian (w : W64) : Instr :=
  let maj := majorBits w
  if maj < 0x20 then decodeA maj w
  else if maj < 0x28 then decodeB maj w
  else if maj < 0x30 then decodeC maj w
  else if maj < 0x38 then .reservedOpcode w
  else .userInstruction (fmtU w)

/-! ### The encoder -/

/-- The word of format A fields under a major opcode. -/
def wordA (maj : BitVec 6) (i : FmtA) : W64 :=
  i.cond ++ maj ++ i.f ++ i.sat ++ i.pf ++ i.unit ++ i.acd ++ i.ra ++ i.rb ++ i.xop ++ i.yop ++ i.zop ++ i.sub ++ i.shift ++ i.ofmt

/-- The word of format B fields. -/
def wordB (maj : BitVec 6) (i : FmtB) : W64 := i.cond ++ maj ++ i.reg ++ i.iop ++ i.rsv ++ i.imm

/-- The word of format C fields. -/
def wordC (maj : BitVec 6) (i : FmtC) : W64 :=
  i.cond ++ maj ++ i.blen ++ i.cache ++ i.span ++ i.chan ++ i.csrc ++ i.creg ++ i.cstep ++ i.count ++ i.budget ++ i.rsv

/-- The word of format U fields (R92): the top three bits of the user number lie in the major opcode. -/
def wordU (i : FmtU) : W64 :=
  i.cond ++ (7 : BitVec 3) ++ i.user ++ i.acd ++ i.ra ++ i.rb ++ i.xop ++ i.yop ++ i.zop ++ i.uimm

/-- The word of a MOVR. -/
def wordM (i : FmtM) : W64 := i.cond ++ (0x14 : BitVec 6) ++ i.bits

/-- SUB as the row fixes it. -/
def subA (maj : BitVec 6) (sub : BitVec 5) (i : FmtA) : Option W64 := if i.sub = sub then some (wordA maj i) else none

/-- The word of an arithmetic, multiply or move command; none where its SUB is another row's. -/
def encodeA (c : Instr) : Option W64 :=
  match c with
  | .mpy i => some (wordA 0x00 i) | .mpyxy i => some (wordA 0x01 i) | .mac i => some (wordA 0x02 i) | .msu i => some (wordA 0x03 i)
  | .macxy i => some (wordA 0x04 i) | .msuxy i => some (wordA 0x05 i) | .macl i => some (wordA 0x06 i) | .mac2 i => some (wordA 0x07 i)
  | .mac2n i => some (wordA 0x08 i) | .tapOp i => some (wordA 0x09 i) | .tapc i => some (wordA 0x0A i) | .macph i => some (wordA 0x0B i)
  | .macrz i => some (wordA 0x0C i) | .macry i => some (wordA 0x0D i) | .extOp i => some (wordA 0x0E i) | .extsOp i => some (wordA 0x0F i)
  | .accClr i => subA 0x10 0 i | .accMov i => subA 0x10 1 i | .accAdd i => subA 0x10 2 i | .accSub i => subA 0x10 3 i
  | .accNeg i => subA 0x10 4 i | .accAbs i => subA 0x10 5 i | .accShl i => subA 0x10 6 i | .accShr i => subA 0x10 7 i
  | .accLdf i => subA 0x10 8 i | .accLdi i => subA 0x10 9 i | .aluAdd i => subA 0x11 0 i | .aluSub i => subA 0x11 1 i
  | .aluNeg i => subA 0x11 2 i | .aluAbs i => subA 0x11 3 i | .aluMin i => subA 0x11 4 i | .aluMax i => subA 0x11 5 i
  | .aluCmp i => subA 0x11 6 i | .aluMov i => subA 0x11 7 i | .aluAvg i => subA 0x11 8 i | .logicAnd i => subA 0x12 0 i
  | .logicOr i => subA 0x12 1 i | .logicXor i => subA 0x12 2 i | .logicAndn i => subA 0x12 3 i | .logicNot i => subA 0x12 4 i
  | .logicTst i => subA 0x12 5 i | .shfLsl i => subA 0x13 0 i | .shfLsr i => subA 0x13 1 i | .shfAsr i => subA 0x13 2 i
  | .shfRor i => subA 0x13 3 i | .shfLslReg i => subA 0x13 4 i | .shfLsrReg i => subA 0x13 5 i | .shfAsrReg i => subA 0x13 6 i
  | .shfRorReg i => subA 0x13 7 i | .movr i => some (wordM i) | .busOp i => some (wordA 0x15 i) | .smov i => some (wordA 0x16 i)
  | .sfill i => some (wordA 0x17 i) | .atadd i => some (wordA 0x18 i) | .atswp i => some (wordA 0x19 i) | .normAc i => subA 0x1A 0 i
  | .normD i => subA 0x1A 1 i | .cvtQ131ToQ329 i => subA 0x1B 0 i | .cvtQ329ToQ131 i => subA 0x1B 1 i | .cvtF32ToQ131 i => subA 0x1B 2 i
  | .cvtQ131ToF32 i => subA 0x1B 3 i | .clamp i => some (wordA 0x1C i) | .peak i => some (wordA 0x1D i) | .ldp i => some (wordA 0x1E i)
  | .macp i => some (wordA 0x1F i)
  | _ => none

/-- IOP as the row fixes it. -/
def iopB (iop : BitVec 3) (i : FmtB) : Option W64 := if i.iop = iop then some (wordB 0x20 i) else none

/-- The word of an engine command (R87); none for a command of another part, or one whose fields spell another row. -/
def encodeMeridian (c : Instr) : Option W64 :=
  match c with
  | .opiMov i => iopB 0 i | .opiAdd i => iopB 1 i | .opiAnd i => iopB 2 i | .opiOr i => iopB 3 i | .opiXor i => iopB 4 i
  | .ldx i => some (wordB 0x21 i) | .ldy i => some (wordB 0x22 i) | .ldz i => some (wordB 0x23 i) | .stx i => some (wordB 0x24 i)
  | .sty i => some (wordB 0x25 i) | .stz i => some (wordB 0x26 i) | .opim i => some (wordB 0x27 i) | .nopOp i => some (wordC 0x28 i)
  | .rpt i => if i.span = 0 ∧ i.chan = 0 then some (wordC 0x29 i) else none
  | .rptChan i => if i.span = 0 ∧ i.chan = 1 then some (wordC 0x29 i) else none
  | .rptSpan i => if i.span = 1 then some (wordC 0x29 i) else none
  | .repi i => some (wordC 0x2A i) | .ldctx i => some (wordC 0x2B i) | .stctx i => some (wordC 0x2C i) | .evt i => some (wordC 0x2D i)
  | .phaseOp i => some (wordC 0x2E i) | .nopn i => some (wordC 0x2F i) | .userInstruction i => some (wordU i)
  | c => encodeA c

end Sys2Proof
end

