-- ==== Sys2Proof/Config.lean ====
section
/-! DEFINITION. What the manual leaves open: values that one implementation fixes and functions that the manual names without
giving them. Each is an opaque constant, so no proof rests on a value of it (log entry 4). -/

namespace Sys2Proof.Config

/-- A fresh unstated 32-bit value, by the number of the draw and what it stands for (log entry 4). -/
opaque freeWord : Nat → Nat → W32

/-- The code that an EVENT carries for an event kind of the model (R18 names the word, not its values; log entry 9). -/
opaque eventCode : Nat → W32

/-- The words of a STATUS message for a temperature reading (R18, R446; log entry 9). -/
opaque statusWords : BitVec 12 → List W32

/-- The temperature that a STATUS message's words carry (R446; log entry 9). -/
opaque statusTemp : List W32 → BitVec 12

/-- SHA-384, which R344, R351 and R361 name and do not define (log entry 11). -/
opaque sha384 : List Byte → List Byte

/-- HMAC-SHA-384 of a key and a message (R310, R354, R363; log entry 11). -/
opaque hmac384 : List Byte → List Byte → List Byte

/-- Whether a P-384 signature of 96 bytes by a public key of 96 bytes over a message verifies (R344, R354; log entry 11). -/
opaque ecdsaOk : List Byte → List Byte → List Byte → Bool

/-- The signature by a scalar over a message (R362; log entry 11). -/
opaque ecdsaSign : List Byte → List Byte → List Byte

/-- The public key x, y of a scalar (R362, R363; log entry 11). -/
opaque ecPublic : List Byte → List Byte

/-- The 96 bytes x, y of a compressed point of 49 bytes (R344; log entry 11). -/
opaque ecExpand : List Byte → List Byte

/-- The order of P-384 less 1, from which R363 forms a scalar (log entry 11). -/
opaque p384n1 : Nat

/-- The root key of the host die and the device key of the field die (R363): intact fuses (log entry 11). -/
opaque rootKey : List Byte
opaque fieldKey : List Byte

/-- The factory certificate of DIK (R362; log entry 11). -/
opaque dikCert : List Byte

/-- The operation code that opens the payload of an A frame: 0 TOKEN_AUDIT, 1 DISPUTE, 2 CAUDIT, 3 CRESYNC, 4 CRESYNC_ACK,
5 CINIT (R250, R269, R273 give the frames and no codes; log entry 14). -/
opaque aOp : Nat → Byte

/-- The next correction of the timebase that the loop of R287 makes for a measured offset, and the frequency filter of R286 on
the forward delay: functions that the manual bounds and does not state (log entry 12). -/
opaque loopStep : Int → Int
opaque delayFilter : Nat → Nat → Nat

/-- The delay of the tick lane as bring-up calibrates it, in 2^-16 ns (R28, R283). -/
opaque tickDelay : Nat

/-- The fixed coefficients of half-band stage `n`, tap by tap, and the binary places of their format (R221, R223; log entry 4). -/
opaque hbTap : Nat → Nat → BitVec 20
opaque hbPlaces : Nat → Nat

/-- What a half-band stage holds in its 30 bits where the rounded sum does not fit them: R221 gives the width, no rule the result (log entry 4). -/
opaque hbOver : Int → BitVec 30

/-- The fixed coefficients of the resampler, by the number of taps, the phase and the tap, and the binary places of their format (R209; log entry 4). -/
opaque rsmpTap : Nat → Nat → Nat → Int
opaque rsmpPlaces : Nat

end Sys2Proof.Config
end

