-- ==== Sys2Proof/Machine/Bits.lean ====
section
/-! DEFINITION. Bit fields of register words, sign extension, byte order, and the counters of R450. -/

namespace Sys2Proof.Machine

/-- Bits [hi:lo] of a natural number. -/
def nfld (w hi lo : Nat) : Nat := w / 2 ^ lo % 2 ^ (hi + 1 - lo)

/-- Field [hi:lo] of a register word. -/
def fld (w : W32) (hi lo : Nat) : Nat := nfld w.toNat hi lo

/-- Bit `i` of a register word. -/
def bit (w : W32) (i : Nat) : Bool := w.toNat.testBit i

/-- A Bool as the bit 0 or 1. -/
def b2n (b : Bool) : Nat := if b then 1 else 0

/-- A Bool in bit position `i` of a register word. -/
def bitAt (i : Nat) (b : Bool) : W32 := if b then BitVec.ofNat 32 (2 ^ i) else 0

/-- The mask of bits [hi:lo]. -/
def fmask (hi lo : Nat) : W32 := BitVec.ofNat 32 ((2 ^ (hi + 1 - lo) - 1) * 2 ^ lo)

/-- A word with field [hi:lo] replaced by the low bits of `v`. -/
def setFld (w : W32) (hi lo v : Nat) : W32 :=
  (w &&& ~~~ fmask hi lo) ||| BitVec.ofNat 32 (v % 2 ^ (hi + 1 - lo) * 2 ^ lo)

/-- A word with bit `i` set to `b`. -/
def setBit (w : W32) (i : Nat) (b : Bool) : W32 := setFld w i i (b2n b)

/-- A register write that reaches the bits of `mask` alone (R7: reserved bits keep reading as 0). -/
def wrMask (old v mask : W32) : W32 := (old &&& ~~~ mask) ||| (v &&& mask)

/-- A write to write-1-to-clear bits: each 1 of `v` inside `mask` clears its bit. -/
def w1c (old v mask : W32) : W32 := old &&& ~~~ (v &&& mask)

/-- A 32-bit word of a natural number. -/
def w32 (n : Nat) : W32 := BitVec.ofNat 32 n

/-- The two's-complement value of the low `n` bits of `v`. -/
def sextN (n v : Nat) : Int :=
  let m := v % 2 ^ n
  if m < 2 ^ (n - 1) then (m : Int) else (m : Int) - (2 : Int) ^ n

/-- The low `n` bits of an integer, as a natural number. -/
def wrapN (n : Nat) (v : Int) : Nat := (v % (2 : Int) ^ n).toNat

/-- An integer limited to the range [lo, hi]. -/
def clampI (lo hi v : Int) : Int := if v < lo then lo else if hi < v then hi else v

/-- An integer limited to the signed range of `n` bits. -/
def satN (n : Nat) (v : Int) : Int := clampI (-(2 : Int) ^ (n - 1)) ((2 : Int) ^ (n - 1) - 1) v

/-- Whether an integer fits the signed range of `n` bits. -/
def fitsN (n : Nat) (v : Int) : Bool :=
  decide (-(2 : Int) ^ (n - 1) ≤ v) && decide (v ≤ (2 : Int) ^ (n - 1) - 1)

/-- The low 32 bits of an integer as a word. -/
def ofI (v : Int) : W32 := BitVec.ofNat 32 (wrapN 32 v)

/-- The 64-bit value with the given low and high words. -/
def w64of (lo hi : W32) : W64 := BitVec.ofNat 64 (lo.toNat + 2 ^ 32 * hi.toNat)

/-- The low word of a 64-bit value. -/
def lo32 (v : W64) : W32 := BitVec.ofNat 32 v.toNat

/-- The high word of a 64-bit value. -/
def hi32 (v : W64) : W32 := BitVec.ofNat 32 (v.toNat / 2 ^ 32)

/-- Byte `i` of a natural number, little-endian. -/
def byteN (v i : Nat) : Byte := BitVec.ofNat 8 (v / 2 ^ (8 * i))

/-- The `n` low bytes of a value, least significant first. -/
def bytesLE (n v : Nat) : List Byte := (List.range n).map (byteN v)

/-- The `n` low bytes of a value, most significant first. -/
def bytesBE (n v : Nat) : List Byte := (bytesLE n v).reverse

/-- The value of a little-endian byte list. -/
def ofBytesLE : List Byte → Nat
  | [] => 0
  | b :: bs => b.toNat + 256 * ofBytesLE bs

/-- The value of a big-endian byte list. -/
def ofBytesBE (bs : List Byte) : Nat := ofBytesLE bs.reverse

/-- The `i`-th word of a list, 0 past its end. -/
def wAt (ws : List W32) (i : Nat) : W32 := ws.getD i 0

/-- The `i`-th byte of a list, 0 past its end. -/
def byAt (bs : List Byte) (i : Nat) : Byte := bs.getD i 0

/-- A list with its `i`-th entry replaced; unchanged where it has none. -/
def setAt {α : Type} (l : List α) (i : Nat) (v : α) : List α := l.set i v

/-- Serial-number order on `n` bits (R225 of Legend's sequence counters, R264): `a` is at or beyond `b`. -/
def serialGe (n a b : Nat) : Bool := decide ((a + 2 ^ n - b % 2 ^ n) % 2 ^ n < 2 ^ (n - 1))

end Sys2Proof.Machine
end

