-- ==== Sys2Proof/Machine/Tbl.lean ====
section
/-! DEFINITION. Sparse tables by number, in one canonical form: keys rise strictly and no entry holds what an unlisted key
reads as. Memories, register arrays and buffers of the block are such tables. -/

namespace Sys2Proof.Machine

/-- A sparse table: entries by rising key. -/
abbrev Tbl (α : Type) := List (Nat × α)

/-- The value at a key; `d` is what an unlisted key reads as. -/
def tget {α : Type} (d : α) : Tbl α → Nat → α
  | [], _ => d
  | (k', v) :: t, k => if k' = k then v else tget d t k

/-- A table without its entry at `k`. -/
def tdel {α : Type} : Tbl α → Nat → Tbl α
  | [], _ => []
  | (k', v) :: t, k => if k' = k then tdel t k else (k', v) :: tdel t k

/-- A table with `v` inserted at `k` among rising keys. -/
def tins {α : Type} : Tbl α → Nat → α → Tbl α
  | [], k, v => [(k, v)]
  | (k', v') :: t, k, v =>
    if k < k' then (k, v) :: (k', v') :: t
    else if k = k' then (k, v) :: t
    else (k', v') :: tins t k v

/-- A write of the table: the default value removes the entry. -/
def tput {α : Type} [DecidableEq α] (d : α) (t : Tbl α) (k : Nat) (v : α) : Tbl α :=
  if v = d then tdel t k else tins t k v

/-- A change of one entry. -/
def tmod {α : Type} [DecidableEq α] (d : α) (t : Tbl α) (k : Nat) (f : α → α) : Tbl α := tput d t k (f (tget d t k))

/-- A table without the keys from `lo` up to, not including, `hi`. -/
def tclear {α : Type} (t : Tbl α) (lo hi : Nat) : Tbl α := t.filter (fun e => e.1 < lo || hi ≤ e.1)

/-- The entries of a table whose keys lie from `lo` up to, not including, `hi`. -/
def tslice {α : Type} (t : Tbl α) (lo hi : Nat) : Tbl α := t.filter (fun e => lo ≤ e.1 && e.1 < hi)

/-- Strictly rising keys. -/
def risingKeys {α : Type} : Tbl α → Bool
  | [] => true
  | [_] => true
  | (k, _) :: (k', v') :: t => decide (k < k') && risingKeys ((k', v') :: t)

/-- The canonical form: rising keys and no default value listed. -/
def twf {α : Type} [DecidableEq α] (d : α) (t : Tbl α) : Bool :=
  risingKeys t && t.all (fun e => decide (e.2 ≠ d))

/-- A byte memory: a list of cells, an unlisted address reading as zero (log entry 3). -/
abbrev Mem := List Host.Cell

/-- The byte at an address. -/
def rd8 (m : Mem) (a : Nat) : Byte := tget 0 m a

/-- A byte written at an address. -/
def wr8 (m : Mem) (a : Nat) (v : Byte) : Mem := tput 0 m a v

/-- `n` bytes read from an address upward, least significant first. -/
def rdN (m : Mem) (a n : Nat) : Nat := ofBytesLE ((List.range n).map (fun i => rd8 m (a + i)))

/-- The low `n` bytes of a value written from an address upward, least significant first. -/
def wrN (m : Mem) (a : Nat) : Nat → Nat → Mem
  | 0, _ => m
  | n + 1, v => wrN (wr8 m a (BitVec.ofNat 8 v)) (a + 1) n (v / 256)

/-- The word at a byte address. -/
def rd32 (m : Mem) (a : Nat) : W32 := BitVec.ofNat 32 (rdN m a 4)

/-- A word written at a byte address. -/
def wr32 (m : Mem) (a : Nat) (v : W32) : Mem := wrN m a 4 v.toNat

/-- Bytes written from an address upward. -/
def wrBytes (m : Mem) (a : Nat) : List Byte → Mem
  | [] => m
  | b :: bs => wrBytes (wr8 m a b) (a + 1) bs

/-- The canonical form of a memory. -/
def memWf (m : Mem) : Bool := twf 0 m

/-- Statistics counters of one block (R450): counter `i` under key `i`, and the SAT bits. -/
structure Ctrs where
  val : Tbl W32
  sat : Nat
  deriving DecidableEq, Repr

/-- Counters as after reset. -/
def ctrs0 : Ctrs := ⟨[], 0⟩

/-- What counter `i` reads as. -/
def ctrGet (c : Ctrs) (i : Nat) : W32 := tget 0 c.val i

/-- `n` events on counter `i` (R450): it stops at FFFF_FFFFh, and the event that takes it there sets its SAT bit. -/
def ctrAdd (c : Ctrs) (i n : Nat) : Ctrs :=
  let v := (ctrGet c i).toNat
  if v = 0xFFFFFFFF then c
  else if v + n < 0xFFFFFFFF then { c with val := tput 0 c.val i (w32 (v + n)) }
  else ⟨tput 0 c.val i 0xFFFFFFFF, c.sat ||| 2 ^ i⟩

/-- A write of any value to counter `i` (R450): the counter and its SAT bit clear. -/
def ctrClear (c : Ctrs) (i : Nat) : Ctrs :=
  ⟨tput 0 c.val i 0, if c.sat.testBit i then c.sat - 2 ^ i else c.sat⟩

end Sys2Proof.Machine
end

