-- ==== Sys2Proof/Machine/WeirSt.lean ====
section
/-! DEFINITION. The state of one Weir bridge (R9 to R29): its registers, its counts and credits, its lanes, its queue. -/

namespace Sys2Proof.Machine

/-- One number for each credited class, in the order S, C, M, I (R18). -/
structure PerClass where
  s : Nat
  c : Nat
  m : Nat
  i : Nat
  deriving DecidableEq, Repr

/-- The count of one class. -/
def PerClass.get (p : PerClass) : WClass → Nat
  | .s => p.s
  | .c => p.c
  | .m => p.m
  | .i => p.i

/-- The counts with that of one class replaced. -/
def PerClass.set (p : PerClass) (k : WClass) (v : Nat) : PerClass :=
  match k with
  | .s => { p with s := v }
  | .c => { p with c := v }
  | .m => { p with m := v }
  | .i => { p with i := v }

/-- All counts zero. -/
def PerClass.zero : PerClass := ⟨0, 0, 0, 0⟩

/-- A message of a side's own, queued or sent (R16): its CRC follows from the rest. -/
structure WMsg where
  type    : Nat
  seq     : Nat
  flags   : Nat
  payload : List W32
  deriving DecidableEq, Repr

/-- A character of a lane (R14, R15): the start, end and idle control characters, or a byte. -/
inductive WChar where
  | k27_7
  | k29_7
  | k28_5
  | byte (b : Byte)
  deriving DecidableEq, Repr

/-- One Weir bridge. -/
structure Weir where
  /-- WEIR_CTRL: AUDIT_PERIOD, SPARE_AUTO, ENABLE. -/
  ctrl        : W32
  linkUp      : Bool
  farPresent  : Bool
  tickLock    : Bool
  /-- The tick lane is calibrated (R28). -/
  tickCal     : Bool
  degraded    : Bool
  /-- INIT HEARTBEATs are exchanged (R29). -/
  bringUp     : Bool
  /-- The lane whose bytes the spare carries; 4 is none. -/
  txSpareFor  : Nat
  rxSpareFor  : Nat
  /-- Bits 0 to 3 data lanes, bit 4 the spare. -/
  txLaneOk    : Nat
  rxLaneOk    : Nat
  /-- The transmit spare has been taken, or failed (R420). -/
  txSpareUsed : Bool
  /-- Failed receive lanes not yet reported (HEARTBEAT word 2 codes), oldest first: a HEARTBEAT names one. -/
  laneReports : List Nat
  /-- A direction has failed (R27): no HEARTBEAT makes the far side present before the next bring-up. -/
  failed      : Bool
  /-- The transmit lane whose bytes are to move to the spare (R26). -/
  spareWait   : Option Nat
  cnt         : Ctrs
  /-- Credited messages sent, 16 bits (R23). -/
  sent        : PerClass
  /-- The far side's RELEASED counts as last reported. -/
  farRel      : PerClass
  /-- Messages that took a receive buffer, 16 bits (R24). -/
  acct        : PerClass
  /-- Buffers released, 16 bits (R23). -/
  rel         : PerClass
  /-- Receive buffers in use. -/
  held        : PerClass
  /-- Classes a RESYNC stopped (R25 step 2). -/
  stopped     : List WClass
  /-- Stopped classes whose RESYNC_ACK has gone out (R25 step 4). -/
  acked       : List WClass
  /-- Classes this side is resynchronising (R25 step 1). -/
  syncing     : List WClass
  /-- Next SEQ of each credited class; of the uncredited messages (R16). -/
  seq         : PerClass
  seqNone     : Nat
  /-- Messages ready to send, oldest first. -/
  queue       : List WMsg
  /-- Messages whose start character has gone out, latest first (an output). -/
  out         : List WMsg
  /-- The characters of the last message sent, by lane: data lanes 0 to 3, then the spare (R15; an output). -/
  line        : List (List WChar)
  /-- Messages returned ABORTED to their owner (R13, R41), latest first. -/
  aborted     : List WMsg
  deriving DecidableEq, Repr

/-- A Weir bridge as after power-on reset. -/
def weir0 : Weir :=
  { ctrl := 0x00000803, linkUp := false, farPresent := false, tickLock := false, tickCal := false, degraded := false,
    bringUp := false, txSpareFor := 4, rxSpareFor := 4, txLaneOk := 0, rxLaneOk := 0, txSpareUsed := false,
    laneReports := [], failed := false, spareWait := none, cnt := ctrs0, sent := .zero, farRel := .zero, acct := .zero, rel := .zero,
    held := .zero, stopped := [], acked := [], syncing := [], seq := .zero, seqNone := 0, queue := [], out := [], line := [], aborted := [] }

/-- Receive buffers per direction of each class (R20). -/
def wBuffers : WClass → Nat
  | .s => 4
  | .c => 16
  | .m => 16
  | .i => 4

/-- The class of a message type (R18, R20); none for the uncredited types. -/
def wClassOf (type : Nat) : Option WClass :=
  if type = 0 ∨ type = 1 then some .s
  else if 2 ≤ type ∧ type ≤ 5 then some .c
  else if type = 6 ∨ type = 7 then some .m
  else if 9 ≤ type ∧ type ≤ 11 then some .i
  else none

/-- The greatest payload of a type in words (R18). -/
def wMaxLen (type : Nat) : Nat :=
  match type with
  | 0 => 258
  | 1 => 66
  | 2 => 67
  | 3 => 2
  | 4 => 67
  | 5 => 5
  | 6 => 64
  | 7 => 16
  | 8 => 6
  | 9 => 258
  | 10 => 4
  | 11 => 13
  | 12 => 3
  | 13 => 3
  | _ => 0

/-- Whether the catalogue lets `rx` receive the type (R18). -/
def wDirOk (rx : Side) (type : Nat) : Bool :=
  match rx with
  | .field => type = 0 || type = 2 || type = 3 || type = 5 || type = 7 || type = 8 || type = 9 || type = 12 || type = 13
  | .host => type = 1 || type = 4 || type = 6 || type = 7 || type = 10 || type = 11 || type = 12 || type = 13

/-- One bit of the reflected CRC-32 (R17). -/
def crcBit (c : Nat) : Nat := if c % 2 = 1 then (c / 2) ^^^ 0xEDB88320 else c / 2

/-- One byte of the reflected CRC-32. -/
def crcByte (c : Nat) (b : Byte) : Nat :=
  crcBit (crcBit (crcBit (crcBit (crcBit (crcBit (crcBit (crcBit (c ^^^ b.toNat))))))))

/-- CRC-32 of a byte list (R17): initial value FFFF_FFFFh, reflected, complemented. -/
def crc32 (bs : List Byte) : W32 := w32 ((bs.foldl crcByte 0xFFFFFFFF) ^^^ 0xFFFFFFFF)

/-- The header word of a message (R16). -/
def wHeader (type len seq flags : Nat) : W32 :=
  w32 (type % 16 * 2 ^ 28 + len % 4096 * 2 ^ 16 + seq % 256 * 2 ^ 8 + flags % 256)

/-- The bytes of words in little-endian order. -/
def wordBytes (ws : List W32) : List Byte := ws.flatMap (fun w => bytesLE 4 w.toNat)

/-- The CRC that a received message of a type should end with (R17). -/
def wCrc (type : Nat) (m : WRx) : W32 :=
  crc32 (wordBytes (wHeader type m.len.toNat m.seq.toNat m.flags.toNat :: m.payload))

/-- Free transmit credits of a class: the buffers minus (SENT - RELEASED), modulo 2^16 (R23); 0 until the link is up. -/
def wFree (w : Weir) (k : WClass) : Nat :=
  if w.linkUp then (wBuffers k + 2 ^ 16 - (w.sent.get k + 2 ^ 16 - w.farRel.get k) % 2 ^ 16) % 2 ^ 16 else 0

/-- ENABLE of WEIR_CTRL. -/
def wEnabled (w : Weir) : Bool := bit w.ctrl 0

/-- A message put at the end of the queue; while the far side is absent it is returned ABORTED instead (R13). -/
def wQueue (w : Weir) (m : WMsg) : Weir :=
  if w.farPresent then { w with queue := w.queue ++ [m] } else { w with aborted := m :: w.aborted }

/-- The drops of R19 in the order of its table; `formOk` is the type's own frame check. `none`: accepted. -/
def wDrop (w : Weir) (rx : Side) (type : Nat) (m : WRx) (formOk : Bool) : Option Nat :=
  if m.viol ∨ m.crc ≠ wCrc type m then some 0
  else if 14 ≤ type then some 1
  else if wMaxLen type < m.len.toNat ∨ m.len.toNat ≠ m.payload.length then some 2
  else if wDirOk rx type = false then some 2
  else
    match wClassOf type with
    | none => none
    | some k => if wBuffers k ≤ w.held.get k then some 3 else if formOk then none else some 2

/-- Reception (R19, R24): a dropped message is counted and takes no buffer; an accepted credited one takes a buffer and is
accounted. The second part says whether the message was accepted. -/
def wReceive (w : Weir) (rx : Side) (type : Nat) (m : WRx) (formOk : Bool) : Weir × Bool :=
  match wDrop w rx type m formOk with
  | some c => ({ w with cnt := ctrAdd w.cnt c 1 }, false)
  | none =>
    match wClassOf type with
    | none => (w, true)
    | some k =>
      ({ w with acct := w.acct.set k ((w.acct.get k + 1) % 2 ^ 16), held := w.held.set k (w.held.get k + 1) }, true)

/-- A receive buffer of a class is freed and its credit released (R20, R23). -/
def wRelease (w : Weir) (k : WClass) : Weir :=
  if w.held.get k = 0 then w
  else { w with held := w.held.set k (w.held.get k - 1), rel := w.rel.set k ((w.rel.get k + 1) % 2 ^ 16) }

/-- Two words that carry one 16-bit count for each class, in the order S, C, M, I (R18). -/
def countWords (p : PerClass) : List W32 :=
  [w32 (p.s % 2 ^ 16 + p.c % 2 ^ 16 * 2 ^ 16), w32 (p.m % 2 ^ 16 + p.i % 2 ^ 16 * 2 ^ 16)]

/-- The counts of two such words. -/
def countsOf (w0 w1 : W32) : PerClass := ⟨fld w0 15 0, fld w0 31 16, fld w1 15 0, fld w1 31 16⟩

/-- The number of a class, in the order S, C, M, I. -/
def wClassNo : WClass → Nat
  | .s => 0
  | .c => 1
  | .m => 2
  | .i => 3

/-- The class of a number. -/
def wClassAt (n : Nat) : WClass := if n = 0 then .s else if n = 1 then .c else if n = 2 then .m else .i

/-- A HEARTBEAT as this side sends it now (R23, R29). -/
def heartbeatMsg (w : Weir) : WMsg :=
  { type := 13, seq := 0, flags := 0,
    payload := countWords (if w.bringUp then .zero else w.rel) ++
      [w32 (b2n w.bringUp + w.laneReports.headD 0 * 2 + b2n w.degraded * 16)] }

/-- An AUDIT of operation `op` (0 AUDIT, 1 RESYNC, 2 RESYNC_ACK) for class number `k` (R18, R24, R25). -/
def auditMsg (w : Weir) (op k : Nat) : WMsg :=
  { type := 12, seq := 0, flags := 0, payload := w32 (op + 16 * k) :: countWords w.sent }

/-- The lanes of a direction that carry bytes, in the order in which they take them (R15, R26, R27): the spare stands in the place of the lane
that it replaces. -/
def wLanes (ok spareFor : Nat) : List Nat :=
  (List.range 4).filterMap (fun l =>
    if spareFor = l then (if ok.testBit 4 then some 4 else none) else if ok.testBit l then some l else none)

/-- The bytes of a message (R16, R17): header, payload, CRC, each word in little-endian order. -/
def wBytes (m : WMsg) : List Byte :=
  let ws := wHeader m.type m.payload.length m.seq m.flags :: m.payload
  wordBytes (ws ++ [crc32 (wordBytes ws)])

/-- What the lane in place `i` of `n` carries of `bs`, padded with an idle to the length of the others. -/
def wStripe (n i : Nat) (bs : List Byte) : List WChar :=
  (List.range ((bs.length + n - 1) / n)).map (fun r => (bs[n * r + i]?).elim .k28_5 .byte)

/-- A message on its lanes (R15): a start character on every active lane, the bytes striped across them, an end character on every active lane; a
lane that is not active carries nothing. The manual does not say what the lanes carry beyond the last byte when three are active: idles, the model's
choice (log entry 58). -/
def wFrame (lanes : List Nat) (m : WMsg) : List (List WChar) :=
  (List.range 5).map (fun l =>
    match lanes.idxOf? l with
    | none => []
    | some i => .k27_7 :: wStripe lanes.length i (wBytes m) ++ [.k29_7])

/-- The lanes of a direction that still carry bytes. -/
def activeLanes (ok spareFor : Nat) : Nat :=
  ((List.range 4).filter (fun l => ok.testBit l || (spareFor = l && ok.testBit 4))).length

end Sys2Proof.Machine
end

