-- ==== Sys2Proof/Machine/MerSt.lean ====
section
/-! DEFINITION. The state of the pass sequencer (R42 to R75): the pass timer, numbering, ticks, swaps, I/O frames. -/

namespace Sys2Proof.Machine

/-- A TIME_MARK as held (R46): the number it gives the tick with index `at`, and the class in force from that tick. -/
structure Mark where
  /-- The index of the named tick in the model's own count of ticks since field power-on. -/
  idx   : Nat
  pass  : Nat
  /-- The TAI time of the tick: words 2 to 4 (R18). -/
  tai   : List W32
  cls   : Nat
  rate  : Nat
  deriving DecidableEq, Repr

/-- The tick of one slot 0 as classified (R55). -/
structure TickRec where
  e       : Int
  late    : Bool
  early   : Bool
  missing : Bool
  deriving DecidableEq, Repr

/-- A program swap accepted and not yet made (R69). -/
structure SwapReq where
  pass    : Nat
  newRate : Option Nat
  deriving DecidableEq, Repr

/-- A chain frame in the field receive buffer (R62). -/
structure ChainFrame where
  pass   : Nat
  filled : Bool
  words  : List W32
  deriving DecidableEq, Repr

/-- How passes are to start next (R35, R47, R48). -/
inductive PendStart where
  | none
  /-- At a tick that a TIME_MARK identifies; `renum`: PCNT takes its number whatever it was (R35); `lock`: TICK_LOCK of
  the Weir is needed too (R47). -/
  | chain (renum lock : Bool)
  | local
  deriving DecidableEq, Repr

/-- The pass sequencer. -/
structure Mer where
  /-- MER_CTRL: RATE, REALIGN_AUTO, FILL_CHAIN, TICK_SRC, RUN. -/
  ctrl        : W32
  famRefused  : Bool
  numConflict : Bool
  realignWait : Bool
  /-- The active store: false P0, true P1. -/
  store1      : Bool
  coast       : Bool
  tickLock    : Bool
  running     : Bool
  pcnt        : Nat
  /-- PCNT_HI as latched by a read of PCNT_LO (R8). -/
  pcntLatch   : W32
  swapLo      : W32
  swapHi      : W32
  /-- RATE_CHG and NEW_RATE of MER_SWAP_CTRL. -/
  swapCtl     : W32
  swapResult  : Nat
  swap        : Option SwapReq
  keep        : W32
  plen0       : W32
  plen1       : W32
  tickErr     : Int
  cnt         : Ctrs
  /-- Slot of the pass timer. -/
  slot        : Nat
  /-- The seam of the pass has been made and the wrap that follows it has not come; it stays 1 where an engine reset is applied in between (R35). -/
  seamDone    : Bool
  /-- Instructions fell at slot N − 16 or later in this pass (R44). -/
  overran     : Bool
  /-- A pass has run since field power-on (R51). -/
  ran         : Bool
  /-- The timer has been set in phase with the tick (R28). -/
  phased      : Bool
  pend        : PendStart
  /-- Passes are to stop after the running pass (R51). -/
  stopReq     : Bool
  /-- The tick source in force (R45): 0 chain, 1 local. -/
  srcUse      : Nat
  /-- The number of ticks counted (R28), the model's index for TIME_MARKs. -/
  tix         : Nat
  /-- The most recent TIME_MARK, and those not yet compared (R46). -/
  mark        : Option Mark
  marks       : List Mark
  /-- The class in force for the last tick (R59 word 226). -/
  cls         : Nat
  /-- The tick of the running pass's slot 0, and of the next slot 0. -/
  tickCur     : Option TickRec
  tickNext    : Option TickRec
  onRun       : Nat
  missRun     : Nat
  strayRun    : Nat
  strayFirst  : Int
  strayLast   : Int
  /-- A stray tick fell in this pass; the pass is counted in the stray run (R57). -/
  strayNow    : Option Int
  strayIn     : Bool
  /-- Idle slots by which the last seam was extended (R57). -/
  ext         : Nat
  /-- The number of the pass, or of the period without one, that ended last (R451). -/
  lastPass    : Nat
  /-- The rate code that was in force in it. -/
  lastRate    : Nat
  deriving DecidableEq, Repr

/-- The sequencer as after field power-on reset. -/
def mer0 : Mer :=
  { ctrl := 0x00000128, famRefused := false, numConflict := false, realignWait := false, store1 := false, coast := false,
    tickLock := false, running := false, pcnt := 0, pcntLatch := 0, swapLo := 0, swapHi := 0, swapCtl := 0,
    swapResult := 0, swap := none, keep := 0xFFFFFFFF, plen0 := 0, plen1 := 0, tickErr := 0, cnt := ctrs0, slot := 0,
    seamDone := false, overran := false, ran := false, phased := false, pend := .none, stopReq := false, srcUse := 0,
    tix := 0, mark := none, marks := [], cls := 4, tickCur := none, tickNext := none, onRun := 0, missRun := 0,
    strayRun := 0, strayFirst := 0, strayLast := 0, strayNow := none, strayIn := false, ext := 0, lastPass := 0, lastRate := 1 }

/-- The engine's I/O frames (R58 to R62): front buffers by word, the words captured for the next IN frame, and the chain
frames received. -/
structure IoFrames where
  inFront   : Tbl W32
  /-- Port words of the frame under capture: IN words 128 to 223. -/
  inBack    : Tbl W32
  outFront  : Tbl W32
  outPres   : Tbl W32
  /-- The OUT frame that the last seam took, until the next tick presents it. -/
  outNext   : Tbl W32
  /-- A pass's OUT frame is presented at the next tick (R451). -/
  presented : Bool
  frames    : List ChainFrame
  lastUsed  : List W32
  frameLate : Bool
  /-- IN word 228: ports faded or filled in the frame under capture. -/
  w228      : Nat
  /-- IN word 229: sense inputs updated. -/
  w229      : Nat
  /-- IN word 230: resampler outputs valid. -/
  w230      : Nat
  /-- Return words of the first frame of a two-frame STREAM_RET, with its pass number (R451). -/
  retHalf   : Option (Nat × List W32)
  deriving DecidableEq, Repr

/-- The frames as after reset: every word reads 0. -/
def ioFrames0 : IoFrames :=
  { inFront := [], inBack := [], outFront := [], outPres := [], outNext := [], presented := false, frames := [], lastUsed := [],
    frameLate := false, w228 := 0, w229 := 0, w230 := 0, retHalf := none }

/-- The pass length N of a rate code (R43). -/
def passLen (rate : Nat) : Nat := if rate ≤ 1 then 25600 else if rate ≤ 3 then 12800 else 6400

/-- RATE of MER_CTRL. -/
def rateOf (m : Mer) : Nat := fld m.ctrl 11 8

/-- N for the rate in force. -/
def merN (m : Mer) : Nat := passLen (rateOf m)

/-- The family of a rate code: false 44.1 kHz, true 48 kHz (R43). -/
def family48 (rate : Nat) : Bool := rate % 2 = 1

/-- Frames of one stream period (R18): 2 at 176.4 and 192 kHz. -/
def framesPer (rate : Nat) : Nat := if rate = 4 ∨ rate = 5 then 2 else 1

/-- The rate in force at pass `p` (R73): that of a pending swap from the pass after the one it names on. -/
def rateAt (m : Mer) (p : Nat) : Nat :=
  match m.swap with
  | some r => if r.pass < p then r.newRate.getD (rateOf m) else rateOf m
  | none => rateOf m

/-- The first word slot of the seam. -/
def seamSlot (m : Mer) : Nat := merN m - 16

/-- A request named for pass `n` reaches the engine at or after seam slot 0 of that pass, or the pass has gone by (R69,
R150). -/
def isLate (m : Mer) (n : Nat) : Bool :=
  n < m.pcnt || (n = m.pcnt && m.running && !m.seamDone && seamSlot m ≤ m.slot)

/-- The number that a TIME_MARK gives the tick with index `j` (R46), none before the tick it names. -/
def markNo (k : Mark) (j : Nat) : Option Nat := if k.idx ≤ j then some (k.pass + (j - k.idx)) else none

/-- The 64-bit number nearest `near` whose low 32 bits are `lo`, the larger of two on a tie (R62). -/
def nearest (near lo : Nat) : Nat :=
  let d := (lo % 2 ^ 32 + 2 ^ 32 - near % 2 ^ 32) % 2 ^ 32
  if d ≤ 2 ^ 31 then near + d
  else if near + d < 2 ^ 32 then near + d else near + d - 2 ^ 32

end Sys2Proof.Machine
end

