-- ==== Sys2Proof/Machine/BankSt.lean ====
section
/-! DEFINITION. The state of an SRAM bank with its code (R138 to R148, R403 to R409), of the Y pages, the X clear marks and
the commit unit (R147 to R161). -/

namespace Sys2Proof.Machine

/-- One SRAM bank: its bytes, the codewords in error, and its ECC record. -/
structure Bank where
  mem    : Mem
  /-- By codeword: 1 one bit in error, 2 uncorrectable (R404). -/
  err    : Tbl Nat
  /-- Codewords that wait for a write-back (R405). -/
  wb     : List Nat
  /-- Corrected errors by row since the die's power-on (R415). -/
  rowErr : Tbl Nat
  /-- 0 CORR, 1 UNCORR, 2 ZEROED (R423). -/
  cnt    : Ctrs
  last   : W32
  deriving DecidableEq, Repr

/-- A bank with nothing written and no error. -/
def bank0 : Bank := { mem := [], err := [], wb := [], rowErr := [], cnt := ctrs0, last := 0 }

/-- The field banks (R138). Physical words 0 to 7FFFh of Y are page A of the coefficient area, 8000h to FFFFh page B. -/
structure Banks where
  f     : Bank
  p0    : Bank
  p1    : Bank
  x     : Bank
  y     : Bank
  z     : Bank
  /-- By coefficient word: the page in use (false A, true B), and the dirty bit (R148). -/
  page  : Tbl Bool
  dirty : Tbl Bool
  /-- X regions marked cleared (R71), one bit each, and their words whose mark is removed. -/
  xMark : Nat
  xOk   : Tbl Bool
  /-- BANK_STAT: GAP, ALIAS_SIZE. -/
  stat  : W32
  atArg : W32
  zbusy : W32
  deriving DecidableEq, Repr

/-- The banks as after field power-on. -/
def banks0 : Banks :=
  { f := bank0, p0 := bank0, p1 := bank0, x := bank0, y := bank0, z := bank0, page := [], dirty := [], xMark := 0,
    xOk := [], stat := 0, atArg := 0, zbusy := 0 }

/-- Who requested a bundle (R149): a field master by register, or a Legend requester answered by PARAM_RESP. -/
inductive Asker where
  | register
  | legend (rid rseq : Nat)
  deriving DecidableEq, Repr

/-- A commit bundle accepted and not yet made (R149). The mask is 256 bits, bit g for group g. -/
structure Bundle where
  pass  : Nat
  glide : Bool
  g     : Nat
  tag   : Nat
  mask  : Nat
  by'   : Asker
  deriving DecidableEq, Repr

/-- The commit unit. -/
structure Cg where
  /-- CG_DESCg and DESC_REFUSED by group. -/
  desc    : Tbl W32
  refused : Tbl Bool
  /-- CSEQ by group. -/
  cseq    : Tbl Nat
  /-- By group, the glide in progress as g × 2^16 + STEP, 0 none (R154). -/
  glide   : Tbl Nat
  /-- CG_CMD: TAG, G, MSEL, MODE. -/
  cmd     : W32
  passLo  : W32
  passHi  : W32
  resTag  : Nat
  result  : Nat
  /-- CG_MASKm_w under key 8m + w. -/
  masks   : Tbl W32
  pending : List Bundle
  cnt     : Ctrs
  /-- Binding table (R160): word k of the shadow and the active copy; the numbers of entries. -/
  bindSh  : Tbl W32
  bindAct : Tbl W32
  nent    : Nat
  nentAct : Nat
  bindArm : Bool
  bindApplied : Bool
  bindRefused : Bool
  deriving DecidableEq, Repr

/-- The commit unit as after field power-on. -/
def cg0 : Cg :=
  { desc := [], refused := [], cseq := [], glide := [], cmd := 0, passLo := 0, passHi := 0, resTag := 0, result := 0,
    masks := [], pending := [], cnt := ctrs0, bindSh := [], bindAct := [], nent := 0, nentAct := 0, bindArm := false,
    bindApplied := false, bindRefused := false }

end Sys2Proof.Machine
end

