-- ==== Sys2Proof/Machine/EngSt.lean ====
section
/-! DEFINITION. The state of the Meridian engine (R76 to R116, R132 to R137): registers under their codes of R78, results in
flight, repeats, the repeat cache, the event queue, the decode table. -/

namespace Sys2Proof.Machine

/-- A result on its way (R99): what becomes visible in slot `due`. -/
inductive FlyW where
  /-- The bits of `mask` of the register under `key` take those of `val`. -/
  | reg (key mask val : Nat)
  /-- A multiply-accumulate (R100): the accumulator visible in the slot before `due` (or 0) plus `prod`. `flags`: FL is set
  from the result. -/
  | mac (ac : Nat) (clr : Bool) (prod : Int) (sat flags : Bool)
  /-- MACP (R117): two accumulators; the flags take Z and N from the first. -/
  | macp (ac0 ac1 : Nat) (clr : Bool) (prod0 prod1 : Int) (sat flags : Bool)
  /-- A word of bank X, Y or Z (bus 0, 1, 2). -/
  | bank (bus addr : Nat) (v : W32)
  deriving DecidableEq, Repr

/-- A result in flight, with the slot its instruction issued in. -/
structure Fly where
  due    : Nat
  issued : Nat
  w      : FlyW
  deriving DecidableEq, Repr

/-- One repeat level (R106). -/
structure Level where
  act    : Bool
  /-- The construct's condition was false: its body issues as no-ops (R86). -/
  ghost  : Bool
  chan   : Bool
  span   : Bool
  cached : Bool
  cstep  : Nat
  start  : Nat
  stop   : Nat
  /-- The level's RPC; it keeps a preload while the level is not active (R108). -/
  rpc    : Nat
  /-- Iterations left of a ghost construct. -/
  gRpc   : Nat
  /-- Iterations left within the budget of a SPAN construct (R112), and the no-op slots that follow its last. -/
  spanK  : Nat
  spanPad : Nat
  deriving DecidableEq, Repr

/-- A level that is not active. -/
def level0 : Level :=
  { act := false, ghost := false, chan := false, span := false, cached := false, cstep := 0, start := 0, stop := 0,
    rpc := 0, gRpc := 0, spanK := 0, spanPad := 0 }

/-- A REPI whose repeated instruction is still to issue (R113); `slot` is the REPI's own slot. -/
structure Repi where
  left  : Nat
  ghost : Bool
  slot  : Nat
  /-- The repeated instruction has issued at least once. -/
  begun : Bool
  /-- The repeated instruction, fetched with the REPI. -/
  word  : W64
  deriving DecidableEq, Repr

/-- The first fault captured (R116). -/
structure IsaFirst where
  kind : Nat
  slot : Nat
  pass : W32
  deriving DecidableEq, Repr

/-- The engine. -/
structure Eng where
  /-- Registers by code of R78: an accumulator whole under 30h + i, a product register whole under 48h + i, PMASK under 68h,
  PMATCH under 6Ah. -/
  regs     : Tbl Nat
  fly      : List Fly
  l0       : Level
  l1       : Level
  repi     : Option Repi
  spanLeft : Nat
  spanAct  : Bool
  rpb      : Nat
  /-- The repeat cache (R111): the address of its first instruction and the words held. -/
  cacheAt  : Nat
  cache    : List W64
  /-- The address of the next instruction. -/
  ip       : Nat
  fault    : W32
  first    : Option IsaFirst
  /-- The event queue (R132), oldest first: CODE and PASS. -/
  evtQ     : List (Nat × Nat)
  evtOvf   : Bool
  uArm     : Bool
  uApplied : Bool
  uRefused : Bool
  ulenSh   : W64
  ulenAct  : W64
  /-- Decode table words (R137): word 16u + 4w + k. -/
  dtSh     : Tbl W32
  dtAct    : Tbl W32
  deriving DecidableEq, Repr

/-- The engine as after field power-on reset. -/
def eng0 : Eng :=
  { regs := [], fly := [], l0 := level0, l1 := level0, repi := none, spanLeft := 0, spanAct := false, rpb := 0,
    cacheAt := 0, cache := [], ip := 0, fault := 0, first := none, evtQ := [], evtOvf := false, uArm := false,
    uApplied := false, uRefused := false, ulenSh := 0, ulenAct := 0, dtSh := [], dtAct := [] }

/-- The engine registers as a swap or an engine reset leaves them (R67, R77): every one 0. -/
def engClear (e : Eng) : Eng :=
  { e with regs := [], fly := [], l0 := level0, l1 := level0, repi := none, spanLeft := 0, spanAct := false, rpb := 0,
           cacheAt := 0, cache := [], ip := 0 }

end Sys2Proof.Machine
end

