-- ==== Sys2Proof/Machine/SiltSt.lean ====
section
/-! DEFINITION. The state of Silt (R163 to R189): the DRAM, delay lines, taps, the capture ring, the playback library. -/

namespace Sys2Proof.Machine

/-- A delay line's descriptor (R169, R170). -/
structure Line where
  base    : W32
  len     : W32
  /-- EN as written, and as in force since the last seam slot 6. -/
  en      : Bool
  enUse   : Bool
  /-- EN has been 0 since the last seam slot 6: an enable starts the line again. -/
  restart : Bool
  /-- BASE and LEN as of the enable in force. -/
  baseUse : W32
  lenUse  : W32
  refused : Bool
  uncorr  : Bool
  /-- Positions written since the last enable. -/
  pos     : Nat
  deriving DecidableEq, Repr

/-- A line as after reset. -/
def line0 : Line := { base := 0, len := 0, en := false, enUse := false, restart := false, baseUse := 0, lenUse := 0, refused := false, uncorr := false,
                      pos := 0 }

/-- A tap entry (R171 to R181); delays in 1/4096 units. -/
structure TapSt where
  cfg     : W32
  /-- The configuration in force since the last seam slot 6. -/
  use     : W32
  /-- EN has been 0 since the last seam slot 6: an enable has the window refilled. -/
  restart : Bool
  /-- DELAY_HI as last written (R178). -/
  hi      : W32
  /-- The delay staged by a DELAY_LO write with LINK 1: DIRTY. -/
  staged  : Option Nat
  /-- The delay formed with LINK 0 that is not yet in force. -/
  waiting : Option Nat
  /-- The delay in force. -/
  used    : Nat
  /-- The delay before a glide began; none while not gliding (R179). -/
  glideA  : Option Nat
  /-- The delay that the window serves; none until a refill has served (R180). -/
  win     : Option Nat
  valid   : Bool
  defer   : Bool
  clamped : Bool
  noline  : Bool
  rateOff : Bool
  held    : Bool
  refused : Bool
  /-- USED_HI as latched (R8). -/
  latch   : W32
  deriving DecidableEq, Repr

/-- A tap as after reset. -/
def tap0 : TapSt :=
  { cfg := 0, use := 0, restart := false, hi := 0, staged := none, waiting := none, used := 0, glideA := none, win := none, valid := false,
    defer := false, clamped := false, noline := false, rateOff := false, held := false, refused := false, latch := 0 }

/-- The capture ring (R182, R183). -/
structure Capture where
  base      : W32
  frames    : W32
  /-- FRZ_CODE, CHANS, EVT_TRIG, EN. -/
  ctl       : W32
  post      : W32
  armed     : Bool
  triggered : Bool
  frozen    : Bool
  wrapped   : Bool
  refused   : Bool
  cause     : Nat
  /-- Frames recorded since the last ARM: HEAD + 1. -/
  count     : Nat
  tpass     : Nat
  /-- Frames still to record after the trigger frame; none before a trigger. -/
  left      : Option Nat
  /-- The cause of a trigger whose frame, the one of the running pass (R183), is not yet recorded. -/
  trigWait  : Option Nat
  /-- Latches of HEAD_HI, SLOT and TPASS_HI (R8). -/
  headLatch : W32
  slotLatch : W32
  tpLatch   : W32
  deriving DecidableEq, Repr

/-- The ring as after reset. -/
def capture0 : Capture :=
  { base := 0, frames := 0, ctl := 0, post := 0, armed := false, triggered := false, frozen := false, wrapped := false,
    refused := false, cause := 0, count := 0, tpass := 0, left := none, trigWait := none, headLatch := 0, slotLatch := 0,
    tpLatch := 0 }

/-- A clip (R184). -/
structure Clip where
  base    : W32
  len     : W32
  loop    : Bool
  playing : Bool
  done    : Bool
  refused : Bool
  uncorr  : Bool
  pos     : Nat
  deriving DecidableEq, Repr

/-- A clip as after reset. -/
def clip0 : Clip :=
  { base := 0, len := 0, loop := false, playing := false, done := false, refused := false, uncorr := false, pos := 0 }

/-- A start or stop accepted and not yet made (R185). -/
structure PbReq where
  start : Bool
  mask  : Nat
  pass  : Nat
  tag   : Nat
  deriving DecidableEq, Repr

/-- Silt. -/
structure Silt where
  /-- The 2^32 bytes of the store (R163). -/
  dram     : Mem
  /-- Codewords of 32 bytes: 1 correctable, 2 uncorrectable (R407). -/
  err      : Tbl Nat
  ecc      : Ctrs
  eccLast  : W32
  ready    : Bool
  en       : Bool
  /-- The streamer runs (ACTIVE). -/
  active   : Bool
  refused  : Bool
  winErr   : Bool
  win      : W32
  lines    : Tbl Line
  /-- Line staging: the samples of the block in progress under 16l + (p mod 16) (R173). -/
  stage    : Tbl W32
  taps     : Tbl TapSt
  /-- The front frames of R168. -/
  tapFront  : Tbl W32
  lineFront : Tbl W32
  pbFront   : Tbl W32
  cap      : Capture
  clips    : Tbl Clip
  pbMaskLo : W32
  pbMaskHi : W32
  pbPassLo : W32
  pbPassHi : W32
  pbTag    : Nat
  pbResTag : Nat
  pbResult : Nat
  pbPend   : List PbReq
  cnt      : Ctrs
  /-- Port S accesses withheld since the last seam slot 6 (R146, R181). -/
  retries  : Nat
  deriving DecidableEq, Repr

/-- Silt as after field power-on, before READY. -/
def silt0 : Silt :=
  { dram := [], err := [], ecc := ctrs0, eccLast := 0, ready := false, en := false, active := false, refused := false,
    winErr := false, win := 0, lines := [], stage := [], taps := [], tapFront := [], lineFront := [], pbFront := [],
    cap := capture0, clips := [], pbMaskLo := 0, pbMaskHi := 0, pbPassLo := 0, pbPassHi := 0, pbTag := 0, pbResTag := 0,
    pbResult := 0, pbPend := [], cnt := ctrs0, retries := 0 }

end Sys2Proof.Machine
end

