-- ==== Sys2Proof/Machine/AudioSt.lean ====
section
/-! DEFINITION. The state of the serial audio ports, the clock groups, the oscillator and the resampler (R190 to R216), of the
sounding chain (R217 to R232) and of the pilot DACs (R233 to R241). -/

namespace Sys2Proof.Machine

/-- The fade of an input (R212): none in progress; fading out in its i-th frame from the words held; silent; fading in. -/
inductive Fade where
  | full
  | out (i : Nat)
  | silent
  | into (i : Nat)
  deriving DecidableEq, Repr

/-- One serial audio port. -/
structure SapPort where
  cfg      : W32
  used     : W32
  en       : Bool
  link     : Bool
  cgrp     : Nat
  dirty    : Bool
  refused  : Bool
  /-- EN was written from 0 to 1; the configuration comes into force at the next seam slot 7 (R191). -/
  enWait   : Bool
  /-- Ball frames left of a restart (R192). -/
  restart  : Nat
  /-- The configuration in which the frame in progress began, and the frame before it; none: in a restart, or not running. -/
  cur      : Option W32
  prev     : Option W32
  /-- The frame in progress, and the frame before it, began in a restart (R192). -/
  curRst   : Bool
  prevRst  : Bool
  lost     : Bool
  /-- EN was written from 1 to 0; the frame in progress is not yet complete (R213). -/
  stopWait : Bool
  fade     : Fade
  /-- A recovery waits for the end of a fade out (R212). -/
  recover  : Bool
  /-- The pair completed most recently, as IN words, and whether a word of it is repeated or zero. -/
  curL     : W32
  curR     : W32
  rep      : Bool
  /-- The word in progress, left or right, met a glitch (R211). -/
  badL     : Bool
  badR     : Bool
  /-- The pair last delivered to an IN frame: the last good word of a fade out. -/
  lastL    : W32
  lastR    : W32
  /-- The pair of the frame that SD shifts out, and the right word of the frame before it: in I2S with W = H its last bit falls in bit period 0 (R193). -/
  outL     : W32
  outR     : W32
  tailR    : W32
  glitch   : Nat
  framing  : Nat
  rate     : W32
  dev      : W16
  code     : Nat
  /-- The code of the last window, where it differs from CODE (R207). -/
  cand     : Nat
  devHi    : Bool
  deriving DecidableEq, Repr

/-- A port as after field power-on: CFG 025Ch, CODE Fh. -/
def sapPort0 : SapPort :=
  { cfg := 0x25C, used := 0x25C, en := false, link := false, cgrp := 0, dirty := false, refused := false, enWait := false,
    restart := 0, cur := none, prev := none, curRst := false, prevRst := false, lost := false, stopWait := false, fade := .full, recover := false, curL := 0, curR := 0, rep := false,
    badL := false, badR := false, lastL := 0, lastR := 0, outL := 0, outR := 0, tailR := 0, glitch := 0, framing := 0, rate := 0, dev := 0,
    code := 15, cand := 15, devHi := false }

/-- One slave clock group (R198 to R200). The ring holds 64 positions in each direction. -/
structure SapGroup where
  ref      : Nat
  refUsed  : Nat
  link     : Bool
  cgrp     : Nat
  dirty    : Bool
  refused  : Bool
  fill     : Nat
  ofill    : Nat
  /-- Next position written and read, input side and output side. -/
  wr       : Nat
  rd       : Nat
  owr      : Nat
  ord      : Nat
  inUnder  : Nat
  inOver   : Nat
  outUnder : Nat
  outOver  : Nat
  deriving DecidableEq, Repr

/-- A group as after field power-on: REFPORT 1Fh, which names no port. -/
def sapGroup0 : SapGroup :=
  { ref := 31, refUsed := 31, link := false, cgrp := 0, dirty := false, refused := false, fill := 0, ofill := 0, wr := 0,
    rd := 0, owr := 0, ord := 0, inUnder := 0, inOver := 0, outUnder := 0, outOver := 0 }

/-- The steered oscillator and the engine PLL (R201 to R206). -/
structure Osc where
  /-- OSC_CTL: FAMILY, LGRP, LBW, MODE. -/
  ctl      : W32
  refused  : Bool
  trim     : W32
  freq     : W32
  err      : W16
  lock     : Bool
  hold     : Bool
  limit    : Bool
  pllLock  : Bool
  slewing  : Bool
  mismatch : Bool
  /-- Consecutive ticks with a phase error within ±100 ps (R203). -/
  near     : Nat
  /-- Chain mode has no source: an engine reset cleared COAST in hold, and no tick has been taken since (R205, R214). -/
  chainGone : Bool
  deriving DecidableEq, Repr

/-- The oscillator as after field power-on: free-running at 0 ppm, not locked. -/
def osc0 : Osc :=
  { ctl := 0x30, refused := false, trim := 0, freq := 0, err := 0, lock := false, hold := false, limit := false,
    pllLock := false, slewing := false, mismatch := false, near := 0, chainGone := false }

/-- One resampler channel (R208 to R210). -/
structure RsmpCh where
  src     : Nat
  srcUsed : Nat
  en      : Bool
  dirty   : Bool
  refused : Bool
  enWait  : Bool
  lock    : Bool
  fade    : Fade
  range   : Bool
  nosrc   : Bool
  ratio   : W32
  delay   : W32
  /-- The words of the source that the filter acts on, newest first, at most 512 (R209). -/
  hist    : List W32
  deriving DecidableEq, Repr

/-- A channel as after field power-on. -/
def rsmpCh0 : RsmpCh :=
  { src := 0, srcUsed := 0, en := false, dirty := false, refused := false, enWait := false, lock := false, fade := .silent,
    range := false, nosrc := false, ratio := 0, delay := 0, hist := [] }

/-- Ports, groups, master clocks, oscillator, resampler. -/
structure Audio where
  ports    : Tbl SapPort
  groups   : Tbl SapGroup
  /-- The elastic buffers (R198): word 2p + side of position k of group g under (64g + k) × 128 + 2p + side; under
  (64g + k) × 128 + 48 + p, 1 where a word of port p's pair is repeated or zero. -/
  inRing   : Tbl W32
  outRing  : Tbl W32
  mclk     : W32
  /-- MCLK_CTL as in force since a sample edge (R197). -/
  mclkUse  : W32
  osc      : Osc
  rsmp     : Tbl RsmpCh
  rsmpLink : W32
  deriving DecidableEq, Repr

/-- The audio block as after field power-on. -/
def audio0 : Audio :=
  { ports := [], groups := [], inRing := [], outRing := [], mclk := 0, mclkUse := 0, osc := osc0, rsmp := [],
    rsmpLink := 0 }

/-- One channel of the sounding chain. -/
structure SnsCh where
  cfg     : W32
  used    : W32
  en      : Bool
  link    : Bool
  cgrp    : Nat
  dirty   : Bool
  refused : Bool
  enWait  : Bool
  /-- EN was written from 1 to 0; the output in progress is not yet complete (R41). -/
  stopWait : Bool
  defer   : Bool
  /-- Bits taken since the last restart (R229). -/
  since   : Nat
  /-- Bits of the tick of that restart that come after it: `i` for input `i` where a seam made it, none counted otherwise. -/
  head    : Nat
  /-- Outputs are withheld. -/
  settling : Bool
  /-- The taps faded from, the set they belong to, and the outputs delivered since the change (R231). -/
  fadeFrom : Option (List Int)
  fadeSet  : Nat
  fadeI    : Nat
  stuck   : Bool
  clipped : Bool
  clips   : Nat
  stucks  : Nat
  /-- CIC integrators and comb registers, modulo 2^21 (R222). -/
  integ   : List Nat
  comb    : List Nat
  /-- Histories of HB1 to HB4 and of the FIR, newest first; past the end of a list they are 0. HB2 to the FIR take one input a tick: HB4 uses every
  second one of its history, the FIR every D-th (R227). -/
  hb1     : List Int
  hb2     : List Int
  hb3     : List Int
  hb4     : List Int
  fir     : List Int
  /-- Sums of +1 and −1 over the last 16 windows of 64 bits, newest first (R225). -/
  box     : List Int
  /-- The output of the tick in progress, and that of the tick before (R226). -/
  fresh   : Option W32
  ready   : Option W32
  /-- The output that a tick with no pass left unread: the frame of a pass that starts late in the tick takes it. -/
  idle    : Option W32
  last    : W32
  /-- The channel restarted at the seam in progress (R231). -/
  justRst : Bool
  deriving DecidableEq, Repr

/-- A sense channel as after field power-on. -/
def snsCh0 : SnsCh :=
  { cfg := 0, used := 0, en := false, link := false, cgrp := 0, dirty := false, refused := false, enWait := false,
    stopWait := false, defer := false, since := 0, head := 0, settling := false, fadeFrom := none, fadeSet := 0, fadeI := 0, stuck := false,
    clipped := false, clips := 0, stucks := 0, integ := [0, 0, 0, 0, 0], comb := [0, 0, 0, 0, 0], hb1 := [], hb2 := [],
    hb3 := [], hb4 := [], fir := [], box := [], fresh := none, ready := none, idle := none, last := 0, justRst := false }

/-- The sounding chain. FIR taps stand under 32s + t; an unlisted tap holds its reset value (R230), kept as the difference from
it. -/
structure Sense where
  ch       : Tbl SnsCh
  smclk    : W32
  firSh    : Tbl W32
  firAct   : Tbl W32
  /-- FIRCTL: CGRP, LINK. -/
  firCtl   : W32
  firRef   : Bool
  firDirty : Nat
  firDefer : Nat
  deriving DecidableEq, Repr

/-- The sounding chain as after field power-on. -/
def sense0 : Sense :=
  { ch := [], smclk := 0, firSh := [], firAct := [], firCtl := 0, firRef := false, firDirty := 0, firDefer := 0 }

/-- The reset value of tap `t` (R230): 1.0 in Q3.29 at tap 0. -/
def firReset (t : Nat) : W32 := if t % 32 = 0 then 0x20000000 else 0

/-- Tap `k` = 32s + t of a copy of the FIR sets. -/
def firTap (m : Tbl W32) (k : Nat) : W32 := tget 0 m k ^^^ firReset k

/-- A copy with tap `k` written. -/
def firPut (m : Tbl W32) (k : Nat) (v : W32) : Tbl W32 := tput 0 m k (v ^^^ firReset k)

/-- One pilot DAC channel. -/
structure Pdac where
  /-- PDAC_CTL: DEGLITCH, SPAN, SRC, EN. -/
  ctl      : W32
  code     : W32
  ftw      : W32
  amp      : W32
  ph0      : W32
  spanUsed : Nat
  sat      : Bool
  holding  : Bool
  /-- The span sequence (R237): 0 none, 1 settling to 0 V, 2 clamped. -/
  spanSeq  : Nat
  phi      : W32
  /-- The sine value s of the last update (R239). -/
  sine     : Int
  /-- The engine feed E: OUT word 80 + c of the frame in force. -/
  feed     : W32
  /-- The code loaded in the converter, and the code whose level the output shows. -/
  conv     : W16
  level    : W16
  deriving DecidableEq, Repr

/-- A channel as after field power-on: disabled at 0 V (R241). -/
def pdac0 : Pdac :=
  { ctl := 0x40, code := 0, ftw := 0, amp := 0, ph0 := 0, spanUsed := 0, sat := false, holding := false, spanSeq := 0,
    phi := 0, sine := 0, feed := 0, conv := 0, level := 0 }

/-- A phase sync accepted and not yet made (R240). -/
structure SyncReq where
  mask : Nat
  tick : Nat
  tag  : Nat
  deriving DecidableEq, Repr

/-- The pilot DACs. -/
structure Pilot where
  ch       : Tbl Pdac
  /-- SUPPLY_LOW (R238): AVDD or AVSS is outside its limit. -/
  supplyLow : Bool
  syncMask : W32
  syncLo   : W32
  syncHi   : W32
  syncTag  : Nat
  resTag   : Nat
  result   : Nat
  pend     : List SyncReq
  deriving DecidableEq, Repr

/-- The pilot DACs as after field power-on. -/
def pilot0 : Pilot :=
  { ch := [], supplyLow := false, syncMask := 0, syncLo := 0, syncHi := 0, syncTag := 0, resTag := 0, result := 0, pend := [] }

end Sys2Proof.Machine
end

