-- ==== Sys2Proof/Machine/CwSt.lean ====
section
/-! DEFINITION. The state of a Causeway node (R243 to R279): ports, enumeration, routes, tokens, maps, frames held. -/

namespace Sys2Proof.Machine

/-- A frame ready to send, with the header fields that are not the port's own (R248). `src` is none for the node itself. -/
structure CwTx where
  cls     : Nat
  dmode   : Nat
  dst     : Nat
  /-- SRC and NOADDR of a frame sent on for another node. -/
  src     : Option Nat
  payload : List Byte
  /-- Payload bytes and fragments already sent (R272). -/
  done    : Nat
  frag    : Nat
  /-- A whole Ethernet frame that leaves a PLAIN port as it came (R251). -/
  plain   : Bool
  /-- The SENT count follows the payload as the frame leaves: a CAUDIT or CRESYNC_ACK (R273). -/
  count   : Bool
  deriving DecidableEq, Repr

/-- A frame that has left a port (an output, R246): its addresses and EtherType, bytes 0 to 15 of its header (none on a PLAIN port), its payload, and the
bytes of padding after it. -/
structure CwOut where
  dst     : Nat
  src     : Nat
  etype   : Nat
  hdr     : List Byte
  payload : List Byte
  pad     : Nat
  /-- The frame ended with a complemented FCS (R249, R271). -/
  cut     : Bool
  deriving DecidableEq, Repr

/-- The gap frame that left last, for a stream frame that cuts it short (R271): the entry of the queue as it was (none for a CREL_ONLY),
what it became, and `relSent` before it. -/
structure CwSending where
  was : Option CwTx
  now : Option CwTx
  rel : Nat
  deriving DecidableEq, Repr

/-- A V or P frame under reassembly (R272). -/
structure Reasm where
  cls   : Nat
  seq   : Nat
  next  : Nat
  bytes : List Byte
  deriving DecidableEq, Repr

/-- A REPORT as recorded on a port (R255). -/
structure RepRec where
  enumNo : Nat
  udn    : Nat
  count  : Nat
  sTerm  : Nat
  uTerm  : Nat
  flags  : Nat
  deriving DecidableEq, Repr

/-- One Causeway port. -/
structure CwPort where
  pctl      : W32
  link      : Bool
  /-- 0 upstream, 1 downstream, 2 standby, 3 blocked. -/
  role      : Nat
  speed1000 : Bool
  anDone    : Bool
  remFault  : Bool
  peer      : Bool
  /-- The speed that AUTO tries now. -/
  try1000   : Bool
  cnt       : Ctrs
  /-- Credited frames sent, RELEASED of the partner, frames accounted, buffers released: modulo 256 (R273). -/
  sent      : Nat
  farRel    : Nat
  acct      : Nat
  rel       : Nat
  /-- `rel` as last carried in a CREL. -/
  relSent   : Nat
  held      : Nat
  stopped   : Bool
  syncing   : Bool
  /-- Transmit count of each class (R248). -/
  seqs      : Tbl Nat
  reasm     : Option Reasm
  txq       : List CwTx
  out       : List CwOut
  report    : Option RepRec
  /-- The subtree count of the port in the node's own REPORT, and the last ASSIGN sent on it (R255, R274). -/
  counted   : Nat
  assign    : Option (List Byte)
  /-- The frames returned ABORTED when the port was last disabled, each with the bytes sent (R41). -/
  returned  : List CwTx
  /-- A DISCOVER has been sent on the port for the enumeration in progress. -/
  asked     : Bool
  /-- The gap frame on its way. -/
  sending   : Option CwSending
  /-- A CRESYNC_ACK waits for the last fragment of the credited frame in progress (R25 step 2). -/
  ackDue    : Bool
  deriving DecidableEq, Repr

/-- A port as after a switch reset; CA starts upstream, CB and CC downstream. -/
def cwPort0 (x : Nat) : CwPort :=
  { pctl := 0x16, link := false, role := if x = 0 then 0 else 1, speed1000 := false, anDone := false, remFault := false,
    peer := false, try1000 := false, cnt := ctrs0, sent := 0, farRel := 0, acct := 0, rel := 0, relSent := 0, held := 0,
    stopped := false, syncing := false, seqs := [], reasm := none, txq := [], out := [], report := none, counted := 0, assign := none,
    returned := [], asked := false, sending := none, ackDue := false }

/-- An S or U frame as taken off a link: its SEQ, its FILL flag and its slots. -/
structure SlotFrame where
  seq   : Nat
  fill  : Bool
  slots : List W32
  deriving DecidableEq, Repr

/-- A token or route entry that takes effect at a U sequence (R268, R276): the value 0 clears it. -/
structure PendEnt where
  at'   : Nat
  token : Bool
  key   : Nat
  val   : Nat
  deriving DecidableEq, Repr

/-- A map of slot indices (R264, R266, R270): shadow and active entries with the flags of the active ones. -/
structure SlotMap where
  sh      : Tbl Nat
  act     : Tbl Nat
  outside : Tbl Bool
  noTok   : Tbl Bool
  pend    : Option Nat
  actSeq  : Nat
  /-- The slot count of the last frame judged (R267). -/
  count   : Nat
  deriving DecidableEq, Repr

/-- A map as after reset: every entry disabled. -/
def slotMap0 : SlotMap := { sh := [], act := [], outside := [], noTok := [], pend := none, actSeq := 0, count := 0 }

/-- The switch. -/
structure Cw where
  ctrl      : W32
  /-- ETYPE in force (R246), and the MAC base in force (R247): none, the derived addresses. -/
  etype     : Nat
  macUse    : Option Nat
  macLo     : W32
  macHi     : W32
  /-- 0 OFFLINE, 1 JOINING, 2 QUARANTINE, 3 RUNNING, 4 AUTONOMOUS, 5 SAFE. -/
  state     : Nat
  isHead    : Bool
  depth     : Nat
  path      : Nat
  addr      : Nat
  noaddr    : Bool
  overflow  : Bool
  conflict  : Bool
  onStandby : Bool
  stream    : W32
  slead     : Nat
  ulag      : Nat
  sleadMin  : Nat
  ulagMin   : Nat
  /-- LEAD_SHORT has been raised for the shortage in force. -/
  leadShort : Bool
  sys       : Nat
  headUdn   : Nat
  /-- A DISCOVER has named the system speed, or the node is the one that names it (R244). -/
  discSeen  : Bool
  enumNo    : Nat
  /-- An ENUM DISCOVER has been forwarded and no REPORT sent for it yet; a REPORT is out and no ASSIGN has come. -/
  toReport  : Bool
  awaiting  : Bool
  /-- The REPORT due is one of a node that joins (R257). -/
  joining   : Bool
  /-- The rate code and the system speed of the last DISCOVER. -/
  discRate  : Nat
  sys1000   : Bool
  /-- Depth and path delay of the standby DISCOVER (R254). -/
  stDepth   : Option Nat
  stPath    : Nat
  /-- The REPORTs sent up and not yet answered by an ASSIGN, oldest first: the port each came from (3: the node's own) and its unique device number. -/
  joins     : List (Nat × Nat)
  addrHold  : Nat
  /-- At the head: unique device numbers with the address each last held; addresses held after a LEAVE. -/
  udnAddr   : List (Nat × Nat)
  heldAddr  : List Nat
  /-- At the head: the addresses that the last ASSIGN to a joining subtree gave, by its unique device number (R257, R274). -/
  gave      : List (Nat × List Nat)
  /-- Route and token tables: 0 none, 1 self, 2 CA, 3 CB, 4 CC. -/
  route     : Tbl Nat
  tokens    : Tbl Nat
  /-- At the head: the owner word of each token, [11:0] address, [15] valid. -/
  owners    : Tbl Nat
  /-- The owner word of each token in force, and the U sequence of its last change, plus 1 (R269). -/
  ownNow    : Tbl Nat
  tokAt     : Tbl Nat
  pend      : List PendEnt
  /-- The RELOCATEs passed on or sent: node address and effective sequence (R276). -/
  relocs    : List (Nat × Nat)
  /-- Source address and port, oldest first. -/
  learn     : List (Nat × Nat)
  ports     : Tbl CwPort
  /-- S frames missed in a row on the upstream port; the SEQ of the last S frame or miss. -/
  missed    : Nat
  lastS     : Option Nat
  held      : List SlotFrame
  slotMap   : SlotMap
  retMap    : SlotMap
  srcMap    : SlotMap
  /-- The last S sequence taken apart, the last U sequence sent, the last S sequence formed. -/
  tookS     : Option Nat
  sentU     : Option Nat
  formedS   : Option Nat
  /-- Child U frames received, by port number. -/
  children  : List (Nat × SlotFrame)
  /-- Child U frames whose FCS failed, by port and sequence (R249); at the head: the U frames of which a child's was missing (R270), or that came before a
  relocation took effect (R276). -/
  badKids   : List (Nat × Nat)
  lostU     : List Nat
  /-- At the head: the U frames merged, newest first (R270). -/
  merged    : List SlotFrame
  /-- Return words by pass, from STREAM_RET, newest first. -/
  rets      : List (Nat × List W32)
  mdioCmd   : W32
  mdioCfg   : W32
  /-- The address frame of a clause 45 command is still on the wire. -/
  mdioAddr  : Bool
  mdioBusy  : Bool
  mdioRef   : Bool
  cnt       : Ctrs
  deriving DecidableEq, Repr

/-- The switch as after host power-on with the HEAD strap `head` (R252, R259). -/
def cw0 (head : Bool) : Cw :=
  { ctrl := if head then 0x88B50101 else 0x88B50001, etype := 0x88B5, macUse := none, macLo := 0, macHi := 0, state := 0,
    isHead := false, depth := 0, path := 0, addr := 0, noaddr := true, overflow := false, conflict := false,
    onStandby := false, stream := 0x00080200, slead := 0, ulag := 0, sleadMin := 0, ulagMin := 0, leadShort := false,
    sys := 0, headUdn := 0, discSeen := false, enumNo := 0, toReport := false, awaiting := false, joining := false, discRate := 0, sys1000 := false,
    stDepth := none, stPath := 0, joins := [], addrHold := 60, udnAddr := [], heldAddr := [], gave := [], route := [],
    tokens := [], owners := [], ownNow := [], tokAt := [], pend := [], relocs := [], learn := [], ports := [], missed := 0, lastS := none, held := [],
    slotMap := slotMap0, retMap := slotMap0, srcMap := slotMap0, tookS := none, sentU := none, formedS := none,
    children := [], badKids := [], lostU := [], merged := [], rets := [], mdioCmd := 0, mdioCfg := 0, mdioAddr := false, mdioBusy := false,
    mdioRef := false, cnt := ctrs0 }

/-- Port `x` of the switch: an unlisted port is as after reset. -/
def cwPort (c : Cw) (x : Nat) : CwPort := tget (cwPort0 x) c.ports x

/-- The switch with port `x` replaced. -/
def cwSetPort (c : Cw) (x : Nat) (p : CwPort) : Cw := { c with ports := tput (cwPort0 x) c.ports x p }

/-- The number of a port: 0 CA, 1 CB, 2 CC. -/
def portNo : Port → Nat
  | .ca => 0
  | .cb => 1
  | .cc => 2

end Sys2Proof.Machine
end

