-- ==== Sys2Proof/Machine/DatumSt.lean ====
section
/-! DEFINITION. The state of the host Datum unit (R280 to R300). Times count units of 2^-16 ns from the TAI epoch; delays are in
picoseconds. -/

namespace Sys2Proof.Machine

/-- Datum's side of one Causeway port (R285, R286). -/
structure DtPort where
  /-- ASYM_TOL and QUAL. -/
  cfg      : W32
  asym     : W32
  calDone  : Bool
  pdly     : W32
  /-- Number of the last T_REQ, its departure time t1' in ps, and whether it is unanswered. -/
  exNo     : Nat
  t1       : Int
  open'    : Bool
  /-- Exchanges unanswered in a row. -/
  lost     : Nat
  /-- Exchanges of the calibration and the sum of their forward delays. -/
  calN     : Nat
  calSum   : Int
  deriving DecidableEq, Repr

/-- A port as after reset. -/
def dtPort0 : DtPort :=
  { cfg := 0x27100000, asym := 0, calDone := false, pdly := 0, exNo := 0, t1 := 0, open' := false, lost := 0, calN := 0,
    calSum := 0 }

/-- The Datum unit. -/
structure Datum where
  /-- HOLD_MAX, SLEW_MAX, SRC. -/
  ctrl      : W32
  stDiff    : Bool
  numConfl  : Bool
  limit     : Nat
  tempOk    : Bool
  traceable : Bool
  srcHold   : Bool
  srcOk     : Bool
  holdover  : Bool
  lock      : Bool
  cls       : Nat
  bound     : Nat
  hold      : W32
  /-- The Datum estimate as the holdover began (R297). -/
  holdFrom  : Nat
  /-- The Datum estimate at the last event that gave it, and the latched words of a read. -/
  time      : Nat
  timeLatch : List W32
  anchorM   : Nat
  anchorT   : Nat
  anchorR   : Nat
  anchLatch : List W32
  /-- An anchor has been received in a T_RESP. -/
  anchored  : Bool
  secLo     : W32
  secHi     : W32
  rateLo    : W32
  rateHi    : W32
  rateNew   : Nat
  rateRes   : Nat
  /-- A rate change accepted or learnt, not yet made (R298). -/
  ratePend  : Option (Nat × Nat)
  /-- The last rate change made: the last pass of the rate before, and its code. -/
  rateOld   : Option (Nat × Nat)
  ports     : Tbl DtPort
  cnt       : Ctrs
  everLock  : Bool
  /-- How long the offset has stayed below 200 ps, in steps of 125 µs (R286, R287). -/
  lockRun   : Nat
  /-- What the upstream reported last: class, depth, S in ps, V in ps². -/
  upCls     : Nat
  upDepth   : Nat
  upS       : Nat
  upV       : Nat
  /-- The last tick emitted, and ticks since the last TIME_MARK. -/
  tick      : Nat
  sinceMark : Nat
  /-- A TIME_MARK is due for a class change or after bring-up (R28). -/
  markDue   : Bool
  /-- A slew still to make, in 2^-16 ns (R290, R287). -/
  slew      : Int
  /-- Junction temperatures of the last 60 s as runs of equal readings, newest first (R294): host die, field die. -/
  histH     : List (Int × Nat)
  histF     : List (Int × Nat)
  deriving DecidableEq, Repr

/-- The Datum unit as after host power-on. -/
def datum0 : Datum :=
  { ctrl := 0x012C0A00, stDiff := false, numConfl := false, limit := 0, tempOk := false, traceable := false,
    srcHold := false, srcOk := false, holdover := false, lock := false, cls := 4, bound := 0, hold := 0, holdFrom := 0, time := 0,
    timeLatch := [], anchorM := 0, anchorT := 0, anchorR := 0, anchLatch := [], anchored := false, secLo := 0, secHi := 0,
    rateLo := 0, rateHi := 0, rateNew := 0, rateRes := 0, ratePend := none, rateOld := none, ports := [], cnt := ctrs0, everLock := false, lockRun := 0,
    upCls := 4, upDepth := 0, upS := 0, upV := 0, tick := 0, sinceMark := 0, markDue := false, slew := 0, histH := [],
    histF := [] }

end Sys2Proof.Machine
end

