-- ==== Sys2Proof/Machine/LegendSt.lean ====
section
/-! DEFINITION. The state of the Legend server (R301 to R340). -/

namespace Sys2Proof.Machine

/-- A Legend message as the node sends it (R316). -/
structure LegMsg where
  svc   : Nat
  flags : Nat
  rid   : Nat
  rseq  : Nat
  role  : Nat
  code  : Nat
  epoch : W32
  item  : Nat
  body  : List Byte
  deriving DecidableEq, Repr

/-- A session of a gateway (R311): the key in the table is the session index. -/
structure Session where
  rid      : Nat
  role     : Nat
  endpoint : Nat
  /-- The Datum estimate at its last request. -/
  idle     : Nat
  deriving DecidableEq, Repr

/-- An outcome in a duplicate store (R327): a response, or the mark ABANDONED. -/
inductive Outcome where
  | answered (m : LegMsg)
  | abandoned
  deriving DecidableEq, Repr

/-- A requester of the host store: its RID and the outcomes of its last 16 requests, newest first. -/
structure DupReq where
  rid  : Nat
  outs : List (Nat × Outcome)
  deriving DecidableEq, Repr

/-- A requester of the field bridge's store: the response code of each outcome. -/
structure FieldDup where
  rid  : Nat
  outs : List (Nat × List W32)
  deriving DecidableEq, Repr

/-- What a forwarded request waits for (R329). -/
inductive FwdKind where
  | read (total : Bool) (offset max : Nat)
  | write
  | act
  | bundle
  deriving DecidableEq, Repr

/-- A request forwarded across the Weir, not yet answered. -/
structure Fwd where
  rid   : Nat
  rseq  : Nat
  role  : Nat
  flags : Nat
  via   : LegVia
  idx   : Nat
  sub   : Nat
  kind  : FwdKind
  /-- A WRITE_BUNDLE: PASS, and the slot-map commit to make once the field bundle is accepted. -/
  pass  : Nat
  slots : Bool
  deriving DecidableEq, Repr

/-- A subscription (R324); `seq` is its notification sequence. -/
structure Sub where
  id     : Nat
  rid    : Nat
  via    : LegVia
  idx    : Nat
  sub    : Nat
  period : Nat
  onChg  : Bool
  last   : Option (List Byte)
  seq    : Nat
  deriving DecidableEq, Repr

/-- A challenge issued and not used (R310, R344). -/
structure Chal where
  bytes : List Byte
  deriving DecidableEq, Repr

/-- The Legend server. -/
structure Legend where
  name     : List Byte
  sessions : Tbl (Option Session)
  /-- The challenges issued and not used, newest first. -/
  chal     : List Chal
  /-- Answers AUTH to OPEN counted toward the lockout; OPEN is locked out. -/
  authRun  : Nat
  lockout  : Bool
  idleMax  : Nat
  udpPort  : Nat
  tags     : Tbl Nat
  keys     : Tbl (Option (List Byte))
  epoch    : W32
  /-- The epoch last saved, and the last one received in a DISCOVER (R333). -/
  savedEp  : W32
  discEp   : W32
  disagree : Nat
  /-- The stop of the SAFE ACTION (R259). -/
  stopped  : Bool
  /-- Tags of the programs in P0 and P1. -/
  tag0     : W32
  tag1     : W32
  /-- The last event: code, PCNT, data. -/
  event    : List W32
  cnt      : Ctrs
  watches  : Tbl (List Byte)
  fired    : W32
  subs     : List Sub
  dups     : List DupReq
  /-- Requests still being served: those forwarded, and a SAVE or QUOTE in progress. -/
  fwd      : List Fwd
  saving   : Option Fwd
  quoting  : Option Fwd
  /-- The system profile by sub-index (R334): staged at the head, and in force. Unlisted entries hold their defaults. -/
  profSt   : Tbl (List Byte)
  prof     : Tbl (List Byte)
  /-- The epoch of the copy of IMAGE held; none held. -/
  profEp   : Option W32
  stale    : Bool
  /-- Field values of the record wait for the field image (R314). -/
  restoring : Bool
  /-- The persistence record in flash: values by index × 256 + sub. -/
  record   : Tbl (List Byte)
  /-- Host values of fixed entries that are not registers, by index × 256 + sub. -/
  extra    : Tbl (List Byte)
  /-- Sequence numbers of the node's own requests across the Weir. -/
  selfSeq  : Nat
  /-- Messages sent, newest first (an output). -/
  out      : List LegMsg
  /-- The words of the last MEASURE of the field side. -/
  fieldMs  : List W32
  deriving DecidableEq, Repr

/-- The Legend server as after host power-on. -/
def legend0 : Legend :=
  { name := [], sessions := [], chal := [], authRun := 0, lockout := false, idleMax := 600, udpPort := 4128, tags := [],
    keys := [], epoch := 0, savedEp := 0, discEp := 0, disagree := 0, stopped := false, tag0 := 0, tag1 := 0, event := [],
    cnt := ctrs0, watches := [], fired := 0, subs := [], dups := [], fwd := [], saving := none, quoting := none,
    profSt := [], prof := [], profEp := none, stale := false, restoring := false, record := [], extra := [], selfSeq := 0, out := [],
    fieldMs := [] }

end Sys2Proof.Machine
end

