-- ==== Sys2Proof/Machine/BootSt.lean ====
section
/-! DEFINITION. Fuses, boot, keys, measurements, image transfer, flash (R341 to R376). -/

namespace Sys2Proof.Machine

/-- A row of a bank by its resource number (R423) and row number. -/
structure RowId where
  res : Nat
  row : Nat
  deriving DecidableEq, Repr

/-- The fuses of one die (R341, R348, R349, R354, R412). -/
structure Fuses where
  /-- Copies blown, 0 to 3, of lifecycle bits 0 to 3. -/
  lc        : List Nat
  wiped     : Bool
  digests   : Tbl (List Byte)
  programmed : Nat
  revoked   : Nat
  bootOrder : Nat
  /-- AUTH_MODE: 0 ECDSA, 1 HMAC. -/
  authHmac  : Bool
  marchBoot : Nat
  udn       : W64
  /-- TX_CAL and RX_CAL of each Causeway port, in ps. -/
  txCal     : Tbl Nat
  rxCal     : Tbl Nat
  deriving DecidableEq, Repr

/-- The lifecycle of one die's fuses (R341): the bits of which at least two copies are blown. -/
def lcOf (f : Fuses) : Nat := (f.lc.filter (fun n => decide (2 ≤ n))).length

/-- The fuses as the model ships them (log entry 2): BLANK, no key slot, default boot order. -/
def fuses0 : Fuses :=
  { lc := [0, 0, 0, 0], wiped := false, digests := [], programmed := 0, revoked := 0, bootOrder := 0, authHmac := false,
    marchBoot := 0, udn := 0, txCal := [], rxCal := [] }

/-- A fault-log record (R375). -/
structure FaultRec where
  seq  : Nat
  time : Nat
  code : Nat
  data : List W32
  deriving DecidableEq, Repr

/-- A repair record of the field side (R419): the row, or for resource 12 the multiply-accumulate unit, the spare used, PCNT. -/
structure RepairRec where
  row   : RowId
  spare : Nat
  pcnt  : Nat
  deriving DecidableEq, Repr

/-- The image transfer of R373, and the push of R350 that a booting ROM takes. -/
structure Xfer where
  /-- 0 IDLE, 1 ERASING, 2 RECEIVING, 3 VERIFIED, 4 REJECTED. -/
  state   : Nat
  next    : Nat
  size    : Nat
  passed  : Nat
  lastBad : Nat
  /-- The manifest once judged, the hash block in force, the bytes of the block in progress. -/
  man     : List Byte
  hashes  : List Byte
  block   : List Byte
  deriving DecidableEq, Repr

/-- No transfer. -/
def xfer0 : Xfer :=
  { state := 0, next := 0, size := 0, passed := 0, lastBad := 0, man := [], hashes := [], block := [] }

/-- Boot, key store and trust on the host die. -/
structure Boot where
  /-- The ROM runs and no image has been started since the last host reset. -/
  inRom    : Bool
  /-- The BOOT[2:0] straps as sampled. -/
  straps   : Nat
  /-- Sources still to try, the first in progress (R349); ATTEMPTS records: source and verdict. -/
  sources  : List Nat
  attempts : List (Nat × Nat)
  source   : Nat
  flags    : Nat
  /-- The manifest of the image that runs; the digests of its STAGE1, HOST_APP and FIELD_IMAGE (R374). -/
  man      : List Byte
  runDig   : List (List Byte)
  /-- Entries 0 to 2 of the PMP are locked on both cores; core 1 runs; the address jumped to. -/
  pmp      : Bool
  core1    : Bool
  entry    : Nat
  lcField  : Nat
  split    : Bool
  ksCtrl   : W32
  svn      : W32
  ksHandle : Nat
  ksResult : Nat
  ksVer    : W32
  ksLabel  : Tbl W32
  handles  : Tbl (List Byte)
  ak       : List Byte
  msSlot   : Nat
  msRef    : Bool
  msData   : Tbl W32
  ms       : Tbl (List Byte)
  msCnt    : Tbl Nat
  /-- The challenge of R344, unused; the last one issued, used or not. -/
  chal     : Option Chal
  issued   : List Byte
  quote    : List Byte
  quoteReq : List Byte
  quoteBusy : Bool
  xfer     : Xfer
  /-- A pushed image by its bytes in stream order, as a ROM takes it. -/
  push     : Mem
  /-- The SPP0 flash (R369), an unlisted byte reading as FFh. -/
  flash    : Tbl Byte
  /-- Repair records of the host banks in the configuration store (R419): the row and its spare. -/
  repairs  : List (RowId × Nat)
  /-- Those of the field side. -/
  repairsF : List RepairRec
  /-- Fault records of the field die that the log holds (log entry 64). -/
  faultsIn : Nat
  log      : List FaultRec
  logSeq   : Nat
  /-- PULLs sent (an output). -/
  pulls    : Nat
  deriving DecidableEq, Repr

/-- Boot as after host power-on: the ROM runs. -/
def boot0 : Boot :=
  { inRom := true, straps := 0, sources := [1, 2, 3], attempts := [], source := 0, flags := 0, man := [], runDig := [], pmp := false,
    core1 := false, entry := 0, lcField := 0, split := false, ksCtrl := 0, svn := 0, ksHandle := 0, ksResult := 0,
    ksVer := 0, ksLabel := [], handles := [], ak := [], msSlot := 0, msRef := false, msData := [], ms := [], msCnt := [],
    chal := none, issued := [], quote := [], quoteReq := [], quoteBusy := false, xfer := xfer0, push := [], flash := [], repairs := [], repairsF := [], faultsIn := 0, log := [],
    logSeq := 0, pulls := 0 }

/-- The field ROM and its boot report (R365 to R367). -/
structure FieldBoot where
  /-- The ROM waits for, or takes, an image; the controller does not run. -/
  inRom    : Bool
  ident    : Option Nat
  next     : Nat
  quarter  : Nat
  block    : List W32
  /-- A MISSING has been sent for the block wanted. -/
  missing  : Bool
  man      : List Byte
  hashes   : List Byte
  verdict  : Nat
  unver    : Bool
  meas     : List Byte
  /-- FIELD_FW, entry address and ROOT_LOCK of the image that runs. -/
  version  : W32
  entry    : Nat
  rootLock : Bool
  deriving DecidableEq, Repr

/-- The field ROM as after field power-on. -/
def fieldBoot0 : FieldBoot :=
  { inRom := true, ident := none, next := 0, quarter := 0, block := [], missing := false, man := [], hashes := [],
    verdict := 0, unver := false, meas := [], version := 0, entry := 0, rootLock := false }

end Sys2Proof.Machine
end

