-- ==== Sys2Proof/Machine/DmaSt.lean ====
section
/-! DEFINITION. The state of a DMA engine and of the two serial ports (R377 to R402). -/

namespace Sys2Proof.Machine

/-- A descriptor in progress (R379): words 0 to 6, its place in the ring, destination bytes written, the bytes read and not
yet written (the funnel of R382). -/
structure DmaCur where
  words  : List W32
  at'    : Nat
  done   : Nat
  funnel : List Byte
  /-- Source bytes read. -/
  read   : Nat
  deriving DecidableEq, Repr

/-- A DMA queue. -/
structure DmaQ where
  base     : W32
  en       : Bool
  prio     : Nat
  size     : Nat
  irqEn    : Bool
  pidx     : Nat
  cidx     : Nat
  didx     : Nat
  refused  : Bool
  overpost : Bool
  resync   : Bool
  irq      : Bool
  halted   : Bool
  cur      : Option DmaCur
  resyncs  : W32
  deriving DecidableEq, Repr

/-- A queue as after reset. -/
def dmaQ0 : DmaQ :=
  { base := 0, en := false, prio := 0, size := 0, irqEn := false, pidx := 0, cidx := 0, didx := 0, refused := false,
    overpost := false, resync := false, irq := false, halted := false, cur := none, resyncs := 0 }

/-- A DMA engine: its queues, the queue it serves and the beats that queue has had in a row (R384). -/
structure Dma where
  qs      : Tbl DmaQ
  serving : Nat
  row     : Nat
  deriving DecidableEq, Repr

/-- An engine as after reset. -/
def dma0 : Dma := { qs := [], serving := 0, row := 0 }

/-- Queue `n` of an engine. -/
def dmaQ (e : Dma) (n : Nat) : DmaQ := tget dmaQ0 e.qs n

/-- The engine with queue `n` replaced. -/
def dmaSetQ (e : Dma) (n : Nat) (q : DmaQ) : Dma := { e with qs := tput dmaQ0 e.qs n q }

/-- A frame of a master port (an output): its select, FORMAT word, command, address, mode byte and the data sent. -/
structure SppFrame where
  cs     : Nat
  format : W32
  cmd    : Nat
  addr   : W32
  mode   : Nat
  data   : List Byte
  deriving DecidableEq, Repr

/-- A master port of the SPP block. -/
structure Spp where
  ctl     : W32
  tim     : W32
  refused : Bool
  mmFault : Bool
  stopped : Bool
  waitSel : Bool
  modeOn  : Bool
  active  : Bool
  /-- The select that a KEEP entry holds asserted. -/
  keep    : Option Nat
  frames  : List SppFrame
  deriving DecidableEq, Repr

/-- A port as after reset. -/
def spp0 : Spp :=
  { ctl := 0x143F0000, tim := 0x00001000, refused := false, mmFault := false, stopped := false, waitSel := false,
    modeOn := false, active := false, keep := none, frames := [] }

/-- What a slave transaction is doing (R397): nothing yet, a register or an exchange access. -/
inductive SlaveOp where
  | idle
  | regRead | regWrite | exRead | exWrite
  deriving DecidableEq, Repr

/-- Both ports, execute-in-place on SPP0 and the slave of SPP1. -/
structure SppBlk where
  p0      : Spp
  p1      : Spp
  xipCfg  : W32
  xipMode : W32
  /-- The prefetch buffer (R394): line numbers with their bytes, the most recently used first; the line of the last miss. -/
  lines   : List (Nat × List Byte)
  lastMiss : Option Nat
  /-- Host-core reads of the execution window: the byte returned, none for a bus error (an output). -/
  xipOut  : List (Option Byte)
  /-- Slave registers (R401): flags READY to BUSY_SEEN in bits 0 to 5 of SSTAT, then the others. -/
  sstat   : Nat
  uaddr   : Nat
  dbIn    : W32
  dbOut   : W32
  reqP    : Nat
  reqC    : Nat
  rspP    : Nat
  rspC    : Nat
  op      : SlaveOp
  /-- SSTAT[7:0] as the status byte of the last read gave it (R397). -/
  stByte  : W32
  /-- The words that the master received in this transaction. -/
  sent    : List W32
  busy    : Bool
  ecoll   : Nat
  aborts  : Nat
  /-- Responses blocked by a full response ring, oldest first (R402). -/
  rspWait : List LegMsg
  deriving DecidableEq, Repr

/-- The serial ports as after reset. -/
def sppBlk0 : SppBlk :=
  { p0 := spp0, p1 := spp0, xipCfg := 0, xipMode := 0, lines := [], lastMiss := none, xipOut := [], sstat := 0, uaddr := 0,
    dbIn := 0, dbOut := 0, reqP := 0, reqC := 0, rspP := 0, rspC := 0, op := .idle, stByte := 0, sent := [], busy := true, ecoll := 0,
    aborts := 0, rspWait := [] }

/-- Integrity of one die's memories (R403 to R421). -/
structure Integ where
  /-- ROW_THRESH, MODE, BANK. -/
  ctrl     : W32
  progress : Nat
  refused  : Bool
  fail     : Bool
  /-- The marches under way, one of a bank: bank number of MEM_CTRL, destructive. -/
  march    : List (Nat × Bool)
  /-- 0 idle, 1 running, 2 passed, 3 failed, 4 refused (R423). -/
  result   : Nat
  /-- BANK and ROW of MEM_REPAIR. -/
  repair   : W32
  /-- Rows waiting for a repair, the row being copied with its spare, rows copied and waiting for seam slot 9. -/
  cand     : List RowId
  copying  : Option (RowId × Nat)
  copied   : List (RowId × Nat)
  /-- Rows moved to a spare. -/
  remap    : List (RowId × Nat)
  /-- Spares used by resource; DRAM row spares used by DRAM bank. -/
  used     : Tbl Nat
  dramUsed : Tbl Nat
  /-- Spares that fail their check (R419): the resource, or 32 plus the DRAM bank, and the spare. -/
  badSpares : List (Nat × Nat)
  /-- Thresholds that differ from the default, plus one. -/
  thresh   : Tbl Nat
  low      : Nat
  out      : Nat
  deriving DecidableEq, Repr

/-- Integrity as after power-on. -/
def integ0 : Integ :=
  { ctrl := 0x00040000, progress := 0, refused := false, fail := false, march := [], result := 0, repair := 0, cand := [],
    copying := none, copied := [], remap := [], used := [], dramUsed := [], badSpares := [], thresh := [], low := 0, out := 0 }

end Sys2Proof.Machine
end

