-- ==== Sys2Proof/Machine/State.lean ====
section
/-! DEFINITION. The whole state of the block: what each die holds, and the queue of waiting commands; the state after reset. -/

namespace Sys2Proof.Machine

/-- What either die holds of its own (R9, R33, R345, R377, R403, R446). -/
structure Common where
  /-- The die's supplies are up (R431, R432); its power-on reset is held (R434). -/
  supply   : Bool
  por      : Bool
  pwrStat  : W32
  rstCause : W32
  weir     : Weir
  dma      : Dma
  integ    : Integ
  fuses    : Fuses
  /-- TEST_CTRL: UNLOCKED, LOCK, OPEN. -/
  testCtrl : W32
  /-- TEMP, TMAX, HOT of TSENS. -/
  temp     : BitVec 12
  tmax     : BitVec 12
  hot      : Bool
  /-- Draws of free values made so far: the model's own field (log entry 4). -/
  free     : Nat
  /-- EVENTs raised on the die, newest first: the code and the data (R18). -/
  events   : List (List W32)
  /-- Fault records raised on the die, newest first: code and data (R375). -/
  faults   : List (Nat × List W32)
  /-- The value that the last READ_SNAPSHOT returned (R8). -/
  lastRead : W32
  /-- The last access of the controller ended with an error response, a load access fault where it was a read (R165, R166, R408). -/
  accErr   : Bool
  deriving DecidableEq, Repr

/-- What a die holds after its power-on reset with WEIR_CTRL at its reset value; POR is set in RST_CAUSE (R33). -/
def common0 : Common :=
  { supply := true, por := false, pwrStat := 0, rstCause := 1, weir := weir0, dma := dma0, integ := integ0, fuses := fuses0,
    testCtrl := 0, temp := 0, tmax := 0x800, hot := false, free := 0, events := [], faults := [], lastRead := 0, accErr := false }

/-- The host die. -/
structure HostDie where
  com   : Common
  cw    : Cw
  dt    : Datum
  leg   : Legend
  boot  : Boot
  spp   : SppBlk
  h0    : Bank
  h1    : Bank
  h2    : Bank
  h3    : Bank
  n     : Bank
  e     : Bank
  /-- TSENS_FAR. -/
  far   : W32
  /-- A STATUS has come since the last sample of the host sensor. -/
  farFresh : Bool
  /-- Ethernet payloads of P frames delivered to the host network interface, newest first (an output). -/
  ethIn : List (List Byte)
  /-- Ticks emitted on the tick lane, newest first, each with its instant in 2^-16 ns (an output, R283). -/
  ticks : List (Nat × Int)
  /-- The platform timer of the cores and their run state are firmware's: only whether the cores run is kept. -/
  coresRun : Bool
  deriving DecidableEq, Repr

/-- The host die after its power-on reset with the HEAD strap `head`. -/
def hostDie0 (head : Bool) : HostDie :=
  { com := common0, cw := cw0 head, dt := datum0, leg := legend0, boot := boot0, spp := sppBlk0, h0 := bank0, h1 := bank0,
    h2 := bank0, h3 := bank0, n := bank0, e := bank0, far := 0, farFresh := false, ethIn := [], ticks := [], coresRun := true }

/-- The field die. -/
structure FieldDie where
  com    : Common
  mer    : Mer
  io     : IoFrames
  bk     : Banks
  cg     : Cg
  eng    : Eng
  silt   : Silt
  aud    : Audio
  sns    : Sense
  pil    : Pilot
  fb     : FieldBoot
  /-- The engine reset (R35): requested for the end of the running pass; held. -/
  erReq  : Bool
  erHeld : Bool
  /-- RETIRED and AMBIG of MAC_STAT; counters MISMATCH, AMBIG (R418, R423); PCNT of the last mismatch. -/
  retired : Nat
  ambig  : Bool
  macCnt : Ctrs
  macPc  : W32
  /-- Passes of a mute made so far, 0 to 64; muting, or fading in (R338). -/
  mute   : Nat
  muting : Bool
  /-- The bridge's duplicate store (R327). -/
  dups   : List FieldDup
  /-- LC_HOST as the host reported it in force (R341). -/
  lcHost : Nat
  /-- The challenge of the last token judged on this die (R344). -/
  chalUsed : List Byte
  deriving DecidableEq, Repr

/-- The field die after its power-on reset. -/
def fieldDie0 : FieldDie :=
  { com := common0, mer := mer0, io := ioFrames0, bk := banks0, cg := cg0, eng := eng0, silt := silt0, aud := audio0,
    sns := sense0, pil := pilot0, fb := fieldBoot0, erReq := false, erHeld := false, retired := 0, ambig := false,
    macCnt := ctrs0, macPc := 0, mute := 0, muting := false, dups := [], lcHost := 0, chalUsed := [] }

/-- Both dies: all that a command acts on. -/
structure Dies where
  host  : HostDie
  field : FieldDie
  deriving DecidableEq, Repr

/-- The block: both dies, and the commands that wait, the next one first. -/
structure State where
  dies    : Dies
  pending : List Instr
  deriving DecidableEq, Repr

/-- Right after both power-on resets have released with HEAD low and every strap 0 (log entry 1). -/
def State.reset : State := { dies := { host := hostDie0 false, field := fieldDie0 }, pending := [] }

/-- Faults. None is raised: every row has an effect of the manual's in every state, and the block's errors are flags and
counters of its own. `noDevice` is kept for the host's form of an outcome; no command answers it. -/
inductive Fault where
  /-- Raised by no command. Safe. -/
  | noDevice
  deriving DecidableEq, Repr

/-- Refusals. -/
inductive Refusal where
  /-- A command whose meaning is not written, named by its row. Safe: the run stops. -/
  | notModelled (mnemonic : String)
  deriving DecidableEq, Repr

end Sys2Proof.Machine
end

