-- ==== Sys2Proof/Machine/Ops.lean ====
section
/-! DEFINITION. The operations every family shares: which side runs, events and fault records, free values, the Weir queue,
SRAM banks with their code. -/

namespace Sys2Proof.Machine

/-- A side runs (R13, R431 to R434): its supplies are up and its power-on reset is released. -/
def Common.runs (c : Common) : Bool := c.supply && !c.por

/-- A host command: nothing happens while the host side does not run (log entry 10). -/
def onHost (f : HostDie → HostDie) (d : Dies) : Dies := if d.host.com.runs then { d with host := f d.host } else d

/-- A field command: nothing happens while the field side does not run. -/
def onField (f : FieldDie → FieldDie) (d : Dies) : Dies := if d.field.com.runs then { d with field := f d.field } else d

/-- The answer of a command that changes the dies: a next state, the queue as it stands. -/
def ans (s : State) (f : Dies → Dies) : Host.Outcome State Fault Refusal := .next { s with dies := f s.dies }

/-- The answer of a host command. -/
def hostCmd (f : HostDie → HostDie) (s : State) : Host.Outcome State Fault Refusal := ans s (onHost f)

/-- The answer of a field command. -/
def fieldCmd (f : FieldDie → FieldDie) (s : State) : Host.Outcome State Fault Refusal := ans s (onField f)

/-- A change of the common part of one die. -/
def onCom (d : Side) (f : Common → Common) (ds : Dies) : Dies :=
  match d with
  | .host => onHost (fun h => { h with com := f h.com }) ds
  | .field => onField (fun g => { g with com := f g.com }) ds

/-- The common part of one die. -/
def comOf (d : Side) (ds : Dies) : Common :=
  match d with
  | .host => ds.host.com
  | .field => ds.field.com

/-- The other side of the barrier. -/
def Side.other : Side → Side
  | .host => .field
  | .field => .host

/-- A free value for purpose `k` (log entry 4): the value drawn, and the count moved on. -/
def draw (c : Common) (k : Nat) : Common × W32 := ({ c with free := c.free + 1 }, Config.freeWord c.free k)

/-- Event kinds of the model; the code words that stand for them are open (log entry 9). -/
inductive EvKind where
  | coast | coastEnd | realignWait | realign | numConflict | isaFault | famMismatch | sapLost | sapRate | rsmp | oscLock
  | stuck | supplyLow | uncorr | reserveLow | reserveOut | macMismatch | hot | laneFailed | degraded | tickLost
  | speedMismatch | loop | leadShort | mapOutside | headConflict | timeStep | classChange | standbyDiff | watch | silt
  | jumped | resync | pdac | evt | tickLock | tickRate | userEvt
  deriving DecidableEq, Repr

/-- The number of an event kind. -/
def evNo : EvKind → Nat
  | .coast => 0 | .coastEnd => 1 | .realignWait => 2 | .realign => 3 | .numConflict => 4 | .isaFault => 5
  | .famMismatch => 6 | .sapLost => 7 | .sapRate => 8 | .rsmp => 9 | .oscLock => 10 | .stuck => 11 | .supplyLow => 12
  | .uncorr => 13 | .reserveLow => 14 | .reserveOut => 15 | .macMismatch => 16 | .hot => 17 | .laneFailed => 18
  | .degraded => 19 | .tickLost => 20 | .speedMismatch => 21 | .loop => 22 | .leadShort => 23 | .mapOutside => 24
  | .headConflict => 25 | .timeStep => 26 | .classChange => 27 | .standbyDiff => 28 | .watch => 29 | .silt => 30
  | .jumped => 31 | .resync => 32 | .pdac => 33 | .evt => 34 | .tickLock => 35 | .tickRate => 36 | .userEvt => 37

/-- The words of an EVENT (R18): the code, then the data. -/
def evWords (k : EvKind) (data : List W32) : List W32 := Config.eventCode (evNo k) :: data

/-- A message put at the end of a die's Weir queue. -/
def weirQueue (c : Common) (m : WMsg) : Common := { c with weir := wQueue c.weir m }

/-- An EVENT raised on the field side: recorded, and sent to the host side as a message of type 7 (R18). -/
def fieldEvent (f : FieldDie) (k : EvKind) (data : List W32) : FieldDie :=
  let ws := evWords k data
  { f with com := weirQueue { f.com with events := ws :: f.com.events } ⟨7, 0, 0, ws⟩ }

/-- A fault record of the field side. -/
def fieldFault (f : FieldDie) (code : Nat) (data : List W32) : FieldDie :=
  { f with com := { f.com with faults := (code, data) :: f.com.faults } }

/-- A fault-log record of the host side (R375): SEQ one above the newest; a ring of 32,768 records that is full loses its oldest sector. -/
def hostFault (h : HostDie) (code : Nat) (data : List W32) : HostDie :=
  { h with boot := { h.boot with
      log := ⟨h.boot.logSeq + 1, h.dt.time, code, data⟩ :: (if h.boot.log.length < 32768 then h.boot.log else h.boot.log.take 32640), logSeq := (h.boot.logSeq + 1) % 2 ^ 32 } }

/-- The byte layout of a bank's codewords (R403): consecutive bytes, or word pairs of one half. -/
inductive CwLayout where
  | bytes | halves
  deriving DecidableEq, Repr

/-- The number of the codeword that holds byte `a` (R403): 2k + h stands for codeword k of half h. -/
def cwOf : CwLayout → Nat → Nat
  | .bytes, a => a / 8
  | .halves, a => 2 * (a / 4 / 4) + a / 4 % 2

/-- The bytes of a codeword. -/
def cwBytes : CwLayout → Nat → List Nat
  | .bytes, c => (List.range 8).map (fun i => 8 * c + i)
  | .halves, c =>
    let w := 4 * (c / 2) + c % 2
    (List.range 4).map (fun i => 4 * w + i) ++ (List.range 4).map (fun i => 4 * (w + 2) + i)

/-- The layout of a bank. -/
def layoutOf : BankId → CwLayout
  | .h0 | .h1 | .h2 | .h3 | .n | .e | .f => .bytes
  | .p0 | .p1 | .x | .y | .z => .halves

/-- The size of a bank in bytes (R138, R377). -/
def bankSize : BankId → Nat
  | .h0 | .h1 | .h2 | .h3 => 0x80000
  | .n => 0x100000
  | .e => 0x10000
  | .f | .p0 | .p1 => 0x40000
  | .x | .y => 0x80000
  | .z => 0x100000

/-- Rows of a bank: 16 codewords each (R404). -/
def bankRows (b : BankId) : Nat := bankSize b / 128

/-- The row of a codeword (R404; the numbering of the halves' rows is log entry 13). -/
def rowOf (b : BankId) (c : Nat) : Nat :=
  match layoutOf b with
  | .bytes => c / 16
  | .halves => c / 2 / 16 + c % 2 * (bankRows b / 2)

/-- The codewords of a row. -/
def rowCws (b : BankId) (r : Nat) : List Nat :=
  match layoutOf b with
  | .bytes => (List.range 16).map (fun i => 16 * r + i)
  | .halves =>
    let half := r / (bankRows b / 2)
    (List.range 16).map (fun i => 2 * (16 * (r % (bankRows b / 2)) + i) + half)

/-- The bank number of Legend 9200h (R423). -/
def bankNo : BankId → Nat
  | .h0 => 1 | .h1 => 2 | .h2 => 3 | .h3 => 4 | .n => 5 | .e => 6
  | .p0 => 7 | .p1 => 8 | .x => 9 | .y => 10 | .z => 11 | .f => 12

/-- The resource number of a bank's rows in the reserve ledger (R423); 0 for N and E, which have no spare rows. -/
def resOf : BankId → Nat
  | .x => 1 | .y => 2 | .z => 3 | .p0 => 4 | .p1 => 5 | .f => 6
  | .h0 => 7 | .h1 => 8 | .h2 => 9 | .h3 => 10
  | .n => 0 | .e => 0

/-- The spares of a resource in total (R414). -/
def sparesOf (r : Nat) : Nat :=
  if r = 1 ∨ r = 2 then 32 else if r = 3 then 64 else if 4 ≤ r ∧ r ≤ 10 then 16 else if r = 11 then 128
  else if r = 12 ∨ r = 13 ∨ r = 14 then 1 else if r = 15 ∨ r = 16 then 4 else 0

/-- ROW_THRESH of MEM_CTRL. -/
def rowThresh (i : Integ) : Nat := fld i.ctrl 23 16

/-- A row made a repair candidate (R415), once. -/
def addCand (i : Integ) (r : RowId) : Integ :=
  if r.res = 0 ∨ r ∈ i.cand ∨ i.copying.map (·.1) = some r ∨ r ∈ i.copied.map (·.1) then i else { i with cand := i.cand ++ [r] }

/-- A read meets codeword `c` of a bank (R404, R405, R408, R415): the code corrects one bit, counts it and queues the write-back;
an uncorrectable codeword is counted and makes its row a candidate. The number is 0 clean, 1 corrected, 2 uncorrectable. -/
def eccMeet (id : BankId) (i : Integ) (b : Bank) (c : Nat) : Integ × Bank × Nat :=
  match tget 0 b.err c with
  | 0 => (i, b, 0)
  | 1 =>
    let n := tget 0 b.rowErr (rowOf id c) + 1
    let b := { b with cnt := ctrAdd b.cnt 0 1, last := w32 ((cwBytes (layoutOf id) c).headD 0), wb := if b.wb.contains c then b.wb else b.wb ++ [c],
                      rowErr := tput 0 b.rowErr (rowOf id c) n }
    (if rowThresh i ≠ 0 ∧ rowThresh i ≤ n then addCand i ⟨resOf id, rowOf id c⟩ else i, b, 1)
  | _ =>
    (addCand i ⟨resOf id, rowOf id c⟩,
     { b with cnt := ctrAdd b.cnt 1 1, last := w32 ((cwBytes (layoutOf id) c).headD 0) }, 2)

/-- The distinct codewords of the bytes from `a` on. -/
def cwsOf (lay : CwLayout) (a n : Nat) : List Nat := ((List.range n).map (fun i => cwOf lay (a + i))).eraseDups

/-- A read of `n` bytes meets the codewords that hold them: the uncorrectable ones are listed. -/
def eccRead (id : BankId) (i : Integ) (b : Bank) (a n : Nat) : Integ × Bank × List Nat :=
  (cwsOf (layoutOf id) a n).foldl (fun (p : Integ × Bank × List Nat) c =>
    let q := eccMeet id p.1 p.2.1 c
    (q.1, q.2.1, if q.2.2 = 2 then p.2.2 ++ [c] else p.2.2)) (i, b, [])

/-- Bytes written to a bank (R403, R405, R409): a codeword written whole loses its error; a part of an uncorrectable codeword
zeroes its other bytes and counts ZEROED; a pending write-back of a codeword written is dropped. -/
def bankWrite (id : BankId) (b : Bank) (a : Nat) (v : List Byte) : Bank :=
  let b := (cwsOf (layoutOf id) a v.length).foldl (fun (b : Bank) c =>
    let st := tget 0 b.err c
    if st = 0 then b
    else
      let bs := cwBytes (layoutOf id) c
      let whole := bs.all (fun k => a ≤ k && k < a + v.length)
      let b := { b with err := tput 0 b.err c 0, wb := b.wb.filter (· ≠ c) }
      if st = 1 ∨ whole then b
      else { b with mem := bs.foldl (fun m k => wr8 m k 0) b.mem, cnt := ctrAdd b.cnt 2 1 }) b
  { b with mem := wrBytes b.mem a v }

/-- The bytes of a bank from an address on. -/
def bankBytes (b : Bank) (a n : Nat) : List Byte := (List.range n).map (fun i => rd8 b.mem (a + i))

/-- A bank of the host die. -/
def hostBank (h : HostDie) : BankId → Bank
  | .h0 => h.h0
  | .h1 => h.h1
  | .h2 => h.h2
  | .h3 => h.h3
  | .n => h.n
  | .e => h.e
  | _ => bank0

/-- The host die with one of its banks replaced. -/
def hostSetBank (h : HostDie) (id : BankId) (b : Bank) : HostDie :=
  match id with
  | .h0 => { h with h0 := b }
  | .h1 => { h with h1 := b }
  | .h2 => { h with h2 := b }
  | .h3 => { h with h3 := b }
  | .n => { h with n := b }
  | .e => { h with e := b }
  | _ => h

/-- A bank of the field die. -/
def fieldBank (f : FieldDie) : BankId → Bank
  | .f => f.bk.f
  | .p0 => f.bk.p0
  | .p1 => f.bk.p1
  | .x => f.bk.x
  | .y => f.bk.y
  | .z => f.bk.z
  | _ => bank0

/-- The field die with one of its banks replaced. -/
def fieldSetBank (f : FieldDie) (id : BankId) (b : Bank) : FieldDie :=
  match id with
  | .f => { f with bk := { f.bk with f := b } }
  | .p0 => { f with bk := { f.bk with p0 := b } }
  | .p1 => { f with bk := { f.bk with p1 := b } }
  | .x => { f with bk := { f.bk with x := b } }
  | .y => { f with bk := { f.bk with y := b } }
  | .z => { f with bk := { f.bk with z := b } }
  | _ => f

/-- The event and the fault record of an uncorrectable codeword (R408): the bank and the address. -/
def uncorrData (id : BankId) (c : Nat) : List W32 := [w32 (bankNo id), w32 ((cwBytes (layoutOf id) c).headD 0)]

/-- A read of field-bank bytes: the bytes, none where a codeword of theirs is uncorrectable. -/
def fieldReadBank (f : FieldDie) (id : BankId) (a n : Nat) : FieldDie × Option (List Byte) :=
  let r := eccRead id f.com.integ (fieldBank f id) a n
  let g := fieldSetBank { f with com := { f.com with integ := r.1 } } id r.2.1
  let g := r.2.2.foldl (fun g c => fieldFault (fieldEvent g .uncorr (uncorrData id c)) 0x103 (uncorrData id c)) g
  (g, if r.2.2 = [] then some (bankBytes (fieldBank f id) a n) else none)

/-- A write of field-bank bytes. -/
def fieldWriteBank (f : FieldDie) (id : BankId) (a : Nat) (v : List Byte) : FieldDie :=
  fieldSetBank f id (bankWrite id (fieldBank f id) a v)

/-- A register word of a byte list, little-endian. -/
def wordsOfBytes : List Byte → List W32
  | a :: b :: c :: d :: t => w32 (ofBytesLE [a, b, c, d]) :: wordsOfBytes t
  | [] => []
  | l => [w32 (ofBytesLE l)]

/-- A list padded with zero bytes, or cut, to `n` bytes. -/
def fixLen (n : Nat) (l : List Byte) : List Byte := (l ++ List.replicate (n - l.length) 0).take n

/-- Bytes `lo` to `lo + n - 1` of a list. -/
def slice (l : List Byte) (lo n : Nat) : List Byte := (l.drop lo).take n

end Sys2Proof.Machine
end

