-- ==== Sys2Proof/Machine/Causeway.lean ====
section
/-! DEFINITION. Causeway (R243 to R277): the ports, frames, enumeration, stream and return frames, tokens, credits. -/

namespace Sys2Proof.Machine

/-- Samples per second of a rate code (R43). -/
def rateHz (r : Nat) : Nat :=
  if r = 0 then 44100 else if r = 1 then 48000 else if r = 2 then 88200 else if r = 3 then 96000
  else if r = 4 then 176400 else 192000

/-- The rate code that the host side works with: that of the anchor (R281, R298). -/
def hRate (h : HostDie) : Nat := h.dt.anchorR

/-- Passes of one stream period (R260). -/
def hPeriod (h : HostDie) : Nat := framesPer (hRate h)

/-- The rate code of pass `p` as the host side knows it: that of the anchor, but for a change still to come or just made (R277, R298). -/
def hRateAt (h : HostDie) (p : Nat) : Nat :=
  let past := match h.dt.rateOld with
    | some (n, code) => if p ≤ n then code else h.dt.anchorR
    | none => h.dt.anchorR
  match h.dt.ratePend with
  | some (n, code) => if n < p then code else past
  | none => past

/-- The pass number nearest the last tick whose low 32 bits are a SEQ. -/
def seqPass (h : HostDie) (seq : Nat) : Nat := nearest h.dt.tick seq

/-- Passes of the stream period that begins with SEQ `seq`. -/
def periodAt (h : HostDie) (seq : Nat) : Nat := framesPer (hRateAt h (seqPass h seq))

/-- The first pass of a stream period at or after `m` (R260): even where a period covers two passes. -/
def periodFrom (h : HostDie) (m : Nat) : Nat := if periodAt h m = 2 then (m + m % 2) % 2 ^ 32 else m % 2 ^ 32

/-- The SEQ of the stream period after that of `seq` (R260, R277): SEQ carries on with pass numbers through a change of rate. -/
def nextSeq (h : HostDie) (seq : Nat) : Nat := periodFrom h ((seq + periodAt h seq) % 2 ^ 32)

/-- NSLOT of CW_STREAM. -/
def nSlot (c : Cw) : Nat := fld c.stream 9 0

/-- LOOP of CW_STREAM. -/
def cwLoop (c : Cw) : Nat := fld c.stream 19 16

/-- The slot count of a frame (R267): at the rate now, and of the frame with SEQ `seq`. -/
def slotCount (h : HostDie) : Nat := nSlot h.cw / hPeriod h
def slotsAt (h : HostDie) (seq : Nat) : Nat := nSlot h.cw / periodAt h seq

/-- The Legend and register code of the node's own address in the tables: 1 self, 2 CA, 3 CB, 4 CC. -/
def toPort (x : Nat) : Nat := x + 2

/-- CW_CTRL EN and the port's EN (R41). -/
def portEn (c : Cw) (x : Nat) : Bool := bit c.ctrl 0 && bit (cwPort c x).pctl 2

/-- CC in PLAIN mode (R251). -/
def isPlain (c : Cw) (x : Nat) : Bool := decide (x = 2) && bit (cwPort c x).pctl 5

/-- A port whose link is up and that carries Causeway frames. -/
def portUp (c : Cw) (x : Nat) : Bool := (cwPort c x).link && !isPlain c x

/-- The ports in one role with their link up. -/
def portsIn (c : Cw) (role : Nat) : List Nat := (List.range 3).filter (fun x => portUp c x && decide ((cwPort c x).role = role))

/-- The upstream port, where its link is up. -/
def upPort (c : Cw) : Option Nat := (portsIn c 0).head?

/-- A change of one port. -/
def modPort (h : HostDie) (x : Nat) (f : CwPort → CwPort) : HostDie := { h with cw := cwSetPort h.cw x (f (cwPort h.cw x)) }

/-- One event on counter `i` of port `x`: 0 HCRC, 1 FCS, 2 FOREIGN, 3 DROP, 4 PREEMPT, 5 REASM, 6 CLOST, 7 CRESYNC. -/
def portCount (h : HostDie) (x i n : Nat) : HostDie := modPort h x (fun p => { p with cnt := ctrAdd p.cnt i n })

/-- One event on node counter `i`: 0 SMISS, 1 SLATE, 2 UFILL, 3 UMISS, 4 TCLASH, 5 TRESYNC, 6 SWITCH, 7 HEADFILL. -/
def nodeCount (h : HostDie) (i n : Nat) : HostDie := { h with cw := { h.cw with cnt := ctrAdd h.cw.cnt i n } }

/-- One bit of the CRC-16 of R248. -/
def crc16Bit (c : Nat) : Nat := if c.testBit 15 then (c * 2 % 65536) ^^^ 0x1021 else c * 2

/-- One byte of the CRC-16 of R248. -/
def crc16Byte (c : Nat) (b : Byte) : Nat :=
  crc16Bit (crc16Bit (crc16Bit (crc16Bit (crc16Bit (crc16Bit (crc16Bit (crc16Bit (c ^^^ (b.toNat * 256)))))))))

/-- HCRC of header bytes 0 to 13 (R248). -/
def hcrc (bs : List Byte) : Nat := bs.foldl crc16Byte 0xFFFF

/-- The big-endian value of `n` bytes of a list from byte `i`. -/
def beAt (bs : List Byte) (i n : Nat) : Nat := ofBytesBE (slice bs i n)

/-- The class of a header (R248). -/
def hClass (hdr : List Byte) : Nat := beAt hdr 0 1 % 16

/-- FLAGS, SEQ, SRC, NOADDR, DMODE, DST, LEN, CREL, SYS of a header. -/
def hFlags (hdr : List Byte) : Nat := beAt hdr 1 1
def hSeq (hdr : List Byte) : Nat := beAt hdr 8 4
def hSrc (hdr : List Byte) : Nat := beAt hdr 2 2 % 4096
def hNoaddr (hdr : List Byte) : Bool := decide (32768 ≤ beAt hdr 2 2)
def hDmode (hdr : List Byte) : Nat := beAt hdr 4 2 / 16384
def hDst (hdr : List Byte) : Nat := beAt hdr 4 2 % 4096
def hLen (hdr : List Byte) : Nat := beAt hdr 6 2
def hCrel (hdr : List Byte) : Nat := beAt hdr 12 1
def hSys (hdr : List Byte) : Nat := beAt hdr 13 1

/-- The payload of a frame, LEN giving its true length (R246). -/
def cwBody (f : CwRx) : List Byte := f.payload.take (hLen f.hdr)

/-- The destination address of every Causeway frame (R246). -/
def cwMac : Nat := 0x034E41000000

/-- The address of port `x`, 3 for the host network interface (R247). -/
def myMac (h : HostDie) (x : Nat) : Nat :=
  match h.cw.macUse with
  | some base => base / 4 * 4 + x
  | none => (2 + 4 * x) * 2 ^ 40 + h.com.fuses.udn.toNat % 2 ^ 40

/-- What a port's role lets it receive (R251), by class. -/
def roleTakes (role cls : Nat) : Bool :=
  match role with
  | 0 => cls = 0 || cls = 2 || cls = 3 || cls = 4 || cls = 5 || cls = 6
  | 1 => cls = 1 || cls = 2 || cls = 3 || cls = 4 || cls = 5 || cls = 6
  | 2 => cls = 0 || cls = 2 || cls = 4 || cls = 5
  | _ => cls = 2 || cls = 5

/-- The checks of R246 and R249 on a frame of class `cls` at port `x`, in the order header, then FCS. The number says what became of
it: 0 accepted, 1 discarded, 2 an FCS error, 3 an FCS that was complemented on purpose. -/
def cwCheck (h : HostDie) (x cls : Nat) (f : CwRx) : HostDie × Nat :=
  let c := h.cw
  if portUp c x = false ∨ f.hdr.length ≠ 16 then (h, 1)
  else if f.etype = 0x8808 then (portCount h x 3 1, 1)
  else if f.dst.toNat ≠ cwMac ∨ f.etype.toNat ≠ c.etype then (portCount h x 2 1, 1)
  else if 2200 < 34 + f.payload.length then (h, 1)
  else if beAt f.hdr 14 2 ≠ hcrc (f.hdr.take 14) then (portCount h x 0 1, 1)
  else if beAt f.hdr 0 1 / 16 ≠ 1 ∨ 7 ≤ hClass f.hdr then (portCount h x 2 1, 1)
  else if hClass f.hdr ≠ cls then (h, 1)
  else if cls ≠ 5 ∧ hSys f.hdr ≠ c.sys then (portCount h x 2 1, 1)
  else if f.full ∧ (cls = 2 ∨ cls = 4 ∨ cls = 5) then (portCount h x 3 1, 1)
  else if f.fcs = 1 then (portCount h x 1 1, 2)
  else if f.fcs ≠ 0 then (h, 3)
  else if roleTakes (cwPort c x).role cls = false then (h, 1)
  else
    let crel := hCrel f.hdr
    (modPort h x (fun p => { p with peer := true, farRel := if cls = 0 then p.farRel else crel }), 0)

/-- Free transmit credits of a port (R273). -/
def cwFree (p : CwPort) : Nat := if p.link then 32 - (p.sent + 256 - p.farRel) % 256 else 0

/-- A frame of the node's own, ready to send. -/
def cwTx (cls dmode dst : Nat) (payload : List Byte) : CwTx :=
  { cls := cls, dmode := dmode, dst := dst, src := none, payload := payload, done := 0, frag := 0, plain := false, count := false }

/-- What a port's role lets it transmit (R251), by class; a PLAIN port sends P frames alone. -/
def portSends (c : Cw) (x cls : Nat) : Bool :=
  if isPlain c x then decide (cls = 6)
  else match (cwPort c x).role with
    | 0 => decide (1 ≤ cls)
    | 1 => decide (cls ≠ 1)
    | 2 => cls = 2 || cls = 4 || cls = 5
    | _ => cls = 2 || cls = 5

/-- A V frame carries at most 1,024 bytes of payload, a P frame 2,000 (R272). -/
def txFits (t : CwTx) : Bool := t.plain || !((t.cls == 3 && decide (1024 < t.payload.length)) || (t.cls == 6 && decide (2000 < t.payload.length)))

/-- A frame put at the end of the queue of port `x`, where its link is up, its role sends the class and its size is one the class carries. -/
def cwQueue (h : HostDie) (x : Nat) (t : CwTx) : HostDie :=
  if (cwPort h.cw x).link && portSends h.cw x t.cls && txFits t then modPort h x (fun p => { p with txq := p.txq ++ [t] }) else h

/-- A frame queued on each port of a list. -/
def cwQueueAll (h : HostDie) (xs : List Nat) (t : CwTx) : HostDie := xs.foldl (fun h x => cwQueue h x t) h

/-- A node forwards in every state but OFFLINE, and in OFFLINE with OVERFLOW (R256, R259). -/
def forwards (c : Cw) : Bool := decide (c.state ≠ 0) || c.overflow

/-- A frame sent on for others, by a node that forwards (R259): on each port of a list. -/
def cwRelay (h : HostDie) (xs : List Nat) (t : CwTx) : HostDie := if forwards h.cw then cwQueueAll h xs t else h

/-- A link frame of class E with its operation code, and one of class A. -/
def cwE (op : Nat) (body : List Byte) : CwTx := cwTx 5 3 0 (BitVec.ofNat 8 op :: body)
def cwA (op : Nat) (body : List Byte) : CwTx := cwTx 4 3 0 (Config.aOp op :: body)

/-- The frames of class A that carry the SENT count of their link as it is when they leave (R273): CAUDIT and CRESYNC_ACK. -/
def cwCountA (op : Nat) : CwTx := { cwA op [] with count := true }

/-- The SRC word of the node: NOADDR and its address. -/
def srcWord (c : Cw) : Nat := (if c.noaddr then 32768 else 0) + c.addr

/-- A header (R248). S frames carry 0 in bytes 2 to 5 and 12. -/
def cwHeader (cls flags src dmode dst len seq crel sys : Nat) : List Byte :=
  let z := cls = 0
  let bs := bytesBE 1 (16 + cls) ++ bytesBE 1 flags ++ bytesBE 2 (if z then 0 else src) ++
    bytesBE 2 (if z then 0 else dmode * 16384 + dst) ++ bytesBE 2 len ++ bytesBE 4 seq ++ bytesBE 1 (if z then 0 else crel) ++
    bytesBE 1 sys
  bs ++ bytesBE 2 (hcrc bs)

/-- A frame sent on port `x` (R246): recorded, with the releases it carries, padded to the Ethernet minimum. -/
def cwEmit (h : HostDie) (x cls flags src dmode dst seq : Nat) (payload : List Byte) (cut : Bool) : HostDie :=
  modPort h x (fun p =>
    { p with out := { dst := cwMac, src := myMac h x, etype := h.cw.etype, hdr := cwHeader cls flags src dmode dst payload.length seq p.rel h.cw.sys,
                      payload := payload, pad := 30 - payload.length, cut := cut } :: p.out,
             relSent := if cls = 0 then p.relSent else p.rel, sending := none })

/-- A stream frame must leave port `x` while a gap frame is still being sent (R271): that frame ends with a complemented FCS, PREEMPT
rises, and the frame or fragment waits for the next gap. -/
def cutShort (h : HostDie) (x : Nat) : HostDie :=
  match (cwPort h.cw x).sending with
  | none => h
  | some k =>
    portCount (modPort h x (fun p =>
      let back := fun (cls : Nat) => tput 0 p.seqs cls ((tget 0 p.seqs cls + 2 ^ 32 - 1) % 2 ^ 32)
      let p := { p with sending := none, relSent := k.rel, out := match p.out with | o :: os => { o with cut := true } :: os | [] => [] }
      match k.was, k.now with
      | none, _ => { p with seqs := back 4 }
      | some u, none =>
        { p with txq := u :: p.txq, seqs := back u.cls, sent := if (u.cls = 3 ∨ u.cls = 6) ∧ u.frag = 0 then (p.sent + 255) % 256 else p.sent }
      | some u, some v =>
        { p with txq := p.txq.map (fun e => if e = v then u else e), sent := if u.frag = 0 then (p.sent + 255) % 256 else p.sent })) x 4 1

/-- A frame sent on cut-through (R250). -/
def cwForward (h : HostDie) (x : Nat) (o : CwOut) : HostDie := modPort h x (fun p => { p with out := o :: p.out, sending := none })

/-- The bytes of a Legend message (R316). -/
def legBytes (m : LegMsg) : List Byte :=
  bytesBE 1 m.svc ++ bytesBE 1 m.flags ++ bytesBE 2 m.rid ++ bytesBE 2 m.rseq ++ bytesBE 1 m.role ++ bytesBE 1 m.code ++
    bytesBE 4 m.epoch.toNat ++ bytesBE 2 m.item ++ bytesBE 2 m.body.length ++ m.body

/-- The port by which a frame of the node's own leaves for a node address (R258): at the head the entry of the route table; at any other node upstream,
because a frame between two nodes that are not head passes through the head. -/
def ownPort (c : Cw) (addr : Nat) : Option Nat :=
  if c.isHead then (match tget 0 c.route addr with | k + 2 => some k | _ => none) else upPort c

/-- The port toward a node address (R258): the entry of the route table, upstream where it is none. -/
def routePort (c : Cw) (addr : Nat) : Option Nat :=
  match tget 0 c.route addr with
  | 0 => upPort c
  | 1 => none
  | k + 2 => some k

/-- The address that names the node in a RID (R311). -/
def ownAddr (c : Cw) : Nat := if c.noaddr then 0 else c.addr

/-- A message put into the response ring of the exchange bank (R402); false where the ring is full. -/
def ringPost (h : HostDie) (m : LegMsg) : HostDie × Bool :=
  if 32 ≤ (h.spp.rspP + 256 - h.spp.rspC) % 256 then (h, false)
  else
    let a := 0x8000 + 0x400 * (h.spp.rspP % 32)
    ({ h with e := bankWrite .e h.e a (legBytes m),
              spp := { h.spp with rspP := (h.spp.rspP + 1) % 256, dbOut := h.spp.dbOut ||| 1 } }, true)

/-- A message to the session of endpoint `ep` of this gateway: 0 is the exchange bank, any other a datagram. -/
def legLocal (h : HostDie) (ep : Nat) (notify : Bool) (m : LegMsg) : HostDie :=
  let done := fun (h : HostDie) => { h with leg := { h.leg with out := m :: h.leg.out } }
  if ep ≠ 0 then done h
  else
    let r := ringPost h m
    if r.2 then done r.1
    else if notify then h
    else { h with spp := { h.spp with rspWait := h.spp.rspWait ++ [m] } }

/-- A message that ends at the node: at the session that its RID names, or at the node's own firmware. -/
def legHere (h : HostDie) (notify : Bool) (m : LegMsg) : HostDie :=
  match tget none h.leg.sessions (m.rid / 4096) with
  | some s => legLocal h s.endpoint notify m
  | none => { h with leg := { h.leg with out := m :: h.leg.out } }

/-- A Legend message sent to the address of its RID (R311, R323, R324): to a session of the node's own where that is the node's address, else as a V
frame, from a node without an address too. A notification without a credit is dropped. -/
def legSend (h : HostDie) (notify : Bool) (m : LegMsg) : HostDie :=
  let done := fun (h : HostDie) => { h with leg := { h.leg with out := m :: h.leg.out } }
  if h.cw.noaddr = false ∧ m.rid % 4096 = h.cw.addr then legHere h notify m
  else
    match ownPort h.cw (m.rid % 4096) with
    | none => h
    | some x =>
      if notify && decide (cwFree (cwPort h.cw x) = 0) then h
      else done (cwQueue h x (cwTx 3 0 (m.rid % 4096) (legBytes m)))

/-- A NOTIFY of a subscription (R317, R324): its sequence advances whether or not it is dropped. -/
def notifyOut (h : HostDie) (s : Sub) (type : Nat) (data : List Byte) : HostDie :=
  let m : LegMsg :=
    { svc := 0x88, flags := 0, rid := s.rid, rseq := s.seq, role := 0xFF, code := 0, epoch := h.leg.epoch, item := 0,
      body := bytesBE 1 s.id ++ bytesBE 2 s.idx ++ bytesBE 1 s.sub ++ bytesBE 1 type ++ bytesBE 2 data.length ++ data }
  let h := match s.via with
    | .tool ep => (match tget none h.leg.sessions (s.rid / 4096) with | some _ => legLocal h ep true m | none => h)
    | .own => legHere h true m
    | .chain => legSend h true m
  { h with leg := { h.leg with subs := h.leg.subs.map (fun t => if t.id = s.id then { t with seq := (t.seq + 1) % 65536 } else t) } }

/-- The value of an EVENT as Legend 0300h gives it (R324): code, PCNT, data. -/
def eventBytes (h : HostDie) (ws : List W32) : List Byte :=
  bytesBE 2 (wAt ws 0).toNat ++ bytesBE 8 h.dt.tick ++ (ws.drop 1).flatMap (fun w => bytesBE 4 w.toNat)

/-- The words of an EVENT taken in by the host firmware (R18, R324): recorded, the last event of Legend 0300h, and one NOTIFY to each
subscriber. -/
def hostEventWords (h : HostDie) (ws : List W32) : HostDie :=
  let h := { h with com := { h.com with events := ws :: h.com.events }, leg := { h.leg with event := ws } }
  (h.leg.subs.filter (fun s => decide (s.idx = 0x300) && decide (s.sub = 1))).foldl (fun h s => notifyOut h s 0x0E (eventBytes h ws)) h

/-- An EVENT of the host die itself. -/
def hostEventRaw (h : HostDie) (k : EvKind) (data : List W32) : HostDie := hostEventWords h (evWords k data)

/-! ### Ports -/

/-- Slots of the gap room that a frame with `n` payload bytes after its Causeway header needs (R246, R271): preamble and SFD, the
frame at its 64-byte minimum, and 20 byte times. -/
def gapNeed (n : Nat) : Nat := 8 + (14 + max 46 (16 + n) + 4) + 20

/-- The frame to send next on a port (R271): the first of class T, A, E, then V, then P, but a fragmented frame goes on before
another credited one (R272). Credited frames wait for a credit and for CRESYNC. -/
def nextTx (p : CwPort) : Option CwTx :=
  let first := fun (k : Nat) => p.txq.find? (fun t => decide (t.cls = k) && !t.plain)
  let credit := decide (0 < cwFree p) && !p.stopped
  match first 2, first 4, first 5, p.txq.find? (fun t => decide (t.done ≠ 0)), first 3, first 6 with
  | some t, _, _, _, _, _ => some t
  | none, some t, _, _, _, _ => some t
  | none, none, some t, _, _, _ => some t
  | none, none, none, some t, _, _ => some t
  | none, none, none, none, some t, _ => if credit then some t else none
  | none, none, none, none, none, some t => if credit then some t else none
  | none, none, none, none, none, none => none

/-- A queue without the first entry equal to `t`, or with it replaced. -/
def txqPut (q : List CwTx) (t : CwTx) (r : Option CwTx) : List CwTx :=
  match q with
  | [] => []
  | u :: us => if u = t then (match r with | some v => v :: us | none => us) else u :: txqPut us t r

/-- Datum timestamps on the wire (R280, R285): 48-bit seconds, 32-bit nanoseconds, 16-bit fraction, big-endian. -/
def timeBytes (t : Nat) : List Byte :=
  bytesBE 6 (t / 65536 / 1000000000) ++ bytesBE 4 (t / 65536 % 1000000000) ++ bytesBE 2 (t % 65536)

/-- The timestamp of 12 bytes, in units of 2^-16 ns. -/
def timeOf (bs : List Byte) : Nat := (beAt bs 0 6 * 1000000000 + beAt bs 6 4) * 65536 + beAt bs 10 2

/-- Departure instant `t` put into a T_RESP as it leaves (R285): t3 moved to its ball by TX_CAL. -/
def stampT3 (h : HostDie) (x t : Nat) (payload : List Byte) : List Byte :=
  if payload.head? = some 2 then
    payload.take 15 ++ timeBytes (t + tget 0 h.com.fuses.txCal x * 65536 / 1000) ++ payload.drop 27
  else payload

/-- One more frame of a class sent on a port (R248). -/
def seqBump (h : HostDie) (x cls : Nat) : HostDie :=
  modPort h x (fun p => { p with seqs := tput 0 p.seqs cls ((tget 0 p.seqs cls + 1) % 2 ^ 32) })

/-- The CRESYNC_ACK that waits is queued as the next gap frame starts: what was on the wire has ended then. It goes on waiting for the last fragment of a
credited frame (R25 step 2, R273). -/
def ackRelease (h : HostDie) (x : Nat) : HostDie :=
  let p := cwPort h.cw x
  if p.ackDue && !p.txq.any (fun t => decide (t.done ≠ 0)) then cwQueue (modPort h x (fun p => { p with ackDue := false })) x (cwCountA 4) else h

/-- The payload of a frame as it leaves port `x` at `t`: a T_RESP takes its departure instant, an audit the SENT count. -/
def leaving (h : HostDie) (x t : Nat) (u : CwTx) : List Byte :=
  if u.cls = 2 then stampT3 h x t u.payload else if u.count then u.payload ++ bytesBE 1 (cwPort h.cw x).sent else u.payload

/-- GAP_FRAME_SEND (R271 to R273): with `room` byte times to the next stream frame, the next ready frame or a fragment of it leaves at
`t`; with none ready and releases to report, a CREL_ONLY. -/
def gapSend (h : HostDie) (x room t : Nat) : HostDie :=
  let h := ackRelease h x
  let p := cwPort h.cw x
  if p.link = false then h
  else if isPlain h.cw x then
    match p.txq with
    | [] => h
    | u :: us =>
      modPort h x (fun p => { p with txq := us, out := { dst := beAt u.payload 0 6, src := beAt u.payload 6 6, etype := beAt u.payload 12 2, hdr := [],
                                                         payload := u.payload.drop 14, pad := 60 - u.payload.length, cut := false } :: p.out })
  else
    let went := fun (h : HostDie) (was now : Option CwTx) => modPort h x (fun q => { q with sending := some ⟨was, now, p.relSent⟩ })
    match nextTx { p with txq := p.txq.filter (fun u => portSends h.cw x u.cls) } with
    | none =>
      if p.rel ≠ p.relSent ∧ gapNeed 0 ≤ room ∧ portSends h.cw x 4 then
        went (seqBump (cwEmit h x 4 0 (srcWord h.cw) 3 0 (tget 0 p.seqs 4) [] false) x 4) none none
      else h
    | some u =>
      let seq := tget 0 p.seqs u.cls
      let src := u.src.getD (srcWord h.cw)
      let left := u.payload.length - u.done
      if u.cls ≠ 3 ∧ u.cls ≠ 6 then
        if gapNeed left ≤ room then
          let h := if u.cls = 2 then { h with dt := { h.dt with time := t } } else h
          went (seqBump (cwEmit (modPort h x (fun p => { p with txq := txqPut p.txq u none })) x u.cls 0 src u.dmode u.dst seq
            (leaving h x t u) false) x u.cls) (some u) none
        else h
      else
        let charge := fun (h : HostDie) => if u.frag = 0 then modPort h x (fun p => { p with sent := (p.sent + 1) % 256 }) else h
        if gapNeed left ≤ room then
          went (seqBump (charge (cwEmit (modPort h x (fun p => { p with txq := txqPut p.txq u none })) x u.cls
            (32 + (if u.frag = 0 then 64 else 0) + u.frag % 16) src u.dmode u.dst seq (u.payload.drop u.done) false)) x u.cls) (some u) none
        else if gapNeed 64 ≤ room then
          let n := room - gapNeed 0 + (46 - 16)
          let n := if n < 64 then 64 else n
          let v : CwTx := { u with done := u.done + n, frag := u.frag + 1 }
          went (charge (cwEmit (modPort h x (fun p => { p with txq := txqPut p.txq u (some v) })) x
            u.cls ((if u.frag = 0 then 64 else 0) + u.frag % 16) src u.dmode u.dst seq (slice u.payload u.done n) false)) (some u) (some v)
        else h

/-- The system speed at the head: that of its first link (the manual names the speed and not its origin, log entry 47); NSLOT is at most
256 at 1000BASE-X (R260). -/
def headSpeed (h : HostDie) (s1000 : Bool) : HostDie :=
  { h with cw := { h.cw with sys1000 := s1000, stream := if s1000 ∧ 256 < nSlot h.cw then setFld h.cw.stream 9 0 256 else h.cw.stream } }

/-- PORT_LINK_UP (R243, R244, R251, R273, R275, R286): after a switchover a former upstream port stays downstream. -/
def linkUp (h : HostDie) (x : Nat) (speed1000 anDone remFault : Bool) : HostDie :=
  let p := cwPort h.cw x
  let sel := fld p.pctl 1 0
  if portEn h.cw x = false ∨ p.link ∨ (sel = 0 ∧ speed1000) ∨ (sel = 1 ∧ speed1000 = false) ∨ (bit p.pctl 4 ∧ anDone = false) then h
  else
    let h := if h.cw.isHead ∧ isPlain h.cw x = false ∧ (List.range 3).all (fun y => !portUp h.cw y) then headSpeed h speed1000 else h
    let wrong := h.cw.discSeen && (speed1000 != h.cw.sys1000) && !isPlain h.cw x
    let h := modPort h x (fun p =>
      { p with link := true, speed1000 := speed1000, anDone := anDone, remFault := remFault, peer := false,
               role := if wrong then 3 else if h.cw.onStandby then (if p.role = 0 then 0 else 1)
                 else if x = 0 then 0 else if fld h.cw.ctrl 5 4 = x then 2 else 1,
               sent := 32, farRel := 0, acct := 0, rel := 0, relSent := 0, held := 0, stopped := false, syncing := false,
               reasm := none, txq := [], report := none, counted := 0, assign := none, returned := [], asked := false, sending := none,
               ackDue := false })
    let h := if isPlain h.cw x then h else cwQueue h x (cwA 5 [])
    let h := { h with dt := { h.dt with ports := tmod dtPort0 h.dt.ports x (fun q =>
      { q with calDone := false, calN := 0, calSum := 0, lost := 0, open' := false }) } }
    if wrong then hostEventRaw h .speedMismatch [w32 x] else h

/-- A link taken down (R41): credits return and nothing waits on the port any more. -/
def portDrop (h : HostDie) (x : Nat) : HostDie :=
  modPort h x (fun p => { p with link := false, anDone := false, peer := false, sent := 0, farRel := 0, acct := 0, rel := 0,
                                 relSent := 0, held := 0, stopped := false, syncing := false, reasm := none, txq := [],
                                 report := none, counted := 0, assign := none, asked := false, sending := none, ackDue := false })

/-- The addresses whose route entry names port `x`, as runs of a first address and a length. -/
def runsOf : List Nat → List (Nat × Nat)
  | [] => []
  | a :: as =>
    match runsOf as with
    | (b, n) :: t => if b = a + 1 then (a, n + 1) :: t else (a, 1) :: (b, n) :: t
    | [] => [(a, 1)]

/-- The addresses routed by a code. -/
def routedTo (c : Cw) (code : Nat) : List Nat := ((c.route.filter (fun e => decide (e.2 = code))).map (·.1))

/-- Runs on the wire: first address and length, 2 bytes each. -/
def runBytes (rs : List (Nat × Nat)) : List Byte := rs.flatMap (fun r => bytesBE 2 r.1 ++ bytesBE 2 r.2)

/-- The runs of a byte list. -/
def runsAt : List Byte → List (Nat × Nat)
  | a :: b :: c :: d :: t => (ofBytesBE [a, b], ofBytesBE [c, d]) :: runsAt t
  | _ => []

/-- The addresses of runs. -/
def runAddrs (rs : List (Nat × Nat)) : List Nat := rs.flatMap (fun r => (List.range (min r.2 4096)).map (r.1 + ·))

/-- Holdover (R297): entered at a loss of upstream time after LOCK has once been 1. -/
def enterHoldover (h : HostDie) : HostDie :=
  if h.dt.everLock ∧ h.dt.holdover = false then
    { h with dt := { h.dt with holdover := true, lock := false, lockRun := 0, hold := 0, holdFrom := h.dt.time, cnt := ctrAdd h.dt.cnt 1 1 } }
  else { h with dt := { h.dt with lock := false, lockRun := 0 } }

/-- PORT_LINK_DOWN (R257, R288): a downstream loss sends LEAVE, and the head holds the addresses; the loss of the time path
is a loss of upstream time. -/
def linkDown (h : HostDie) (x : Nat) : HostDie :=
  let p := cwPort h.cw x
  if p.link = false then h
  else
    let gone := routedTo h.cw (toPort x)
    let h := portDrop h x
    if p.role = 1 ∧ isPlain h.cw x = false ∧ gone ≠ [] then
      if h.cw.isHead then { h with cw := { h.cw with heldAddr := (h.cw.heldAddr ++ gone).eraseDups } }
      else match upPort h.cw with
        | some u => cwQueue h u (cwE 8 (bytesBE 1 x ++ runBytes (runsOf gone)))
        | none => h
    else if p.role = 0 ∧ h.cw.isHead = false then enterHoldover { h with cw := { h.cw with joins := [] } }
    else h

/-- A port that is disabled (R41, R277): it finishes the frame in progress, the last fragment of one partly sent included; the frames that waited return
ABORTED, with the bytes of them that were sent; the link goes down, which a disabled upstream port loses and a downstream one tells upward. -/
def portDisable (h : HostDie) (x : Nat) : HostDie :=
  let p := cwPort h.cw x
  let h := match p.txq.find? (fun t => decide (t.done ≠ 0)) with
    | some u => if isPlain h.cw x then h else
      seqBump (cwEmit (modPort h x (fun p => { p with txq := txqPut p.txq u none })) x u.cls (32 + u.frag % 16) (u.src.getD (srcWord h.cw)) u.dmode u.dst
        (tget 0 p.seqs u.cls) (u.payload.drop u.done) false) x u.cls
    | none => h
  portDrop (linkDown (modPort h x (fun p => { p with returned := p.txq })) x) x

/-- SPEED_TRY_TIMEOUT (R244). -/
def speedTry (h : HostDie) (x : Nat) : HostDie :=
  modPort h x (fun p => if p.link = false ∧ fld p.pctl 1 0 = 2 then { p with try1000 := !p.try1000 } else p)

/-- A write of CW_PCTLx: SPEED 11b leaves the field; EN 0 disables the port (R41). -/
def pctlWrite (h : HostDie) (x : Nat) (v : W32) : HostDie :=
  let keep := if fld v 1 0 = 3 then setFld v 1 0 (fld (cwPort h.cw x).pctl 1 0) else v
  let h := if bit v 2 ∧ bit h.cw.ctrl 0 then h else portDisable h x
  modPort h x (fun p => { p with pctl := keep &&& (if x = 2 then 0x37 else 0x17) })

/-! ### Enumeration -/

/-- The payload of the DISCOVER that the node sends (R254): its depth is the node's own, its path delay the node's own. -/
def discoverBody (h : HostDie) (enum : Bool) : List Byte :=
  let c := h.cw
  bytesBE 8 c.headUdn ++ bytesBE 4 h.leg.epoch.toNat ++ bytesBE 2 c.enumNo ++
    bytesBE 1 (if c.isHead then hRate h else c.discRate) ++ bytesBE 1 (b2n enum + 2 * b2n c.sys1000) ++
    bytesBE 2 (nSlot c) ++ bytesBE 1 (cwLoop c) ++ bytesBE 4 c.slead ++ bytesBE 4 c.ulag ++ bytesBE 2 c.depth ++ bytesBE 4 c.path

/-- DISCOVER sent on every downstream port that Datum has calibrated (R254). -/
def discoverDown (h : HostDie) (enum : Bool) : HostDie :=
  ((portsIn h.cw 1).filter (fun x => (tget dtPort0 h.dt.ports x).calDone)).foldl (fun h x =>
    modPort (cwQueue h x (cwE 1 (discoverBody h enum))) x (fun p => { p with asked := p.asked || enum })) h

/-- A full enumeration starts at the head (R255). -/
def startEnum (h : HostDie) : HostDie :=
  let c := h.cw
  let c := { c with enumNo := (c.enumNo + 1) % 65536, toReport := true, awaiting := false, joins := [], gave := [] }
  let c := (List.range 3).foldl (fun c x => cwSetPort c x { cwPort c x with report := none, counted := 0, assign := none, asked := false }) c
  discoverDown { h with cw := c } true

/-- Sessions close when the gateway's address changes (R311). -/
def closeSessions (h : HostDie) : HostDie := { h with leg := { h.leg with sessions := [] } }

/-- F of R260 in picoseconds. -/
def frameDur (c : Cw) : Nat := (34 + 4 * nSlot c) * (if c.sys1000 then 8000 else 3200)

/-- The node's own S and U terms of R263, less F and the constants, in picoseconds. -/
def ownSTerm (depth path : Nat) : Nat := path + (depth - 1) * 640000
def ownUTerm (depth path : Nat) : Nat := depth * 1280000 + path

/-- A REPORT counts toward the node's own: those of the downstream ports, and the standby terms of its own (R255, R263). -/
def downReports (c : Cw) : List RepRec := (portsIn c 1).filterMap (fun x => (cwPort c x).report)

/-- The subtree count on a port (R255): 0 where no REPORT of this enumeration has come, or it came from a standby port. -/
def portSub (c : Cw) (x : Nat) : Nat :=
  match (cwPort c x).report with
  | some r => if r.enumNo = c.enumNo ∧ r.flags.testBit 1 = false ∧ (cwPort c x).role = 1 then r.count else 0
  | none => 0

/-- The largest S and U terms of the subtree. -/
def subTerms (c : Cw) : Nat × Nat :=
  let own := if c.isHead then [] else [(ownSTerm c.depth c.path, ownUTerm c.depth c.path)]
  let st := match c.stDepth with | some d => [(ownSTerm d c.stPath, ownUTerm d c.stPath)] | none => []
  let all := own ++ st ++ (downReports c).map (fun r => (r.sTerm, r.uTerm))
  (all.foldl (fun m p => max m p.1) 0, all.foldl (fun m p => max m p.2) 0)

/-- Nanoseconds, rounded up, of picoseconds. -/
def psToNs (p : Nat) : Nat := (p + 999) / 1000

/-- LOOP_MIN (R270): the smallest LOOP whose stream periods cover ULAG, F, 640 ns and SLEAD. -/
def loopMin (h : HostDie) : Nat :=
  let ns := h.cw.ulag * 1000 + frameDur h.cw + 640000 + h.cw.slead * 1000
  (ns * rateHz (hRate h) + hPeriod h * 1000000000000 - 1) / (hPeriod h * 1000000000000)

/-- The head forms SLEAD_MIN and ULAG_MIN, and raises LEAD_SHORT while a lead or LOOP is too small (R263, R270). -/
def headMins (h : HostDie) : HostDie :=
  if h.cw.isHead = false then h
  else
    let t := subTerms h.cw
    let smin := psToNs (t.1 + frameDur h.cw) + 160 + 9700
    let umin := psToNs t.2 + 9360
    let h := { h with cw := { h.cw with sleadMin := smin, ulagMin := umin } }
    let short := decide (h.cw.slead < smin) || decide (h.cw.ulag < umin) || decide (cwLoop h.cw < loopMin h)
    let raise := short && !h.cw.leadShort
    let h := { h with cw := { h.cw with leadShort := short } }
    if raise then hostEventRaw h .leadShort [w32 smin, w32 umin] else h

/-- The route table entries of a run list set to a code. -/
def setRoutes (c : Cw) (as : List Nat) (code : Nat) : Cw :=
  { c with route := as.foldl (fun r a => if a < 4096 then tput 0 r a code else r) c.route }

/-- The U sequence that the node has reached, and one at least 64 stream periods ahead of it (R268, R276). -/
def nextU (h : HostDie) : Nat := (h.cw.sentU.getD h.dt.tick) % 2 ^ 32
def aheadU (h : HostDie) : Nat := nextU h + 64 * max (hPeriod h) (match h.dt.ratePend with | some (_, code) => framesPer code | none => 1)

/-- A GRANT or REVOKE entered in the node's own list, and sent down (R268). -/
def tokenSend (h : HostDie) (grant : Bool) (tok owner eff : Nat) : HostDie :=
  let body := if grant then bytesBE 2 tok ++ bytesBE 2 owner ++ bytesBE 4 eff else bytesBE 2 tok ++ bytesBE 4 eff
  let h := { h with cw := { h.cw with pend := h.cw.pend ++ [⟨eff % 2 ^ 32, true, tok, if grant then owner % 4096 + 1 else 0⟩] } }
  cwQueueAll h (portsIn h.cw 1) (cwE (if grant then 4 else 5) body)

/-- REVOKE at E and GRANT at E + 1 of one token to its listed owner (R268, R269). -/
def regrant (h : HostDie) (tok : Nat) : HostDie :=
  let e := aheadU h
  let o := tget 0 h.cw.owners tok
  let h := tokenSend h false tok 0 e
  if o.testBit 15 then tokenSend h true tok (o % 4096) (e + 1) else h

/-- The tokens that a list of addresses owns. -/
def tokensOwned (c : Cw) (as : List Nat) : List Nat :=
  (c.owners.filter (fun e => e.2.testBit 15 && as.contains (e.2 % 4096))).map (·.1)

/-- Runs of `n` address ranks taken from the front of a run list, and the rest. -/
def takeRuns : List (Nat × Nat) → Nat → List (Nat × Nat) × List (Nat × Nat)
  | [], _ => ([], [])
  | (a, l) :: t, n =>
    if n = 0 then ([], (a, l) :: t)
    else if l ≤ n then let r := takeRuns t (n - l); ((a, l) :: r.1, r.2)
    else ([(a, n)], (a + n, l - n) :: t)

/-- An ASSIGN of the runs sent on port `x` (R255): the routes of its addresses name the port, and it is kept to be sent again (R274). -/
def assignTo (h : HostDie) (x : Nat) (rs : List (Nat × Nat)) : HostDie :=
  if rs = [] then h
  else
    let b := bytesBE 2 h.cw.enumNo ++ bytesBE 2 rs.length ++ runBytes rs
    let h := cwQueue (modPort h x (fun p => { p with assign := some b })) x (cwE 3 b)
    { h with cw := setRoutes h.cw (runAddrs rs) (toPort x) }

/-- The counts that the node's own REPORT gives to its ports (R255): a port that has not reported by then counts as 0. -/
def countPorts (c : Cw) : Cw := (List.range 3).foldl (fun c x => cwSetPort c x { cwPort c x with counted := portSub c x }) c

/-- The runs that a node passes on (R255): as many as the count it reported for CB to CB, the remainder to CC. -/
def passRuns (h : HostDie) (runs : List (Nat × Nat)) : HostDie :=
  let r := takeRuns runs (cwPort h.cw 1).counted
  assignTo (assignTo h 1 r.1) 2 r.2

/-- The unique device numbers that the reports of a full enumeration name to the head, with the address each takes (R255, R257). -/
def kidUdns (c : Cw) : List (Nat × Nat) :=
  let one := fun (x a : Nat) => if portSub c x = 0 then [] else ((cwPort c x).report.map (fun r => (r.udn, a))).toList
  one 1 1 ++ one 2 (1 + portSub c 1)

/-- The head answers the reports of a full enumeration (R255): addresses from 0 on, the head's own first. -/
def headAssign (h : HostDie) : HostDie :=
  let h := { h with cw := countPorts h.cw }
  let total := min 65535 (1 + portSub h.cw 1 + portSub h.cw 2)
  let c := setRoutes { h.cw with route := [], toReport := false, addr := 0, noaddr := false, heldAddr := [], udnAddr := kidUdns h.cw } [0] 1
  let h := passRuns { h with cw := c } (if total = 1 then [] else [(1, total - 1)])
  headMins (h.cw.owners.foldl (fun h e => regrant h e.1) h)

/-- The lowest free addresses at the head (R257). -/
def freeAddrs (c : Cw) (n : Nat) : List Nat :=
  ((List.range 4096).filter (fun a => decide (tget 0 c.route a = 0) && !c.heldAddr.contains a)).take n

/-- The head answers a JOIN report (R257): the address that the unique device number held, else the lowest free ones. One whose ASSIGN was lost, and whose
addresses are still routed to its port, is answered as before (R274). -/
def headJoin (h : HostDie) (x : Nat) (r : RepRec) : HostDie :=
  let again := h.cw.gave.find? (fun e => decide (e.1 = r.udn) && decide (e.2.length = min r.count e.2.length) && decide (e.2 ≠ []) &&
    e.2.all (fun a => decide (tget 0 h.cw.route a = toPort x) && !h.cw.heldAddr.contains a))
  match again with
  | some e => headMins (assignTo h x (e.2.map (fun a => (a, 1))))
  | none =>
    let old := (h.cw.udnAddr.find? (fun e => decide (e.1 = r.udn))).map (·.2)
    let as := match old with
      | some a => a :: freeAddrs { h.cw with heldAddr := a :: h.cw.heldAddr } (r.count - 1)
      | none => freeAddrs h.cw r.count
    let c := { h.cw with heldAddr := h.cw.heldAddr.filter (fun a => !as.contains a),
                         gave := (r.udn, as) :: h.cw.gave.filter (fun e => decide (e.1 ≠ r.udn)),
                         udnAddr := match as with | a :: _ => (r.udn, a) :: h.cw.udnAddr.filter (fun e => decide (e.1 ≠ r.udn)) | [] => h.cw.udnAddr }
    let h := assignTo { h with cw := c } x (as.map (fun a => (a, 1)))
    headMins ((tokensOwned h.cw as).foldl regrant h)

/-- The REPORT that the node sends (R255); `num`: the enumeration number. -/
def reportNo (h : HostDie) (num : Nat) (join standby : Bool) : List Byte :=
  let c := h.cw
  let n := 1 + portSub c 1 + portSub c 2
  let t := subTerms c
  bytesBE 2 num ++ bytesBE 8 h.com.fuses.udn.toNat ++ bytesBE 2 (if standby then 0 else min n 65535) ++
    bytesBE 4 (min t.1 (2 ^ 32 - 1)) ++ bytesBE 4 (min t.2 (2 ^ 32 - 1)) ++
    bytesBE 1 (b2n join + 2 * b2n standby + 4 * b2n (decide (65535 < n)))

/-- The REPORT of the enumeration in progress. -/
def reportBody (h : HostDie) (join standby : Bool) : List Byte := reportNo h h.cw.enumNo join standby

/-- A REPORT sent up waits for its ASSIGN: that of port `x`, 3 for the node's own. -/
def joinWait (c : Cw) (x udn : Nat) : Cw := if c.joins.contains (x, udn) then c else { c with joins := c.joins ++ [(x, udn)] }

/-- The node reports upward, or assigns at the head (R255). -/
def sendReport (h : HostDie) (join : Bool) : HostDie :=
  if h.cw.isHead then headAssign h
  else
    match upPort h.cw with
    | some u =>
      let g := cwQueue h u (cwE 2 (reportBody h join false))
      { g with cw := { joinWait (if h.cw.toReport then countPorts g.cw else g.cw) 3 h.com.fuses.udn.toNat with toReport := false, awaiting := true } }
    | none => h

/-- Every downstream port with a peer that was asked has reported (R255). -/
def allReported (c : Cw) : Bool :=
  (portsIn c 1).all (fun x => !(cwPort c x).peer || !(cwPort c x).asked ||
    (match (cwPort c x).report with | some r => decide (r.enumNo = c.enumNo) | none => false))

/-- What a DISCOVER carries, but for depth, path delay and the enumeration (R254, R332). The 2 s of STALE begin again with a new epoch (R337). -/
def discoverTake (h : HostDie) (b : List Byte) : HostDie :=
  { h with cw := { h.cw with discSeen := true, headUdn := beAt b 0 8, sys := beAt b 7 1, discRate := beAt b 14 1, sys1000 := (beAt b 15 1).testBit 1,
                             stream := setFld (setFld h.cw.stream 9 0 (beAt b 16 2)) 19 16 (beAt b 18 1),
                             slead := beAt b 19 4 % 2 ^ 20, ulag := beAt b 23 4 % 2 ^ 20 },
           leg := { h.leg with epoch := w32 (beAt b 8 4), discEp := w32 (beAt b 8 4), stale := h.leg.stale && decide (w32 (beAt b 8 4) = h.leg.epoch) } }

/-- Links that run at another speed than the system's are blocked (R244). -/
def speedBlock (h : HostDie) : HostDie :=
  ((List.range 3).filter (fun y => portUp h.cw y && decide ((cwPort h.cw y).role ≠ 3) && ((cwPort h.cw y).speed1000 != h.cw.sys1000))).foldl
    (fun h y => hostEventRaw (modPort h y (fun p => { p with role := 3 })) .speedMismatch [w32 y]) h

/-- A head that receives a DISCOVER on its upstream port yields (R252): it joins as any other node. -/
def headYield (h : HostDie) (udn : Nat) : HostDie :=
  closeSessions (hostFault { h with cw := { h.cw with isHead := false, conflict := true, state := 0, noaddr := true, addr := 0, overflow := false,
                                                      toReport := false, awaiting := false, joining := false, joins := [] },
                                      dt := { h.dt with srcOk := false } } 0x10 [lo32 (BitVec.ofNat 64 udn)])

/-- DISCOVER (R252 to R254, R259, R332) received on port `x`. One on the standby port is recorded too and sent on down; its depth and path delay are held
for a switchover. -/
def discoverRx (h : HostDie) (x : Nat) (b : List Byte) : HostDie :=
  let role := (cwPort h.cw x).role
  let depth := beAt b 27 2
  let path := beAt b 29 4 + (tget dtPort0 h.dt.ports x).pdly.toNat
  let enum := (beAt b 15 1).testBit 0
  if b.length ≠ 33 then h
  else if role = 1 then
    let h := modPort h x (fun p => { p with role := 3 })
    let h := if h.cw.isHead ∧ depth = 0 then { h with cw := { h.cw with conflict := true } } else h
    hostEventRaw h .loop [w32 x]
  else if role = 3 then h
  else if role = 2 then
    let h := discoverTake { h with cw := { h.cw with stDepth := some (depth + 1), stPath := path, state := if h.cw.state = 4 then 1 else h.cw.state } } b
    let h := speedBlock h
    let h := if enum then cwQueue h x (cwE 2 (reportNo h (beAt b 12 2) false true)) else h
    if 4095 < h.cw.depth then h else discoverDown h false
  else
    let h := if h.cw.isHead then headYield h (beAt b 0 8) else h
    let d := depth + 1
    let newEnum := enum && decide (beAt b 12 2 ≠ h.cw.enumNo)
    let h := discoverTake h b
    let c := { h.cw with enumNo := beAt b 12 2, depth := d, path := path }
    let c := { c with state := if c.state = 0 ∨ c.state = 4 then (if c.overflow ∧ c.state = 0 ∧ newEnum = false then 0 else 1) else c.state }
    let h := speedBlock { h with cw := c }
    if 4095 < d then
      (portsIn h.cw 1).foldl (fun h y => modPort h y (fun p => { p with role := 3 })) h
    else
      let join := !enum && h.cw.noaddr && !h.cw.overflow && !h.cw.awaiting && !h.cw.toReport
      let c := (List.range 3).foldl (fun c y => cwSetPort c y { cwPort c y with report := if newEnum then none else (cwPort c y).report, counted := 0, assign := none, asked := false })
        { h.cw with toReport := true, awaiting := false, joining := join, overflow := false, joins := [] }
      let h := if newEnum ∨ join then { h with cw := c } else h
      let h := discoverDown h enum
      if h.cw.toReport ∧ allReported h.cw then sendReport h h.cw.joining else h

/-- The terms of a joining subtree added to those recorded on its port (R263). -/
def reportMerge (old : Option RepRec) (r : RepRec) : RepRec :=
  match old with
  | some q => { q with sTerm := max q.sTerm r.sTerm, uTerm := max q.uTerm r.uTerm }
  | none => { r with count := 0 }

/-- A subtree on port `x` joins after the enumeration (R257): the head assigns it addresses, another node passes its REPORT on up with JOIN set. -/
def subtreeJoins (h : HostDie) (x : Nat) (r : RepRec) (b : List Byte) : HostDie :=
  let h := modPort h x (fun p => { p with report := some (reportMerge p.report r) })
  if h.cw.isHead then headJoin h x r
  else if forwards h.cw = false then h
  else match upPort h.cw with
    | some u => cwQueue { h with cw := joinWait h.cw x r.udn } u (cwE 2 (b.take 20 ++ bytesBE 1 (r.flags ||| 1)))
    | none => h

/-- REPORT (R255, R257, R263, R274) received on port `x`: one of the enumeration in progress is recorded; one that comes after the node's own REPORT, on a
port that counted as 0, is of a subtree that joins; one repeated on a port that was counted has its ASSIGN sent again. -/
def reportRx (h : HostDie) (x : Nat) (b : List Byte) : HostDie :=
  if b.length ≠ 21 ∨ (cwPort h.cw x).role ≠ 1 then h
  else
    let r : RepRec := { enumNo := beAt b 0 2, udn := beAt b 2 8, count := beAt b 10 2, sTerm := beAt b 12 4, uTerm := beAt b 16 4, flags := beAt b 20 1 }
    let after := !h.cw.toReport && decide (r.enumNo = h.cw.enumNo) && !r.flags.testBit 1
    if r.flags.testBit 0 ∨ (after ∧ (cwPort h.cw x).counted = 0) then subtreeJoins h x r b
    else
      let h := modPort h x (fun p => { p with report := some r })
      if h.cw.toReport ∧ allReported h.cw then headMins (sendReport h h.cw.joining)
      else if after then
        headMins (match (cwPort h.cw x).assign with
          | some a => cwQueue h x (cwE 3 a)
          | none => h)
      else headMins h

/-- The node takes the first address of the runs of an ASSIGN, and passes the others on (R255, R256). -/
def ownAssign (h : HostDie) (runs : List (Nat × Nat)) : HostDie :=
  match takeRuns (runs.filter (fun r => decide (r.2 ≠ 0))) 1 with
  | ((a, _) :: _, rest) =>
    if 4096 ≤ a then
      passRuns (closeSessions { h with cw := { h.cw with overflow := true, noaddr := true, awaiting := false, state := 0, route := [] } }) rest
    else
      let h := if h.cw.addr ≠ a ∨ h.cw.noaddr then closeSessions h else h
      passRuns { h with cw := setRoutes { h.cw with addr := a, noaddr := false, overflow := false, awaiting := false, route := [] } [a] 1 } rest
  | ([], _) => closeSessions { h with cw := { h.cw with overflow := true, noaddr := true, awaiting := false, state := 0 } }

/-- ASSIGN (R255 to R257) received on the upstream port: it answers the oldest REPORT that the node has sent up, and one that answers none is dropped. -/
def assignRx (h : HostDie) (x : Nat) (b : List Byte) : HostDie :=
  let runs := runsAt (b.drop 4)
  if (cwPort h.cw x).role ≠ 0 ∨ beAt b 0 2 ≠ h.cw.enumNo ∨ runs.length ≠ beAt b 2 2 then h
  else
    match h.cw.joins with
    | [] => h
    | (j, _) :: js =>
      let h := { h with cw := { h.cw with joins := js } }
      if j = 3 then ownAssign h runs else assignTo h j runs

/-- What a token entry takes from an owner (R268): the route table's entry for it, self for the node's own address. -/
def ownerCode (c : Cw) (a : Nat) : Nat := if c.noaddr = false ∧ a = c.addr then 1 else tget 0 c.route a

/-- One entry takes effect. A token that is granted, or revoked, has a new owner in force. -/
def applyEnt (c : Cw) (e : PendEnt) : Cw :=
  if e.token then
    { c with tokens := (tput 0 c.tokens e.key) (if e.val = 0 then 0 else if 8192 ≤ e.val then e.val - 8192 else ownerCode c (e.val - 1)),
             ownNow := if 8192 ≤ e.val then c.ownNow else tput 0 c.ownNow e.key (if e.val = 0 then 0 else 32768 + (e.val - 1)),
             tokAt := tput 0 c.tokAt e.key (e.at' + 1) }
  else { c with route := tput 0 c.route e.key e.val }

/-- Entries due at U sequence `m` take effect in order (R268, R276). -/
def applyPend (c : Cw) (m : Nat) : Cw :=
  let due := c.pend.filter (fun e => serialGe 32 m e.at')
  due.foldl applyEnt { c with pend := c.pend.filter (fun e => !serialGe 32 m e.at') }

/-- An entry that arrives: waits for its frame, or takes effect at once and counts TCLASH (R268). -/
def takeEnt (h : HostDie) (e : PendEnt) : HostDie :=
  let late := match h.cw.sentU with | some m => serialGe 32 m e.at' | none => false
  if late then nodeCount { h with cw := applyEnt h.cw e } 4 1 else { h with cw := { h.cw with pend := h.cw.pend ++ [e] } }

/-- GRANT and REVOKE (R268), flooded down. -/
def grantRx (h : HostDie) (x : Nat) (grant : Bool) (b : List Byte) : HostDie :=
  if (cwPort h.cw x).role ≠ 0 ∨ 512 ≤ beAt b 0 2 then h
  else
    let e : PendEnt := if grant then (⟨beAt b 4 4, true, beAt b 0 2, beAt b 2 2 % 4096 + 1⟩ : PendEnt) else ⟨beAt b 2 4, true, beAt b 0 2, 0⟩
    let h := takeEnt h e
    cwRelay h (portsIn h.cw 1) (cwE (if grant then 4 else 5) b)

/-- The content of a RELOCATE: address, effective sequence, runs and tokens, each list behind its count (log entry 14). -/
def relocRuns (b : List Byte) : List (Nat × Nat) := runsAt (slice b 8 (4 * beAt b 6 2))
def relocTokens (b : List Byte) : List Nat :=
  let o := 8 + 4 * beAt b 6 2
  (List.range (beAt b o 2)).map (fun i => beAt b (o + 2 + 2 * i) 2)

/-- The partner on a downstream port keeps it as its standby port: its REPORT said so (R255, R275). -/
def standbyPeer (c : Cw) (x : Nat) : Bool := match (cwPort c x).report with | some r => r.flags.testBit 1 | none => false

/-- RELOCATE (R276): entries toward the arrival port at the effective frame, the message sent on up; the head floods ROUTE. -/
def relocateRx (h : HostDie) (x : Nat) (b : List Byte) : HostDie :=
  if (cwPort h.cw x).role ≠ 1 then h
  else
    let eff := beAt b 2 4
    let h := if standbyPeer h.cw x then modPort h x (fun p => { p with report := none }) else h
    let h := (runAddrs (relocRuns b)).foldl (fun h a => takeEnt h ⟨eff, false, a, toPort x⟩) h
    let h := (relocTokens b).foldl (fun h t => takeEnt h ⟨eff, true, t, 8192 + toPort x⟩) h
    let h := { h with cw := { h.cw with relocs := ((beAt b 0 2, eff) :: h.cw.relocs).take 16 } }
    if h.cw.isHead then cwRelay h (portsIn h.cw 1) (cwE 7 b) else cwRelay h (upPort h.cw).toList (cwE 6 b)

/-- ROUTE (R276): a node not on the new path clears the entries at the same frame. -/
def routeRx (h : HostDie) (x : Nat) (b : List Byte) : HostDie :=
  if (cwPort h.cw x).role ≠ 0 then h
  else
    let eff := beAt b 2 4
    let as := runAddrs (relocRuns b)
    let onPath := h.cw.relocs.contains (beAt b 0 2, eff) || as.contains h.cw.addr
    let h := if onPath then h
      else (relocTokens b).foldl (fun h t => takeEnt h ⟨eff, true, t, 0⟩) (as.foldl (fun h a => takeEnt h ⟨eff, false, a, 0⟩) h)
    cwRelay h (portsIn h.cw 1) (cwE 7 b)

/-- LEAVE (R257): the head holds the addresses; another node passes it on up. -/
def leaveRx (h : HostDie) (x : Nat) (b : List Byte) : HostDie :=
  if (cwPort h.cw x).role ≠ 1 then h
  else if h.cw.isHead then { h with cw := { h.cw with heldAddr := (h.cw.heldAddr ++ runAddrs (runsAt (b.drop 1))).eraseDups } }
  else cwRelay h (upPort h.cw).toList (cwE 8 b)

/-- ADDR_HOLD_EXPIRY (R257): the head frees a held address. -/
def holdExpiry (h : HostDie) (a : Nat) : HostDie :=
  if h.cw.isHead ∧ h.cw.heldAddr.contains a then
    { h with cw := { h.cw with heldAddr := h.cw.heldAddr.filter (· ≠ a), gave := h.cw.gave.filter (fun e => !e.2.contains a), udnAddr := h.cw.udnAddr.filter (fun e => decide (e.2 ≠ a)),
                               route := tput 0 h.cw.route a 0 } }
  else h

/-- TOKEN_AUDIT_SEND (R269): 8 frames, each a U sequence, the first token and the 64 owner words in force at it (log entry 14). -/
def tokenAudit (h : HostDie) : HostDie :=
  if h.cw.isHead = false then h
  else (List.range 8).foldl (fun h i =>
    cwQueueAll h (portsIn h.cw 1) (cwTx 4 1 0 (Config.aOp 0 :: (bytesBE 4 (nextU h) ++ bytesBE 2 (64 * i) ++
      (List.range 64).flatMap (fun j => bytesBE 2 (tget 0 h.cw.ownNow (64 * i + j))))))) h

/-- A token has changed after the U sequence `m` (R269). -/
def tokenMoved (c : Cw) (m t : Nat) : Bool :=
  match tget 0 c.tokAt t with
  | 0 => false
  | k + 1 => decide (k % 2 ^ 32 ≠ m) && serialGe 32 k m

/-- TOKEN_AUDIT received (R269): the entries as of the U sequence that it names are compared; those that are not the route toward the listed owner are
disputed; the frame goes on down. A token that has changed since is not compared. -/
def tokenAuditRx (h : HostDie) (x : Nat) (b : List Byte) : HostDie :=
  if (cwPort h.cw x).role ≠ 0 ∨ b.length ≠ 134 then h
  else
    let c := applyPend h.cw (beAt b 0 4)
    let bad := (List.range 64).filter (fun j =>
      let t := beAt b 4 2 + j
      let o := beAt b (6 + 2 * j) 2
      decide (tget 0 c.tokens t ≠ (if o.testBit 15 then ownerCode c (o % 4096) else 0)) && !tokenMoved h.cw (beAt b 0 4) t)
    let h := cwRelay h (portsIn h.cw 1) (cwTx 4 1 0 (Config.aOp 0 :: b))
    if bad = [] then h
    else cwQueue h x (cwA 1 (bad.flatMap (fun j => bytesBE 2 (beAt b 4 2 + j))))

/-- DISPUTE (R269): the head revokes and grants again, counting TRESYNC; another node passes it on up. -/
def disputeRx (h : HostDie) (x : Nat) (b : List Byte) : HostDie :=
  if (cwPort h.cw x).role ≠ 1 then h
  else if h.cw.isHead then
    ((List.range (b.length / 2)).map (fun i => beAt b (2 * i) 2 % 512)).foldl (fun h t => nodeCount (regrant h t) 5 1) h
  else cwRelay h (upPort h.cw).toList (cwA 1 b)

/-! ### Credits (R273) -/

/-- CAUDIT sent on every port with a link. -/
def cauditAll (h : HostDie) : HostDie :=
  ((List.range 3).filter (portUp h.cw)).foldl (fun h x => cwQueue h x (cwCountA 2)) h

/-- CAUDIT received: credits lost on the way return, or the link resynchronises (R24, R25). -/
def cauditRx (h : HostDie) (x : Nat) (b : List Byte) : HostDie :=
  let p := cwPort h.cw x
  let d := (beAt b 0 1 + 256 - p.acct) % 256
  if d = 0 ∨ p.syncing then h
  else if d < 128 then
    modPort h x (fun p => { p with acct := (p.acct + d) % 256, rel := (p.rel + d) % 256, cnt := ctrAdd p.cnt 6 d })
  else
    cwQueue (modPort h x (fun p => { p with syncing := true, cnt := ctrAdd p.cnt 7 1 })) x (cwA 3 [])

/-- CRESYNC received: the sender stops credited frames and, once the one in progress has finished, acknowledges with its SENT count. -/
def cresyncRx (h : HostDie) (x : Nat) : HostDie := modPort h x (fun p => { p with stopped := true, ackDue := true, cnt := ctrAdd p.cnt 7 1 })

/-- CRESYNC_ACK received: ACCOUNTED and RELEASED become the sender's SENT. -/
def cresyncAckRx (h : HostDie) (x : Nat) (b : List Byte) : HostDie :=
  modPort h x (fun p =>
    if p.syncing then { p with acct := beAt b 0 1, rel := beAt b 0 1, held := 0, reasm := none, syncing := false } else p)

/-- A port whose partner has released everything sends again (R25 step 4). -/
def creditResume (h : HostDie) (x : Nat) : HostDie :=
  modPort h x (fun p => if p.stopped ∧ p.farRel = p.sent then { p with stopped := false } else p)

/-- CINIT received: 32 credits. -/
def cinitRx (h : HostDie) (x : Nat) : HostDie :=
  modPort h x (fun p => { p with sent := 0, farRel := 0, acct := 0, rel := 0, relSent := 0, held := 0, stopped := false, syncing := false })

/-- A received A or E frame that passed its checks, its operation code `op` taken off. -/
def linkMsg (cls : Nat) (op : Option Byte) (act : HostDie → Nat → List Byte → HostDie) (x : Nat) (f : CwRx) (h : HostDie) : HostDie :=
  let r := cwCheck h x cls f
  if r.2 ≠ 0 then r.1
  else if (cwBody f).head? ≠ op then creditResume r.1 x
  else act (creditResume r.1 x) x ((cwBody f).drop 1)

/-! ### Reassembly and the bridge of P frames -/

/-- A fragment or whole frame of class V or P (R272, R273): the buffer it takes, and the payload once whole. -/
def reassemble (h : HostDie) (x : Nat) (f : CwRx) : HostDie × Option (List Byte) :=
  let p := cwPort h.cw x
  let fl := hFlags f.hdr
  let first := fl.testBit 6
  let last := fl.testBit 5
  let frag := fl % 16
  let b := cwBody f
  let max := if hClass f.hdr = 3 then 1024 else 2000
  let goesOn := match p.reasm with | some r => decide (r.cls = hClass f.hdr) && decide (r.seq = hSeq f.hdr) && decide (r.next % 16 = 0) | none => false
  let whole := (first && last) || (!first && !last && decide (frag = 0) && !goesOn)
  let take := fun (h : HostDie) => modPort h x (fun p => { p with acct := (p.acct + 1) % 256, held := p.held + 1 })
  let free := fun (h : HostDie) => modPort h x (fun p => { p with held := p.held - 1, rel := (p.rel + 1) % 256 })
  let bad := fun (h : HostDie) => modPort (free h) x (fun p => { p with reasm := none, cnt := ctrAdd p.cnt 5 1 })
  let h := if (first || whole) && p.reasm.isSome then bad h else h
  if whole then
    let h := free (take h)
    if b.length ≤ max then (h, some b) else (portCount h x 5 1, none)
  else if first then
    if frag = 0 then (modPort (take h) x (fun p => { p with reasm := some ⟨hClass f.hdr, hSeq f.hdr, 1, b⟩ }), none)
    else (free (portCount (take h) x 5 1), none)
  else
    match p.reasm with
    | none => (portCount h x 5 1, none)
    | some r =>
      if r.cls = hClass f.hdr ∧ r.seq = hSeq f.hdr ∧ r.next % 16 = frag ∧ r.bytes.length + b.length ≤ max then
        if last then (modPort (free h) x (fun p => { p with reasm := none }), some (r.bytes ++ b))
        else (modPort h x (fun p => { p with reasm := some { r with next := r.next + 1, bytes := r.bytes ++ b } }), none)
      else (bad h, none)

/-- The learning table takes a source address (R258): moved to its port, or added while fewer than 1,024 are held. -/
def learnSrc (c : Cw) (mac x : Nat) : Cw :=
  let rest := c.learn.filter (fun e => decide (e.1 ≠ mac))
  if rest.length < 1024 then { c with learn := rest ++ [(mac, x)] } else c

/-- An Ethernet frame bridged (R251, R258): to the port its destination was learnt on, else to every other port; to the host network
interface when it is addressed to it or to a group. -/
def bridge (h : HostDie) (x : Nat) (e : List Byte) : HostDie :=
  let dst := beAt e 0 6
  let h := { h with cw := learnSrc h.cw (beAt e 6 6) x }
  let group := (beAt e 0 1).testBit 0
  let h := if dst = myMac h 3 ∨ group then { h with ethIn := e :: h.ethIn } else h
  let t : CwTx := cwTx 6 3 0 e
  let ports := (List.range 3).filter (fun y => decide (y ≠ x) && (cwPort h.cw y).link && (isPlain h.cw y || decide ((cwPort h.cw y).role ≤ 1)))
  if dst = myMac h 3 ∨ forwards h.cw = false then h
  else
    match h.cw.learn.find? (fun q => decide (q.1 = dst)) with
    | some q => if q.2 = x then h else cwQueue h q.2 { t with plain := isPlain h.cw q.2 }
    | none => ports.foldl (fun h y => cwQueue h y { t with plain := isPlain h.cw y }) h

/-- P_FRAME (R251, R258): an ordinary frame of a PLAIN port enters as it is. -/
def pFrame (x : Nat) (f : CwRx) (h : HostDie) : HostDie :=
  if isPlain h.cw x then
    if (cwPort h.cw x).link = false ∨ 2200 < 18 + f.hdr.length + f.payload.length then h
    else if f.fcs ≠ 0 then portCount h x 1 1
    else if f.etype = 0x8808 then portCount h x 3 1
    else bridge h x (bytesBE 6 f.dst.toNat ++ bytesBE 6 f.src.toNat ++ bytesBE 2 f.etype.toNat ++ f.hdr ++ f.payload)
  else
    let r := cwCheck h x 6 f
    if r.2 ≠ 0 then r.1
    else
      let q := reassemble (creditResume r.1 x) x f
      match q.2 with
      | some e => bridge q.1 x e
      | none => q.1

/-! ### Stream and return frames -/

/-- The words of a payload, big-endian (R248). -/
def wordsBE : List Byte → List W32
  | a :: b :: c :: d :: t => w32 (ofBytesBE [a, b, c, d]) :: wordsBE t
  | _ => []

/-- Words on the wire. -/
def beWords (ws : List W32) : List Byte := ws.flatMap (fun w => bytesBE 4 w.toNat)

/-- A map takes its commit when a frame at or beyond C comes (R264): the shadow becomes active. -/
def mapApply (m : SlotMap) (seq : Nat) : SlotMap :=
  match m.pend with
  | some c => if serialGe 32 seq c then { m with act := m.sh, actSeq := seq, pend := none } else m
  | none => m

/-- OUTSIDE of each active entry for a slot count (R267), the index in the bits of `mask`. -/
def mapOutside (m : SlotMap) (mask count : Nat) : SlotMap :=
  { m with count := count, outside := (m.act.filter (fun e => e.2.testBit 15 && decide (count ≤ e.2 % (mask + 1)))).map (fun e => (e.1, true)) }

/-- MAP_OUTSIDE is sent once for a commit or a change of slot count that leaves entries outside (R267). -/
def outsideEvent (h : HostDie) (before after : SlotMap) : HostDie :=
  if (before.count ≠ after.count ∨ before.pend ≠ after.pend) ∧ after.outside ≠ [] then hostEventRaw h .mapOutside [w32 after.outside.length] else h

/-- The word that map entry `e` takes from one sub-frame of `count` slots. -/
def takeSlot (e mask count : Nat) (sub : List W32) : W32 :=
  if e.testBit 15 ∧ e % (mask + 1) < count then wAt sub (e % (mask + 1)) else 0

/-- An S frame taken apart (R260, R262, R264): the 128 chain channels of each pass, kept until the hand-off; 8 frames at most. -/
def takeApart (h : HostDie) (f : SlotFrame) : HostDie :=
  let n := periodAt h f.seq
  let count := f.slots.length / n
  let m := mapOutside (mapApply h.cw.slotMap f.seq) 1023 count
  let h := outsideEvent h h.cw.slotMap m
  let words := (List.range n).flatMap (fun i => (List.range 128).map (fun ch => takeSlot (tget 0 m.act ch) 1023 count (f.slots.drop (i * count))))
  { h with cw := { h.cw with slotMap := m, tookS := some f.seq, held := (h.cw.held ++ [(⟨f.seq, f.fill, words⟩ : SlotFrame)]).drop (h.cw.held.length + 1 - 8) } }

/-- An S frame that the upstream port has missed (R262): counted, and the period moves on. -/
def sMissed (h : HostDie) : HostDie :=
  let h := nodeCount h 0 1
  { h with cw := { h.cw with missed := h.cw.missed + 1, lastS := h.cw.lastS.map (nextSeq h) } }

/-- An S frame sent on down, cut-through (R250, R259), with the gap frames that it cuts short (R271); its source is the port that sends it (R246). -/
def sForward (h : HostDie) (f : CwRx) (bad : Bool) (cut : List Port) : HostDie :=
  if forwards h.cw then
    (portsIn h.cw 1).foldl (fun h y => cwForward (if (cut.map portNo).contains y then cutShort h y else h) y
      { dst := f.dst.toNat, src := myMac h y, etype := f.etype.toNat, hdr := f.hdr, payload := cwBody f, pad := f.payload.length - (cwBody f).length, cut := bad }) h
  else h

/-- A valid S frame on the upstream port: forwarded and taken apart (R250, R262). -/
def sTake (h : HostDie) (f : CwRx) (cut : List Port) : HostDie :=
  let h := sForward h f false cut
  let h := { h with cw := { h.cw with missed := 0, lastS := some (hSeq f.hdr) } }
  if h.cw.state = 0 then h
  else takeApart h ⟨hSeq f.hdr, (hFlags f.hdr).testBit 0, wordsBE (cwBody f)⟩

/-- The standby port becomes the upstream port (R275, R276, R288). -/
def switchover (h : HostDie) (x u : Nat) : HostDie :=
  let subtree := h.cw.addr :: ((routedTo h.cw 3) ++ (routedTo h.cw 4) ++ (routedTo h.cw 2))
  let h := modPort (modPort h x (fun p => { p with role := 0 })) u (fun p => { p with role := 1 })
  let h := nodeCount { h with cw := { h.cw with onStandby := true, depth := h.cw.stDepth.getD h.cw.depth, path := h.cw.stPath, stDepth := none } } 6 1
  let runs := runsOf (subtree.mergeSort (fun a b => decide (a ≤ b)))
  let toks := tokensOwned { h.cw with owners := (h.cw.tokens.filter (fun e => decide (e.2 ≠ 0) && decide (e.2 ≠ toPort x))).map (fun e => (e.1, 32768)) } [0]
  let eff := aheadU h
  let h := { h with cw := { h.cw with joins := [], relocs := ((h.cw.addr, eff % 2 ^ 32) :: h.cw.relocs).take 16 } }
  cwQueue h x (cwE 6 (bytesBE 2 h.cw.addr ++ bytesBE 4 eff ++ bytesBE 2 runs.length ++ runBytes runs ++ bytesBE 2 toks.length ++
    toks.flatMap (bytesBE 2)))

/-- S_FRAME (R249, R250, R262, R264, R275): a frame that comes out of its window, or out of order, goes on down and counts as missing; one
whose period is counted already does not count again. -/
def sFrame (x : Nat) (f : CwRx) (cut : List Port) (h : HostDie) : HostDie :=
  let role := (cwPort h.cw x).role
  let r := cwCheck h x 0 f
  let h := r.1
  let onTime := decide (-1000 ≤ f.dev) && decide (f.dev ≤ 1000)
  let expected := match h.cw.lastS with | some s => decide (hSeq f.hdr = nextSeq h s) | none => true
  if r.2 = 1 then h
  else if r.2 ≠ 0 then if role = 0 then sMissed (sForward h f true cut) else h
  else if role = 0 then
    if onTime && expected then sTake h f cut
    else
      let h := sForward h f false cut
      if h.cw.lastS = some (hSeq f.hdr) then h
      else
        let h := sMissed h
        { h with cw := { h.cw with lastS := some (hSeq f.hdr) } }
  else if role = 2 ∧ 2 ≤ h.cw.missed ∧ onTime then
    match (List.range 3).find? (fun y => decide ((cwPort h.cw y).role = 0)) with
    | some u => sTake (switchover h x u) f cut
    | none => h
  else h

/-- STREAM_IN_HANDOFF (R18, R259, R262): the oldest frame held goes to the Weir. -/
def handoff (late : Bool) (h : HostDie) : HostDie :=
  match h.cw.held with
  | [] => h
  | f :: fs =>
    let h := { h with cw := { h.cw with held := fs } }
    if h.cw.state = 0 ∨ h.com.weir.farPresent = false then h
    else
      let h := if late then nodeCount h 1 1 else h
      { h with com := weirQueue h.com ⟨0, 0, 0, w32 f.seq :: w32 (periodAt h f.seq + 4 * b2n f.fill) :: f.slots⟩ }

/-- The head forms the slots of S frame `m` from a U frame through the source map (R270). -/
def formSlots (h : HostDie) (m : Nat) (u : List W32) (map : SlotMap) : List W32 :=
  let count := slotsAt h m
  (List.range (periodAt h m)).flatMap (fun i => (List.range count).map (fun s => takeSlot (tget 0 map.act s) 511 count (u.drop (i * count))))

/-- The part of a U frame that is merged when the S frame must start, while LOOP is below LOOP_MIN (R270): how far the merge has come is timing, so it is
free (log entry 4); the slots after that are 0. -/
def mergedPart (h : HostDie) (u : List W32) : HostDie × List W32 :=
  let d := draw h.com 0x2008
  let k := d.2.toNat % (u.length + 1)
  ({ h with com := d.1 }, u.take k ++ List.replicate (u.length - k) 0)

/-- S_FRAME_SEND (R260, R261, R267, R270, R271, R277): the head sends S frame m on every downstream port, cutting short the gap frames still on
their way there. -/
def sSend (cut : List Port) (h : HostDie) : HostDie :=
  if h.cw.isHead = false ∨ h.cw.slead = 0 ∨ h.cw.ulag = 0 then h
  else
    let m := match h.cw.formedS with | some s => nextSeq h s | none => periodFrom h (h.dt.tick + 1)
    let u := h.cw.merged.find? (fun g => decide ((g.seq + cwLoop h.cw * periodAt h m) % 2 ^ 32 = m))
    let map := mapOutside (mapApply h.cw.srcMap m) 511 (slotsAt h m)
    let h := outsideEvent h h.cw.srcMap map
    let short := decide (cwLoop h.cw < loopMin h)
    let got := (u.map (·.slots)).getD []
    let part := if short then mergedPart h got else (h, got)
    let h := part.1
    let slots := formSlots h m part.2 map
    let fill := match u with | some g => g.fill || short | none => true
    let h := if !short && u.any (fun g => !h.cw.lostU.contains g.seq) then h else nodeCount h 7 1
    let h := { h with cw := { h.cw with srcMap := map, formedS := some m } }
    let h := (portsIn h.cw 1).foldl (fun h x =>
      cwEmit (if (cut.map portNo).contains x then cutShort h x else h) x 0 (b2n fill) 0 0 0 m (beWords slots) false) h
    takeApart h ⟨m, fill, slots⟩

/-- U_FRAME (R249, R265): a child's frame in time is kept for the merge; one out of its window counts as missing there. One whose FCS
fails is merged cut-through and ends the node's own frame with a complemented FCS; the head, where it ends, discards it. -/
def uFrame (x : Nat) (f : CwRx) (h : HostDie) : HostDie :=
  let r := cwCheck h x 1 f
  if r.2 = 1 ∨ f.dev < -320 ∨ 320 < f.dev then r.1
  else if r.2 ≠ 0 ∧ (r.1.cw.isHead ∨ (cwPort r.1.cw x).role ≠ 1) then r.1
  else
    let h := if r.2 = 0 then creditResume r.1 x else { r.1 with cw := { r.1.cw with badKids := (x, hSeq f.hdr) :: r.1.cw.badKids } }
    { h with cw := { h.cw with children := (x, (⟨hSeq f.hdr, (hFlags f.hdr).testBit 0, wordsBE (cwBody f)⟩ : SlotFrame)) ::
                                 h.cw.children.filter (fun e => decide (e.1 ≠ x)) } }

/-- The node's own return word for U slot `s` of sub-frame `i` (R265, R266). -/
def ownReturn (c : Cw) (m : SlotMap) (ret : List W32) (i s count : Nat) : W32 :=
  match m.act.find? (fun e => e.2.testBit 15 && decide (e.2 % 512 = s) && decide (s < count) && decide (tget 0 c.tokens s = 1)) with
  | some e => wAt ret (32 * i + e.1)
  | none => 0

/-- U_FRAME_SEND (R265 to R268, R270, R271): entries due take effect, the return map commits, the slots are merged by the token table. -/
def uSend (cut : Bool) (h : HostDie) : HostDie :=
  if h.cw.slead = 0 ∨ h.cw.ulag = 0 ∨ forwards h.cw = false then h
  else
    let m := match h.cw.sentU with | some s => nextSeq h s | none => (h.dt.tick / hPeriod h * hPeriod h) % 2 ^ 32
    let n := periodAt h m
    let count := slotsAt h m
    let h := { h with cw := applyPend h.cw m }
    let map := mapOutside (mapApply h.cw.retMap m) 511 count
    let map := { map with noTok := (map.act.filter (fun e => e.2.testBit 15 && decide (tget 0 h.cw.tokens (e.2 % 512) ≠ 1))).map (fun e => (e.1, true)) }
    let h := outsideEvent h h.cw.retMap map
    let kids := (portsIn h.cw 1).filter (fun x => (cwPort h.cw x).peer && !standbyPeer h.cw x)
    let child := fun (x : Nat) => (h.cw.children.find? (fun e => decide (e.1 = x) && decide (e.2.seq = m))).map (·.2)
    let lost := (kids.filter (fun x => (child x).isNone)).length
    let mayReturn := !(h.cw.state = 0) && !h.cw.noaddr
    let ret := (h.cw.rets.find? (fun e => decide (e.1 % 2 ^ 32 = (m + 2 ^ 32 - n) % 2 ^ 32))).map (·.2)
    let noRet := ret.isNone && mayReturn
    let words := (List.range n).flatMap (fun i => (List.range count).map (fun s =>
      match tget 0 h.cw.tokens s with
      | 0 => (0 : W32)
      | 1 => if mayReturn then ownReturn h.cw map (ret.getD []) i s count else 0
      | k => match child (k - 2) with
        | some g => wAt g.slots (i * count + s)
        | none => 0))
    let clash := (kids.map (fun x => match child x with
      | some g => ((List.range (n * count)).filter (fun j => decide (wAt g.slots j ≠ 0) && decide (tget 0 h.cw.tokens (j % count) ≠ toPort x))).length
      | none => 0)).foldl (· + ·) 0
    let bad := (portsIn h.cw 1).any (fun x => (child x).isSome && h.cw.badKids.contains (x, m))
    let fill := decide (lost ≠ 0) || noRet || kids.any (fun x => match child x with | some g => g.fill | none => false)
    let h := nodeCount (nodeCount h 3 lost) 4 clash
    let h := if noRet then nodeCount h 2 1 else h
    let h := { h with cw := { h.cw with retMap := map, sentU := some m, children := h.cw.children.filter (fun e => decide (e.2.seq ≠ m)),
                                        badKids := h.cw.badKids.filter (fun e => decide (e.2 ≠ m)), rets := h.cw.rets.take 8 } }
    if h.cw.isHead then
      { h with cw := { h.cw with merged := ((⟨m, fill, words⟩ : SlotFrame) :: h.cw.merged).take 32,
                                 lostU := if lost = 0 ∧ h.cw.pend.all (·.token) then h.cw.lostU else (m :: h.cw.lostU).take 32 } }
    else match upPort h.cw with
      | some u => cwEmit (if cut then cutShort h u else h) u 1 (b2n fill) (srcWord h.cw) 3 0 m (beWords words) bad
      | none => h

/-! ### Register writes of the switch -/

/-- A switch reset (R32, R41, R247, R252, R259, R277): the switch, its ports and the tables in bank N go back to their reset values, but for what their rules
carry through it: HEAD_EN and the other bits of CW_CTRL, ETYPE and the address base, which come into force here, and the enumeration number, so that
the next one is new (log entry 35). Each port finishes the frame in progress. Sessions and subscriptions end (R311, R324). -/
def switchReset (h : HostDie) : HostDie :=
  let h := (List.range 3).foldl portDisable h
  let c := h.cw
  let ps := (List.range 3).foldl (fun (t : Tbl CwPort) x =>
    tput (cwPort0 x) t x { cwPort0 x with out := (cwPort c x).out, returned := (cwPort c x).returned }) []
  let c' := { cw0 (bit c.ctrl 8) with
                     ctrl := c.ctrl, etype := fld c.ctrl 31 16, macLo := c.macLo, macHi := c.macHi,
                     macUse := if bit c.macHi 31 then some ((fld c.macHi 15 0) * 2 ^ 32 + c.macLo.toNat) else none,
                     ports := ps, enumNo := c.enumNo }
  closeSessions { h with cw := c', leg := { h.leg with subs := [] } }

/-- STANDBY names another port (R275): the port named takes the standby role, and one named no more is downstream again. -/
def standbyRoles (h : HostDie) : HostDie :=
  if h.cw.onStandby then h
  else [1, 2].foldl (fun h y => modPort h y (fun p =>
    if p.role = 1 ∧ fld h.cw.ctrl 5 4 = y then { p with role := 2 } else if p.role = 2 ∧ fld h.cw.ctrl 5 4 ≠ y then { p with role := 1 } else p)) h

/-- A write of CW_CTRL: EN 0 disables every port and takes the node OFFLINE (R41, R259); AUDIT_NOW sends CAUDIT; REENUM starts a full
enumeration at the head; STANDBY 11b leaves the field. -/
def cwCtrlWrite (v : W32) (h : HostDie) : HostDie :=
  let keep := if fld v 5 4 = 3 then setFld v 5 4 (fld h.cw.ctrl 5 4) else v
  let old := fld h.cw.ctrl 5 4
  let h := { h with cw := { h.cw with ctrl := keep &&& 0xFFFF0131 } }
  let h := if fld keep 5 4 = old then h else standbyRoles h
  let h := if bit v 0 then h
    else (fun (h : HostDie) => { h with cw := { h.cw with state := 0 } }) ((List.range 3).foldl portDisable h)
  let h := if bit v 2 then cauditAll h else h
  if bit v 3 ∧ h.cw.isHead then startEnum h else h

/-- A write of CW_MDIO_CMD (R245). -/
def mdioWrite (v : W32) (h : HostDie) : HostDie :=
  let c := if bit v 17 then { h.cw with mdioRef := false } else h.cw
  if c.mdioBusy then { h with cw := { c with mdioRef := true } }
  else
    { h with cw := { c with mdioCmd := v &&& 0x7FFCFFFF, mdioBusy := bit v 31, mdioAddr := bit v 31 && bit v 30 && decide (fld v 29 28 ≠ 0) } }

/-- The end of an MDIO frame (R245): a clause 45 read or write goes on with its data frame. -/
def mdioDone (rdata : BitVec 16) (h : HostDie) : HostDie :=
  let c := h.cw
  if c.mdioBusy = false then h
  else if c.mdioAddr then { h with cw := { c with mdioAddr := false } }
  else
    let rd := if bit c.mdioCmd 30 then decide (2 ≤ fld c.mdioCmd 29 28) else decide (fld c.mdioCmd 29 28 = 2)
    { h with cw := { c with mdioBusy := false, mdioCmd := if rd then setFld c.mdioCmd 15 0 rdata.toNat else c.mdioCmd } }

/-- The anchor of a node that becomes head (R281), with its field side's pass counter and rate where that side is present. Without it the head counts on
from the last anchor that it received. -/
def headAnchor (h : HostDie) (field : Option (Nat × Nat)) : HostDie :=
  let prof := tget [] h.leg.prof 0x11
  if prof.length = 21 then
    { h with dt := { h.dt with anchorM := beAt prof 0 8, anchorT := timeOf (prof.drop 8), anchorR := beAt prof 20 1 } }
  else
    let sec := 1000000000 * 65536
    let t0 := (h.dt.time + sec - 1) / sec * sec + sec
    let rate := match field with | some (_, r) => r | none => hRate h
    let fs := rateHz rate
    let from' := fun (p t : Nat) => p + ((t0 - t) * fs + sec - 1) / sec
    let m := match field with
      | some (p, _) => from' p h.dt.time
      | none => if h.dt.anchored then from' h.dt.anchorM h.dt.anchorT else from' 0 h.dt.time
    { h with dt := { h.dt with anchorT := t0, anchorM := m + fs, anchorR := rate } }

/-- The anchor as the profile holds it (R334): M0, T0, rate code. -/
def anchorBytes (h : HostDie) : List Byte := bytesBE 8 h.dt.anchorM ++ timeBytes h.dt.anchorT ++ bytesBE 1 h.dt.anchorR

/-- What the head reports of its source (R289, R290): SRC 001b and 010b trace to TAI while the source is not lost. -/
def srcFresh (h : HostDie) : HostDie :=
  { h with dt := { h.dt with srcOk := false, srcHold := false, traceable := decide (fld h.dt.ctrl 2 0 = 1) || decide (fld h.dt.ctrl 2 0 = 2) } }

/-- HEAD_LISTEN_TIMEOUT (R252, R255, R281, R289, R294, R333, R335): its time is its own from here on, so it is in no holdover. -/
def becomeHead (fd : FieldDie) (h : HostDie) : HostDie :=
  if bit h.cw.ctrl 8 = false ∨ h.cw.isHead ∨ h.cw.state ≠ 0 ∨ bit h.cw.ctrl 0 = false then h
  else
    let h := headAnchor h (if h.com.weir.farPresent then some (fd.mer.pcnt, rateOf fd.mer) else none)
    let e := (if h.leg.savedEp.toNat < h.leg.discEp.toNat then h.leg.discEp else h.leg.savedEp) + 1
    let h := { h with leg := { h.leg with epoch := if e = 0 then 1 else e, prof := tput [] h.leg.prof 0x11 (anchorBytes h), profEp := some (if e = 0 then 1 else e), stale := false } }
    let udn := h.com.fuses.udn.toNat
    let h := srcFresh { h with cw := { h.cw with isHead := true, addr := 0, noaddr := false, depth := 0, path := 0, state := 3, headUdn := udn,
                                                 sys := udn % 256, discSeen := true },
                               dt := { h.dt with holdover := false, hold := 0, lock := false, lockRun := 0 } }
    let h := closeSessions h
    let h := match (List.range 3).find? (portUp h.cw) with | some y => headSpeed h (cwPort h.cw y).speed1000 | none => h
    startEnum h

/-- OFFLINE_TIMEOUT (R259): a node that enters AUTONOMOUS is in holdover (R297). -/
def offlineTimeout (h : HostDie) : HostDie :=
  if h.cw.state = 0 ∧ h.cw.isHead = false ∧ h.cw.overflow = false then enterHoldover { h with cw := { h.cw with state := 4 } } else h

/-- UPSTREAM_LOST (R259, R297): no standby switchover is possible. -/
def upstreamLost (h : HostDie) : HostDie :=
  let standby := h.cw.stDepth.isSome && decide (portsIn h.cw 2 ≠ [])
  if h.cw.isHead ∨ standby ∨ (h.cw.state ≠ 1 ∧ h.cw.state ≠ 2 ∧ h.cw.state ≠ 3 ∧ h.cw.state ≠ 5) then h
  else enterHoldover { h with cw := { h.cw with state := 4 } }

/-- DISCOVER_SEND (R254). -/
def discoverSend (h : HostDie) : HostDie := if h.cw.isHead then discoverDown h false else h

/-- REPORT_TIMEOUT (R255). -/
def reportTimeout (h : HostDie) : HostDie := if h.cw.toReport then headMins (sendReport h h.cw.joining) else h

/-- REPORT_RESEND (R274). -/
def reportResend (h : HostDie) : HostDie :=
  if h.cw.awaiting then sendReport { h with cw := { h.cw with toReport := true } } h.cw.joining else h

end Sys2Proof.Machine
end

