-- ==== Sys2Proof/Machine/DatumOps.lean ====
section
/-! DEFINITION. Datum (R280 to R299): time transfer, the class, holdover, ticks, TIME_MARKs, rate changes, the head's source. -/

namespace Sys2Proof.Machine

/-- A host command that reads the field side's state and changes the host die alone. -/
def onHostSee (f : FieldDie → HostDie → HostDie) (d : Dies) : Dies := onHost (f d.field) d

/-- Its answer. -/
def hostSeeCmd (f : FieldDie → HostDie → HostDie) (s : State) : Host.Outcome State Fault Refusal := ans s (onHostSee f)

/-- Units of 2^-16 ns for a number of picoseconds. -/
def psUnits (p : Int) : Int := p * 65536 / 1000

/-- Picoseconds for a number of 2^-16 ns. -/
def unitsPs (u : Int) : Int := u * 1000 / 65536

/-- One step of the integer square root, a bit at a time. -/
def isqrtGo (n : Nat) : Nat → Nat → Nat
  | 0, r => r
  | b + 1, r => if (r + 2 ^ b) * (r + 2 ^ b) ≤ n then isqrtGo n b (r + 2 ^ b) else isqrtGo n b r

/-- The square root of a number below 2^80, to the nearest whole number. -/
def isqrt (n : Nat) : Nat :=
  let r := isqrtGo n 40 0
  if r < n - r * r then r + 1 else r

/-- The instant of tick m (R281) for an anchor and a rate, in 2^-16 ns, rounded down. -/
def tickTime (m0 t0 rate m : Nat) : Int :=
  (t0 : Int) + ((m : Int) - (m0 : Int)) * (65536000000000 : Int) / (rateHz rate : Int)

/-- The first tick at or after a Datum time (R282). -/
def passOfTime (m0 t0 rate t : Nat) : Nat :=
  ((m0 : Int) - (((t0 : Int) - (t : Int)) * (rateHz rate : Int)) / 65536000000000).toNat

/-- A time signed as a natural number, none before the epoch. -/
def natTime (t : Int) : Nat := t.toNat

/-- The value of a profile entry in force (R334), a default where it holds none. -/
def profVal (h : HostDie) (sub d : Nat) : Nat :=
  match tget [] h.leg.prof sub with
  | [] => d
  | bs => ofBytesBE bs

/-- TEMP_OK (R294): both dies from -20 to +95 °C, and neither changed by more than 1 °C in 60 s; units of 0.25 °C. -/
def tempOkOf (hh hf : List (Int × Nat)) : Bool :=
  let ok := fun (l : List (Int × Nat)) =>
    match l with
    | [] => false
    | (t, _) :: _ => decide (-80 ≤ t) && decide (t ≤ 380) && l.all (fun e => decide (e.1 - t ≤ 4) && decide (t - e.1 ≤ 4))
  ok hh && ok hf

/-- A reading added to a history of at most `cap` samples held as runs. -/
def histAdd (l : List (Int × Nat)) (t : Int) (cap : Nat) : List (Int × Nat) :=
  let l := match l with
    | (u, n) :: r => if u = t then (u, n + 1) :: r else (t, 1) :: l
    | [] => [(t, 1)]
  (l.foldl (fun (p : List (Int × Nat) × Nat) e =>
    if p.2 = 0 then p else (p.1 ++ [(e.1, min e.2 p.2)], p.2 - min e.2 p.2)) ([], cap)).1

/-- The systematic and random terms of the time-path port (R292), doubled where TEMP_OK is 0. -/
def hopTerms (h : HostDie) (x : Nat) : Nat × Nat :=
  let p := tget dtPort0 h.dt.ports x
  let k := if h.dt.tempOk then 1 else 2
  if bit p.cfg 0 then (15 * k, 20 * k) else (fld p.cfg 31 16 * k, 100 * k)

/-- The time-path port. -/
def timePort (h : HostDie) : Nat := (upPort h.cw).getD 0

/-- S and V of the node (R292), 0 at the head. -/
def ownS (h : HostDie) : Nat := if h.cw.isHead then 0 else h.dt.upS + (hopTerms h (timePort h)).1
def ownV (h : HostDie) : Nat :=
  if h.cw.isHead then 0 else h.dt.upV + (hopTerms h (timePort h)).2 * (hopTerms h (timePort h)).2

/-- A bound in ps: S + 6 √V + 500 (R292). -/
def boundOf (s v : Nat) : Nat := s + isqrt (36 * v) + 500

/-- LIMIT (R294): UPSTREAM, MEDIUM, DEPTH, TEMP, FIELD, BOUND from bit 0. -/
def limitOf (f : FieldDie) (h : HostDie) : Nat :=
  let fieldOk := h.com.weir.farPresent && f.mer.tickLock && f.aud.osc.lock && !f.mer.coast
  if h.cw.isHead then 0
  else b2n (decide (h.dt.upCls ≠ 0)) + 2 * b2n (!bit (tget dtPort0 h.dt.ports (timePort h)).cfg 0) + 4 * b2n (decide (64 < h.cw.depth)) +
    8 * b2n (!h.dt.tempOk) + 16 * b2n (!fieldOk) + 32 * b2n (decide (2500 < h.dt.bound))

/-- The class that the conditions give (R294, R297, R299). -/
def classOf (f : FieldDie) (h : HostDie) : Nat :=
  let coast := h.com.weir.farPresent && f.mer.coast
  if h.dt.numConfl then 4
  else if h.cw.isHead then 0
  else if h.dt.everLock = false then 4
  else if h.dt.holdover then (if fld h.dt.ctrl 31 16 < h.dt.hold.toNat then 4 else 3)
  else if coast then 3
  else if h.dt.lock ∧ limitOf f h = 0 then 0
  else if h.dt.lock ∧ h.dt.upCls ≤ 1 ∧ h.dt.bound ≤ 25000 then 1
  else if h.dt.lock ∧ h.dt.upCls ≤ 2 ∧ h.dt.bound ≤ 500000 then 2
  else if h.dt.upCls = 3 then 3
  else 4

/-- The Datum condition of R296: class below MIN_CLASS while SAFE_ON_TIME is 1. -/
def datumCond (h : HostDie) : Bool := decide (profVal h 0x0B 0 = 1) && decide (profVal h 0x0A 4 < h.dt.cls)

/-- RUNNING and SAFE follow the Datum condition and the stop (R259, R296). -/
def safeMove (h : HostDie) : HostDie :=
  let st := h.cw.state
  let st := if st = 3 ∧ (datumCond h ∨ h.leg.stopped) then 5 else if st = 5 ∧ datumCond h = false ∧ h.leg.stopped = false then 3 else st
  { h with cw := { h.cw with state := st } }

/-- A new class: a TIME_MARK is due and an EVENT is sent (R295). -/
def setClass (h : HostDie) (c : Nat) : HostDie :=
  hostEventRaw { h with dt := { h.dt with cls := c, markDue := true } } .classChange [w32 c]

/-- The bound, LIMIT and TEMP_OK as they stand, and a fall of class where a cause has occurred (R292, R294, R295). -/
def classFall (f : FieldDie) (h : HostDie) : HostDie :=
  let h := { h with dt := { h.dt with tempOk := tempOkOf h.dt.histH h.dt.histF,
                                      numConfl := if h.com.weir.farPresent then f.mer.numConflict else h.dt.numConfl } }
  let h := { h with dt := { h.dt with bound := min (boundOf (ownS h) (ownV h)) 0xFFFFFF } }
  let h := { h with dt := { h.dt with limit := limitOf f h } }
  let c := classOf f h
  let h := if h.dt.cls < c then setClass { h with dt := { h.dt with cnt := ctrAdd h.dt.cnt 0 1 } } c else h
  safeMove h

/-- CLASS_RISE (R295): the higher class's conditions have held for 10 s. -/
def classRise (f : FieldDie) (h : HostDie) : HostDie :=
  let h := classFall f h
  if classOf f h < h.dt.cls then safeMove (setClass h (classOf f h)) else h

/-- The head writes its anchor into the profile in force (R281, R335). -/
def anchorToProfile (h : HostDie) : HostDie :=
  if h.cw.isHead then { h with leg := { h.leg with prof := tput [] h.leg.prof 0x11 (anchorBytes h) } } else h

/-- The rate change of R298 made: tick n + 1 keeps its old instant and anchors the new spacing; LOOP_MIN follows the rate at the head (R270). -/
def rateApply (h : HostDie) (n code : Nat) : HostDie :=
  let t := natTime (tickTime h.dt.anchorM h.dt.anchorT h.dt.anchorR (n + 1))
  headMins (anchorToProfile { h with dt := { h.dt with anchorM := n + 1, anchorT := t, anchorR := code, ratePend := none, rateOld := some (n, h.dt.anchorR),
                                                       rateRes := if h.cw.isHead then 2 else h.dt.rateRes } })

/-- Whole seconds of the holdover (R297). -/
def holdCount (h : HostDie) : HostDie :=
  if h.dt.holdover then { h with dt := { h.dt with hold := w32 ((h.dt.time - h.dt.holdFrom) / 65536000000000) } } else h

/-- TICK_EMIT (R283, R297, R298). -/
def tickEmit (m : W64) (fd : FieldDie) (h : HostDie) : HostDie :=
  let h := match h.dt.ratePend with
    | some (n, code) => if n < m.toNat then rateApply h n code else h
    | none => h
  let t := tickTime h.dt.anchorM h.dt.anchorT h.dt.anchorR m.toNat
  let slots3 := 3 * 65536000000000 / (rateHz h.dt.anchorR * passLen h.dt.anchorR)
  let out := t - (Config.tickDelay + slots3 + 4 * 65536 : Nat)
  let g := holdCount { h with dt := { h.dt with tick := m.toNat, time := natTime out, sinceMark := h.dt.sinceMark + 1 }, ticks := (m.toNat, out) :: h.ticks }
  if g.dt.hold = h.dt.hold then g else classFall fd g

/-- The message of TIME_MARK for the tick 8 ahead (R18, R28, R298). R18 does not say how the instant lies in words 2 to 4: the fraction lowest, the seconds
highest, is the model's choice (DESIGN CHOICE, log entry 62). -/
def timeMark (h : HostDie) : WMsg :=
  let m := h.dt.tick + 8
  let p := match h.dt.ratePend with
    | some (n, code) => if n < m then
        (tickTime (n + 1) (natTime (tickTime h.dt.anchorM h.dt.anchorT h.dt.anchorR (n + 1))) code m, code)
      else (tickTime h.dt.anchorM h.dt.anchorT h.dt.anchorR m, h.dt.anchorR)
    | none => (tickTime h.dt.anchorM h.dt.anchorT h.dt.anchorR m, h.dt.anchorR)
  ⟨8, 0, 0, [lo32 (BitVec.ofNat 64 m), hi32 (BitVec.ofNat 64 m)] ++ wordsOfBytes ((timeBytes (natTime p.1)).reverse) ++
    [w32 (h.dt.cls + p.2 * 256)]⟩

/-- TIME_MARK_SEND (R28). -/
def timeMarkSend (h : HostDie) : HostDie :=
  { h with com := weirQueue h.com (timeMark h), dt := { h.dt with sinceMark := 0, markDue := false } }

/-- T_REQ_SEND at `t1` (R285, R288): the exchange before, still open, is a missing T_RESP; 32 of them in a row lose the upstream time. -/
def tReqSend (x : Nat) (t1 : Nat) (fd : FieldDie) (h : HostDie) : HostDie :=
  let role := (cwPort h.cw x).role
  if portUp h.cw x = false ∨ (role ≠ 0 ∧ role ≠ 2) ∨ h.cw.isHead then h
  else
    let q := tget dtPort0 h.dt.ports x
    let cnt := if q.open' ∧ role = 0 then ctrAdd h.dt.cnt 3 1 else h.dt.cnt
    let q := { q with exNo := (q.exNo + 1) % 65536, t1 := (t1 : Int) + psUnits ((tget 0 h.com.fuses.txCal x : Nat) : Int), open' := true,
                      lost := if q.open' then q.lost + 1 else q.lost }
    let h := { h with dt := { h.dt with cnt := cnt, time := t1, ports := tput dtPort0 h.dt.ports x q } }
    let h := if role = 0 ∧ 32 ≤ q.lost then classFall fd (enterHoldover h) else h
    cwQueue h x (cwTx 2 3 0 (bytesBE 1 1 ++ bytesBE 2 q.exNo))

/-- The T_RESP of the node (R285, R297, R298): t3 is put in as the frame leaves. -/
def tRespBody (h : HostDie) (exNo t2 : Nat) : List Byte :=
  let p := h.dt.ratePend.getD (0, 255)
  bytesBE 1 2 ++ bytesBE 2 exNo ++ timeBytes t2 ++ timeBytes 0 ++ bytesBE 1 (if h.dt.holdover then max 3 h.dt.cls else h.dt.cls) ++
    bytesBE 2 h.cw.depth ++ bytesBE 4 (ownS h) ++ bytesBE 4 (ownV h) ++ bytesBE 8 h.dt.anchorM ++ timeBytes h.dt.anchorT ++
    bytesBE 1 h.dt.anchorR ++ bytesBE 8 p.1 ++ bytesBE 1 p.2 ++ bytesBE 1 (b2n h.dt.traceable + 2 * b2n h.dt.srcHold)

/-- T_REQ (R285): answered in the next gap; an exchange of the link's calibration is counted (R286). -/
def tReqRx (x : Nat) (f : CwRx) (h : HostDie) : HostDie :=
  let r := cwCheck h x 2 f
  if r.2 ≠ 0 then r.1
  else
    let h := creditResume r.1 x
    let b := cwBody f
    if beAt b 0 1 ≠ 1 ∨ (cwPort h.cw x).role ≠ 1 then h
    else
      let t2 := natTime ((f.at' : Int) - psUnits ((tget 0 h.com.fuses.rxCal x : Nat) : Int))
      let h := { h with dt := { h.dt with time := f.at', ports := tmod dtPort0 h.dt.ports x (fun q => { q with calN := q.calN + 1 }) } }
      cwQueue h x (cwTx 2 3 0 (tRespBody h (beAt b 1 2) t2))

/-- The measurement of one exchange (R285): forward delay and offset, in 2^-16 ns. -/
def exchange (t1 t2 t3 t4 asym : Int) : Int × Int :=
  let mean := ((t4 - t1) - (t3 - t2)) / 2
  let fwd := mean + asym / 2
  (fwd, (t2 - t1) - fwd)

/-- The loop of R287 on an offset: a step above 10 µs, else a correction; LOCK after 4 s below 200 ps. `w`: the time since the exchange before, in
steps of 125 µs. -/
def loopRun (h : HostDie) (offset : Int) (w : Nat) : HostDie :=
  let big := 10000 * 65536
  if offset < -big ∨ big < offset then
    hostEventRaw { h with dt := { h.dt with time := natTime ((h.dt.time : Int) - offset), slew := 0, lockRun := 0,
                                            cnt := ctrAdd h.dt.cnt 2 1 } } .timeStep [ofI (unitsPs offset)]
  else
    let near := decide (offset.natAbs * 1000 < 200 * 65536)
    let run := if near then h.dt.lockRun + w else 0
    let lock := h.dt.lock || decide (32000 ≤ run)
    { h with dt := { h.dt with slew := Config.loopStep offset, lockRun := min run 32000, lock := lock, everLock := h.dt.everLock || lock } }

/-- The rate change that a T_RESP tells of (R298): the pending one, or, where the upstream has made it already, the one that its anchor shows. -/
def rateTold (h : HostDie) (m0 t0 code n pend : Nat) : Option (Nat × Nat) :=
  if pend ≠ 255 then some (n, pend)
  else if h.dt.anchored ∧ code ≠ h.dt.anchorR ∧ 0 < m0 ∧ t0 = natTime (tickTime h.dt.anchorM h.dt.anchorT h.dt.anchorR m0) then some (m0 - 1, code)
  else none

/-- A rate change learnt from upstream (R298): it waits for tick n, or is made at once where that has passed, and counted where it was not known. -/
def rateLearn (h : HostDie) (n code : Nat) : HostDie :=
  if h.dt.anchorM = n + 1 ∧ h.dt.anchorR = code then h
  else if h.dt.tick ≤ n then { h with dt := { h.dt with ratePend := some (n, code) } }
  else rateApply { h with dt := { h.dt with cnt := if h.dt.ratePend = some (n, code) then h.dt.cnt else ctrAdd h.dt.cnt 4 1 } } n code

/-- The anchor of a T_RESP adopted (R299), but for one that only shows a change of rate. -/
def anchorAdopt (h : HostDie) (m0 t0 code : Nat) (told : Option (Nat × Nat)) : HostDie :=
  let h := if told = some (m0 - 1, code) ∧ 0 < m0 then h else { h with dt := { h.dt with anchorM := m0, anchorT := t0, anchorR := code } }
  { h with dt := { h.dt with anchored := true } }

/-- T_RESP (R285 to R288, R292, R298, R299). -/
def tRespRx (x : Nat) (f : CwRx) (fd : FieldDie) (h : HostDie) : HostDie :=
  let r := cwCheck h x 2 f
  if r.2 ≠ 0 then r.1
  else
    let h := creditResume r.1 x
    let b := cwBody f
    let role := (cwPort h.cw x).role
    let q := tget dtPort0 h.dt.ports x
    if b.length ≠ 69 ∨ beAt b 0 1 ≠ 2 ∨ (role ≠ 0 ∧ role ≠ 2) ∨ q.open' = false ∨ q.exNo ≠ beAt b 1 2 then h
    else
      let e := exchange q.t1 (timeOf (slice b 3 12)) (timeOf (slice b 15 12)) ((f.at' : Int) - psUnits ((tget 0 h.com.fuses.rxCal x : Nat) : Int)) (psUnits q.asym.toInt)
      let fwdPs := (unitsPs e.1).toNat
      let w := if q.calDone ∨ 256 ≤ q.calN then 8 else 1
      let q := { q with open' := false, lost := 0, calN := if q.calDone then q.calN else q.calN + 1,
                        calSum := if q.calDone then q.calSum else q.calSum + unitsPs e.1,
                        pdly := if q.calDone then w32 (Config.delayFilter q.pdly.toNat fwdPs) else q.pdly }
      let h := { h with dt := { h.dt with time := f.at', ports := tput dtPort0 h.dt.ports x q } }
      if role = 2 then
        let lim := h.dt.bound + boundOf (beAt b 30 4 + (hopTerms h x).1) (beAt b 34 4 + (hopTerms h x).2 * (hopTerms h x).2)
        let off := (unitsPs e.2).natAbs
        if lim < off ∧ h.dt.stDiff = false then hostEventRaw { h with dt := { h.dt with stDiff := true } } .standbyDiff [w32 off] else h
      else
        let h := { h with dt := { h.dt with upCls := beAt b 27 1, upDepth := beAt b 28 2, upS := beAt b 30 4, upV := beAt b 34 4,
                                            traceable := (beAt b 68 1).testBit 0, srcHold := (beAt b 68 1).testBit 1,
                                            holdover := false } }
        let m0 := beAt b 38 8
        let t0 := timeOf (slice b 46 12)
        let told := rateTold h m0 t0 (beAt b 58 1) (beAt b 59 8) (beAt b 67 1)
        let h := anchorAdopt h m0 t0 (beAt b 58 1) told
        let h := match told with | some (n, code) => rateLearn h n code | none => h
        classFall fd (loopRun h e.2 w)

/-- CAL_DONE (R286): the mean of the 256 exchanges becomes the link's forward delay. -/
def calDone (x : Nat) (h : HostDie) : HostDie :=
  let q := tget dtPort0 h.dt.ports x
  if (cwPort h.cw x).link = false ∨ q.calDone ∨ q.calN < 256 then h
  else { h with dt := { h.dt with ports := tput dtPort0 h.dt.ports x { q with calDone := true, pdly := w32 (q.calSum / (q.calN : Int)).toNat } } }

/-- TIME_LOST (R288, R297): the time path has been silent for 32 exchanges. -/
def timeLost (f : FieldDie) (h : HostDie) : HostDie := if h.cw.isHead then h else classFall f (enterHoldover h)

/-- HOLDOVER_EXPIRY (R297): HOLD exceeds HOLD_MAX. -/
def holdoverExpiry (f : FieldDie) (h : HostDie) : HostDie :=
  if h.dt.holdover then classFall f { h with dt := { h.dt with hold := w32 (max h.dt.hold.toNat (fld h.dt.ctrl 31 16 + 1)) } } else h

/-- A rate change judged at the head (R298): the RESULT. -/
def rateJudge (f : FieldDie) (h : HostDie) (n code : Nat) : Nat :=
  let pcnt := if h.com.weir.farPresent then f.mer.pcnt else h.dt.tick
  if h.cw.isHead = false then 4
  else if h.dt.ratePend.isSome then 5
  else if 6 ≤ code ∨ code % 2 ≠ h.dt.anchorR % 2 then 4
  else if n < pcnt + rateHz h.dt.anchorR then 3
  else 1

/-- The judged request taken (R298): the pending change of an accepted one. -/
def rateTake (f : FieldDie) (h : HostDie) (n code : Nat) : HostDie :=
  let r := rateJudge f h n code
  { h with dt := { h.dt with rateRes := r, ratePend := if r = 1 then some (n, code) else h.dt.ratePend } }

/-- A write of DT_RATE_CMD. -/
def rateCmdWrite (v : W32) (f : FieldDie) (h : HostDie) : HostDie :=
  let h := { h with dt := { h.dt with rateNew := fld v 11 8 } }
  if bit v 0 then rateTake f h (w64of h.dt.rateLo h.dt.rateHi).toNat (fld v 11 8) else h

/-- SRC of DT_CTRL. -/
def dtSrc (h : HostDie) : Nat := fld h.dt.ctrl 2 0

/-- The head's source is present and gives an offset to slew away (R289, R290). -/
def srcPresent (h : HostDie) (offset : Int) (traceable : Bool) : HostDie :=
  { h with dt := { h.dt with srcOk := true, srcHold := false, traceable := traceable, slew := offset } }

/-- SRC_OFS_WRITE (R289): one offset of 2^-8 ns units. -/
def srcOfsWrite (v : W32) (h : HostDie) : HostDie := if h.cw.isHead ∧ dtSrc h = 1 then srcPresent h (v.toInt * 256) true else h

/-- TPPS_EDGE (R289): the edge is the TAI second written; `est` is the Datum estimate at it. -/
def tppsEdge (est : Nat) (h : HostDie) : HostDie :=
  let h := { h with dt := { h.dt with time := est } }
  if h.cw.isHead ∧ dtSrc h = 2 then
    srcPresent h (((h.dt.secLo.toNat + fld h.dt.secHi 15 0 * 2 ^ 32) * 1000000000 * 65536 : Nat) - (est : Int)) true
  else h

/-- WCKI_EDGE (R289): tick edges take the phase of the edge. -/
def wckiEdge (est : Nat) (h : HostDie) : HostDie :=
  let h := { h with dt := { h.dt with time := est } }
  if h.cw.isHead ∧ dtSrc h = 3 then
    let m := passOfTime h.dt.anchorM h.dt.anchorT h.dt.anchorR est
    let a := tickTime h.dt.anchorM h.dt.anchorT h.dt.anchorR m - est
    let b := (est : Int) - tickTime h.dt.anchorM h.dt.anchorT h.dt.anchorR (m - 1)
    srcPresent h (if a ≤ b then a else -b) false
  else h

/-- SRC_LOST (R290): the frequency is held. -/
def srcLost (h : HostDie) : HostDie :=
  if h.cw.isHead ∧ dtSrc h ≠ 0 then { h with dt := { h.dt with srcOk := false, srcHold := true, traceable := false } } else h

/-- TIME_STEP (R290): GO at the head steps Datum time forward by STEP_MS. -/
def timeStep (v : W32) (h : HostDie) : HostDie :=
  if bit v 31 ∧ h.cw.isHead then { h with dt := { h.dt with time := h.dt.time + fld v 15 0 * 1000000 * 65536 } } else h

/-! ### The class judged at its cause (R295) -/

/-- A write of CW_PCTLx, CW_CTRL: a port disabled can lose the upstream time. -/
def pctlSee (x : Nat) (v : W32) (fd : FieldDie) (h : HostDie) : HostDie :=
  let g := pctlWrite h x v
  if bit v 2 ∧ bit h.cw.ctrl 0 then g else classFall fd g
def cwCtrlSee (v : W32) (fd : FieldDie) (h : HostDie) : HostDie :=
  let g := cwCtrlWrite v h
  if bit v 0 then g else classFall fd g

/-- An S frame: a switchover changes the depth and the time path. -/
def sFrameSee (x : Nat) (f : CwRx) (cut : List Port) (fd : FieldDie) (h : HostDie) : HostDie :=
  let g := sFrame x f cut h
  if g.cw.onStandby = h.cw.onStandby then g else classFall fd g

/-- What the field side brings to the class (R294, R299): none while it is absent. -/
def fieldTimes (d : Dies) : Option (Bool × Bool × Bool) :=
  if d.host.com.weir.farPresent then some (d.field.mer.numConflict, d.field.mer.tickLock && d.field.aud.osc.lock, d.field.mer.coast) else none

/-- A change on the field side that moves the class, its cause, is judged at once (R295, R299; log entry 61). -/
def heard (d e : Dies) : Dies :=
  if e.host.com.runs ∧ fieldTimes d ≠ fieldTimes e then { e with host := classFall e.field e.host } else e

/-- The answer of a command of the field side or the Weir after which the host side judges its class. -/
def ansHeard (s : State) (f : Dies → Dies) : Host.Outcome State Fault Refusal := ans s (fun d => heard d (f d))
def fieldHeard (f : FieldDie → FieldDie) (s : State) : Host.Outcome State Fault Refusal := ansHeard s (onField f)

/-! ### The commands of Causeway and Datum -/

def execPortLinkUp (x : Port) (speed1000 anDone remoteFault : Bool) (s : State) := hostCmd (fun h => linkUp h (portNo x) speed1000 anDone remoteFault) s
def execPortLinkDown (x : Port) (s : State) := hostSeeCmd (fun f h => classFall f (linkDown h (portNo x))) s
def execSpeedTryTimeout (x : Port) (s : State) := hostCmd (fun h => speedTry h (portNo x)) s
def execPortEnWrite (x : Port) (v : W32) (s : State) := hostSeeCmd (pctlSee (portNo x) v) s
def execCwEnWrite (v : W32) (s : State) := hostSeeCmd (cwCtrlSee v) s
def execMdioGo (v : W32) (s : State) := hostCmd (mdioWrite v) s
def execMdioFrameDone (rdata : BitVec 16) (s : State) := hostCmd (mdioDone rdata) s
def execSFrame (x : Port) (f : CwRx) (cut : List Port) (s : State) := hostSeeCmd (sFrameSee (portNo x) f cut) s
def execSFrameSend (cut : List Port) (s : State) := hostCmd (sSend cut) s
def execSFrameMissing (s : State) := hostCmd (fun h => if h.cw.isHead then h else sMissed h) s
def execStreamInHandoff (late : Bool) (s : State) := hostCmd (handoff late) s
def execUFrame (x : Port) (f : CwRx) (s : State) := hostCmd (uFrame (portNo x) f) s
def execUFrameSend (cut : Bool) (s : State) := hostCmd (uSend cut) s
def execGapFrameSend (x : Port) (room t : Nat) (s : State) := hostCmd (fun h => gapSend h (portNo x) room t) s
def execTReq (x : Port) (f : CwRx) (s : State) := hostCmd (tReqRx (portNo x) f) s
def execTReqSend (x : Port) (t1 : Nat) (s : State) := hostSeeCmd (tReqSend (portNo x) t1) s
def execTResp (x : Port) (f : CwRx) (s : State) := hostSeeCmd (tRespRx (portNo x) f) s
def execCalDone (x : Port) (s : State) := hostCmd (calDone (portNo x)) s
def execTimeLost (s : State) := hostSeeCmd timeLost s
def execLearnAge (mac : BitVec 48) (s : State) :=
  hostCmd (fun h => { h with cw := { h.cw with learn := h.cw.learn.filter (fun e => decide (e.1 ≠ mac.toNat)) } }) s
def execDiscover (x : Port) (f : CwRx) (s : State) := hostSeeCmd (fun fd h => classFall fd (linkMsg 5 (some 1) discoverRx (portNo x) f h)) s
def execDiscoverSend (s : State) := hostCmd discoverSend s
def execHeadListenTimeout (s : State) := hostSeeCmd (fun fd h => if h.cw.isHead then h else classFall fd (becomeHead fd h)) s
def execReenum (v : W32) (s : State) := hostSeeCmd (cwCtrlSee v) s
def execReport (x : Port) (f : CwRx) (s : State) := hostCmd (linkMsg 5 (some 2) reportRx (portNo x) f) s
def execReportTimeout (s : State) := hostCmd reportTimeout s
def execReportResend (s : State) := hostCmd reportResend s
def execAssignMsg (x : Port) (f : CwRx) (s : State) := hostCmd (linkMsg 5 (some 3) assignRx (portNo x) f) s
def execGrant (x : Port) (f : CwRx) (s : State) := hostCmd (linkMsg 5 (some 4) (fun h x b => grantRx h x true b) (portNo x) f) s
def execRevoke (x : Port) (f : CwRx) (s : State) := hostCmd (linkMsg 5 (some 5) (fun h x b => grantRx h x false b) (portNo x) f) s
def execRelocate (x : Port) (f : CwRx) (s : State) := hostCmd (linkMsg 5 (some 6) relocateRx (portNo x) f) s
def execRouteMsg (x : Port) (f : CwRx) (s : State) := hostCmd (linkMsg 5 (some 7) routeRx (portNo x) f) s
def execLeave (x : Port) (f : CwRx) (s : State) := hostCmd (linkMsg 5 (some 8) leaveRx (portNo x) f) s
def execAddrHoldExpiry (addr : BitVec 12) (s : State) := hostCmd (fun h => holdExpiry h addr.toNat) s
def execOfflineTimeout (s : State) := hostSeeCmd (fun f h => classFall f (offlineTimeout h)) s
def execUpstreamLost (s : State) := hostSeeCmd (fun f h => classFall f (upstreamLost h)) s
def execTokenAuditSend (s : State) := hostCmd tokenAudit s
def execTokenAudit (x : Port) (f : CwRx) (s : State) := hostCmd (linkMsg 4 (some (Config.aOp 0)) tokenAuditRx (portNo x) f) s
def execDispute (x : Port) (f : CwRx) (s : State) := hostCmd (linkMsg 4 (some (Config.aOp 1)) disputeRx (portNo x) f) s
def execCrelOnly (x : Port) (f : CwRx) (s : State) := hostCmd (linkMsg 4 none (fun h _ _ => h) (portNo x) f) s
def execCauditSend (s : State) := hostCmd cauditAll s
def execCwAuditNow (v : W32) (s : State) := hostSeeCmd (cwCtrlSee v) s
def execCaudit (x : Port) (f : CwRx) (s : State) := hostCmd (linkMsg 4 (some (Config.aOp 2)) cauditRx (portNo x) f) s
def execCresync (x : Port) (f : CwRx) (s : State) := hostCmd (linkMsg 4 (some (Config.aOp 3)) (fun h x _ => cresyncRx h x) (portNo x) f) s
def execCresyncAck (x : Port) (f : CwRx) (s : State) := hostCmd (linkMsg 4 (some (Config.aOp 4)) cresyncAckRx (portNo x) f) s
def execCinit (x : Port) (f : CwRx) (s : State) := hostCmd (linkMsg 4 (some (Config.aOp 5)) (fun h x _ => cinitRx h x) (portNo x) f) s
def execTickEmit (m : W64) (s : State) := hostSeeCmd (tickEmit m) s
def execTimeMarkSend (s : State) := hostCmd timeMarkSend s
def execRateChangeReq (v : W32) (s : State) := hostSeeCmd (rateCmdWrite v) s
def execTimeStep (v : W32) (s : State) := hostCmd (timeStep v) s
def execSrcOfsWrite (v : W32) (s : State) := hostCmd (srcOfsWrite v) s
def execTppsEdge (est : Nat) (s : State) := hostCmd (tppsEdge est) s
def execWckiEdge (est : Nat) (s : State) := hostCmd (wckiEdge est) s
def execSrcLost (s : State) := hostCmd srcLost s
def execClassRise (s : State) := hostSeeCmd classRise s
def execHoldoverExpiry (s : State) := hostSeeCmd holdoverExpiry s

end Sys2Proof.Machine
end

