-- ==== Sys2Proof/Machine/LegendTab.lean ====
section
/-! DEFINITION. The Legend entries of the manual's tables (R75, R162, R189, R215, R242, R278, R300, R304, R334, R376, R423), as rows. -/

namespace Sys2Proof.Machine

/-- A row of a Legend table: indexes lo to hi, sub-indexes sl to sh, type code, size in bytes, access (0 RO, 1 RW, 2 WO, 3 RWC, 4 CMD),
least roles for reading and for writing (0 none, 1 OPERATOR, 2 ENGINEER, 3 MAINTENANCE), DFLAGS of R317, and the side that holds it. -/
structure LegRow where
  lo   : Nat
  hi   : Nat
  sl   : Nat
  sh   : Nat
  typ  : Nat
  size : Nat
  acc  : Nat
  rr   : Nat
  wr   : Nat
  fl   : Nat
  field : Bool
  deriving DecidableEq, Repr

/-- A row of the host side. -/
def hrow (lo hi sl sh typ size acc rr wr fl : Nat) : LegRow := ⟨lo, hi, sl, sh, typ, size, acc, rr, wr, fl, false⟩

/-- A row of the field side: any session reads it, ENGINEER writes it. -/
def frow (lo hi sl sh typ size acc fl : Nat) : LegRow := ⟨lo, hi, sl, sh, typ, size, acc, 1, if acc = 0 then 0 else 2, fl, true⟩

/-- Node control, sessions, profile, events (R304, R334). -/
def rowsNode : List LegRow :=
  [ hrow 0x0000 0x0000 0x01 0x02 0x04 4 0 0 0 0, hrow 0x0000 0x0000 0x03 0x03 0x05 8 0 0 0 0, hrow 0x0000 0x0000 0x04 0x04 0x03 2 0 0 0 0,
    hrow 0x0000 0x0000 0x05 0x05 0x10 1 0 0 0 0, hrow 0x0000 0x0000 0x06 0x07 0x04 4 0 0 0 0, hrow 0x0000 0x0000 0x08 0x08 0x0D 64 1 1 2 1,
    hrow 0x0010 0x0010 0x01 0x02 0x0E 0 4 0 3 0, hrow 0x0010 0x0010 0x03 0x03 0x0E 0 4 0 2 0, hrow 0x0010 0x0010 0x04 0x04 0x0E 0 4 0 3 0,
    hrow 0x0100 0x0100 0x01 0x01 0x0E 16 0 0 0 0, hrow 0x0100 0x0100 0x02 0x02 0x0E 65 4 0 0 0, hrow 0x0100 0x0100 0x03 0x03 0x0E 0 4 0 1 0,
    hrow 0x0100 0x0100 0x04 0x04 0x0E 120 0 3 0 0, hrow 0x0100 0x0100 0x05 0x06 0x03 2 1 1 3 1, hrow 0x0110 0x0110 0x01 0x08 0x03 2 1 1 2 1,
    hrow 0x0120 0x0120 0x01 0x03 0x0E 48 2 0 3 1 ]

/-- The system profile, the epoch, program tags, events, service counters, watches. -/
def rowsProfile : List LegRow :=
  [ hrow 0x0200 0x0200 0x01 0x08 0x04 4 1 1 3 1, hrow 0x0200 0x0200 0x09 0x0A 0x10 1 1 1 3 1, hrow 0x0200 0x0200 0x0B 0x0C 0x01 1 1 1 3 1,
    hrow 0x0200 0x0200 0x0D 0x0D 0x10 1 1 1 3 1, hrow 0x0200 0x0200 0x0E 0x0F 0x04 4 1 1 3 1, hrow 0x0200 0x0200 0x10 0x10 0x05 8 1 1 3 1,
    hrow 0x0200 0x0200 0x11 0x11 0x0E 21 0 1 0 1, hrow 0x0200 0x0200 0x12 0x12 0x0D 64 1 1 3 1, hrow 0x0200 0x0200 0x20 0x20 0x0E 256 0 1 0 0,
    hrow 0x0200 0x0200 0x21 0x21 0x0E 0 4 0 3 4, hrow 0x0210 0x0210 0x01 0x01 0x04 4 0 1 0 0, hrow 0x0210 0x0210 0x02 0x02 0x0E 0 4 0 3 4,
    hrow 0x0210 0x0210 0x03 0x03 0x02 1 0 1 0 0, hrow 0x0210 0x0210 0x04 0x04 0x01 1 0 1 0 0, hrow 0x0220 0x0220 0x01 0x02 0x04 4 1 1 2 0,
    hrow 0x0220 0x0220 0x03 0x03 0x04 4 0 1 0 0, hrow 0x0300 0x0300 0x01 0x01 0x0E 64 0 1 0 0, hrow 0x0400 0x0400 0x01 0x08 0x04 4 1 1 2 16,
    hrow 0x9000 0x9000 0x01 0x20 0x0E 8 1 1 2 1, hrow 0x9000 0x9000 0x21 0x21 0x04 4 1 1 2 0 ]

/-- Datum and Causeway (R278, R300). -/
def rowsNet : List LegRow :=
  [ hrow 0x1000 0x1000 0x01 0x01 0x10 1 0 1 0 0, hrow 0x1000 0x1000 0x02 0x03 0x04 4 0 1 0 0, hrow 0x1000 0x1000 0x04 0x04 0x0F 12 0 1 0 0,
    hrow 0x1000 0x1000 0x05 0x05 0x0E 20 0 1 0 0, hrow 0x1000 0x1000 0x06 0x06 0x10 1 1 1 3 5, hrow 0x1000 0x1000 0x07 0x07 0x0E 3 1 1 2 1,
    hrow 0x1000 0x1000 0x08 0x08 0x04 4 0 1 0 0, hrow 0x1000 0x1000 0x09 0x09 0x0E 9 4 0 2 4, hrow 0x1000 0x1000 0x0A 0x0A 0x03 2 4 0 3 4,
    hrow 0x1100 0x1102 0x01 0x01 0x04 4 1 1 2 1, hrow 0x1100 0x1102 0x02 0x02 0x08 4 1 1 2 1, hrow 0x1100 0x1102 0x03 0x04 0x04 4 0 1 0 0,
    hrow 0x2000 0x2000 0x01 0x80 0x03 2 1 1 2 11, hrow 0x2000 0x2000 0x81 0x81 0x04 4 4 0 2 0, hrow 0x2000 0x2000 0x82 0x82 0x0E 256 0 1 0 0,
    hrow 0x2000 0x2000 0x83 0x83 0x04 4 0 1 0 0, hrow 0x2100 0x2100 0x01 0x20 0x03 2 1 1 2 3, hrow 0x2100 0x2100 0x21 0x21 0x04 4 4 0 2 0,
    hrow 0x2100 0x2100 0x22 0x23 0x0E 64 0 1 0 0, hrow 0x2180 0x2180 0x01 0x08 0x0E 128 1 1 2 5, hrow 0x2200 0x2200 0x01 0x08 0x0E 128 1 1 2 7,
    hrow 0x2200 0x2200 0x09 0x09 0x04 4 4 0 2 4, hrow 0x2300 0x2300 0x01 0x01 0x03 2 1 1 2 5, hrow 0x2300 0x2300 0x02 0x02 0x02 1 1 1 2 5,
    hrow 0x2300 0x2300 0x03 0x04 0x04 4 1 1 2 5, hrow 0x2300 0x2300 0x05 0x06 0x04 4 0 1 0 4, hrow 0x2300 0x2300 0x07 0x07 0x02 1 0 1 0 4,
    hrow 0x2300 0x2300 0x08 0x08 0x03 2 1 1 2 5, hrow 0x2300 0x2300 0x09 0x09 0x0E 0 4 0 2 4, hrow 0x2300 0x2300 0x0A 0x0A 0x10 1 1 1 2 1,
    hrow 0x2400 0x2402 0x01 0x01 0x04 4 1 1 2 0, hrow 0x2400 0x2402 0x02 0x02 0x04 4 0 1 0 0, hrow 0x2400 0x2402 0x03 0x03 0x0E 32 1 1 2 16 ]

/-- Boot, trust, update, integrity, fault log (R376, R423). -/
def rowsTrust : List LegRow :=
  [ hrow 0x8000 0x8000 0x01 0x01 0x10 1 0 1 0 0, hrow 0x8000 0x8000 0x02 0x02 0x03 2 0 1 0 0, hrow 0x8000 0x8000 0x03 0x03 0x0E 16 0 1 0 0,
    hrow 0x8000 0x8000 0x04 0x04 0x0E 225 4 0 3 0, hrow 0x8000 0x8000 0x05 0x05 0x0E 224 4 0 3 0, hrow 0x8000 0x8000 0x06 0x06 0x0E 4 0 1 0 0,
    hrow 0x8000 0x8000 0x07 0x08 0x0E 224 4 0 3 0, hrow 0x8010 0x8010 0x01 0x01 0x10 1 0 1 0 0, hrow 0x8010 0x8010 0x02 0x05 0x04 4 0 1 0 0,
    hrow 0x8010 0x8010 0x06 0x06 0x0E 32 0 1 0 0, hrow 0x8010 0x8010 0x07 0x07 0x10 1 0 1 0 0, hrow 0x8010 0x8010 0x08 0x08 0x0E 128 0 1 0 0,
    hrow 0x8020 0x8020 0x01 0x08 0x0E 48 0 1 0 0, hrow 0x8020 0x8020 0x09 0x09 0x0E 49 4 0 2 0, hrow 0x8020 0x8020 0x0A 0x0A 0x0E 16 0 1 0 0,
    hrow 0x8020 0x8020 0x10 0x10 0x0E 48 0 1 0 0, hrow 0x8030 0x8030 0x01 0x01 0x0E 32 4 0 2 0, hrow 0x8030 0x8030 0x02 0x02 0x0E 768 0 1 0 0,
    hrow 0x8030 0x8030 0x03 0x03 0x0E 96 0 1 0 0, hrow 0x8030 0x8030 0x04 0x04 0x0E 1024 0 1 0 0, hrow 0x8040 0x8040 0x01 0x01 0x04 4 4 0 3 0,
    hrow 0x8040 0x8040 0x02 0x02 0x0E 25165824 2 0 3 0, hrow 0x8040 0x8040 0x03 0x03 0x0E 16 0 1 0 0, hrow 0x8040 0x8040 0x04 0x04 0x02 1 4 0 3 0,
    hrow 0x8040 0x8040 0x05 0x05 0x0E 0 4 0 3 0, hrow 0x8040 0x8040 0x06 0x06 0x0E 13 4 0 0 0, ⟨0x8040, 0x8040, 0x10, 0x10, 0x03, 2, 2, 0, 3, 0, true⟩,
    ⟨0x9100, 0x9100, 0x01, 0x06, 0x0E, 8, 0, 1, 0, 0, true⟩, hrow 0x9100 0x9100 0x07 0x0A 0x0E 8 0 1 0 0,
    ⟨0x9100, 0x9100, 0x0B, 0x0C, 0x0E, 8, 0, 1, 0, 0, true⟩, hrow 0x9100 0x9100 0x0D 0x0D 0x0E 8 0 1 0 0,
    ⟨0x9100, 0x9100, 0x0E, 0x0E, 0x0E, 8, 0, 1, 0, 0, true⟩, hrow 0x9100 0x9100 0x0F 0x0F 0x0E 8 0 1 0 0,
    ⟨0x9100, 0x9100, 0x10, 0x10, 0x0E, 8, 0, 1, 0, 0, true⟩, ⟨0x9100, 0x9100, 0x11, 0x16, 0x02, 1, 1, 1, 2, 0, true⟩,
    hrow 0x9100 0x9100 0x17 0x1A 0x02 1 1 1 2 0, ⟨0x9100, 0x9100, 0x1B, 0x1C, 0x02, 1, 1, 1, 2, 0, true⟩, hrow 0x9100 0x9100 0x1D 0x1D 0x02 1 1 1 2 0,
    ⟨0x9100, 0x9100, 0x1E, 0x1E, 0x02, 1, 1, 1, 2, 0, true⟩, hrow 0x9100 0x9100 0x1F 0x1F 0x02 1 1 1 2 0,
    ⟨0x9100, 0x9100, 0x20, 0x20, 0x02, 1, 1, 1, 2, 0, true⟩, ⟨0x9100, 0x9100, 0x30, 0x30, 0x0E, 32, 0, 1, 0, 0, true⟩,
    hrow 0x9100 0x9100 0x40 0x40 0x0E 3 4 0 3 0, ⟨0x9100, 0x9100, 0x41, 0x41, 0x0E, 256, 2, 0, 2, 0, true⟩,
    hrow 0x9200 0x9200 0x01 0x06 0x0E 16 1 1 2 16, ⟨0x9200, 0x9200, 0x07, 0x0E, 0x0E, 16, 1, 1, 2, 16, true⟩, hrow 0x9200 0x9200 0x20 0x20 0x0E 2 4 0 3 0,
    hrow 0x9200 0x9200 0x21 0x21 0x10 1 0 1 0 0, hrow 0x9300 0x9300 0x01 0x01 0x04 4 0 1 0 32, hrow 0x9300 0x9300 0x02 0x02 0x0E 1048576 0 1 0 0,
    hrow 0x9300 0x9300 0x03 0x03 0x0E 0 4 0 3 0 ]

/-- The field side's entries (R75, R162, R189, R215, R242). -/
def rowsField : List LegRow :=
  [ frow 0x4000 0x4000 0x01 0x01 0x05 8 4 2, frow 0x4000 0x4000 0x02 0x02 0x04 4 1 1, frow 0x4000 0x4000 0x03 0x04 0x10 1 0 0,
    frow 0x4000 0x4000 0x05 0x05 0x03 2 1 0, frow 0x4000 0x4000 0x06 0x06 0x10 1 0 0, frow 0x4000 0x4000 0x07 0x07 0x10 1 1 0,
    frow 0x4000 0x4000 0x08 0x08 0x0E 0 4 0, frow 0x4001 0x4001 0x01 0x01 0x05 8 0 32, frow 0x4001 0x4001 0x02 0x02 0x04 4 1 16,
    frow 0x4002 0x4002 0x01 0x04 0x0E 32 1 0, frow 0x4002 0x4002 0x05 0x05 0x0E 20 4 0, frow 0x4002 0x4002 0x06 0x06 0x10 1 0 0,
    frow 0x4002 0x4002 0x07 0x07 0x03 2 4 0, frow 0x4002 0x4002 0x08 0x08 0x04 4 1 16, frow 0x4010 0x410F 0x01 0x01 0x04 4 1 1,
    frow 0x4010 0x410F 0x02 0x02 0x04 4 0 0, frow 0x4010 0x410F 0x10 0x10 0x0E 131072 1 11, frow 0x4010 0x410F 0x11 0x11 0x0E 131072 0 0,
    frow 0x4200 0x4200 0x01 0x01 0x03 2 1 0, frow 0x4200 0x4200 0x02 0x02 0x0E 8192 1 0, frow 0x4200 0x4200 0x03 0x03 0x01 1 1 0,
    frow 0x4200 0x4200 0x04 0x04 0x0E 0 4 0, frow 0x4200 0x4200 0x05 0x05 0x0E 8192 0 0, frow 0x4200 0x4200 0x06 0x06 0x04 4 0 0,
    frow 0x6000 0x63FF 0x01 0x02 0x04 4 1 1, frow 0x6000 0x63FF 0x03 0x03 0x01 1 1 1, frow 0x6000 0x63FF 0x04 0x04 0x04 4 0 32,
    frow 0x6400 0x6BFF 0x01 0x01 0x04 4 1 1, frow 0x6400 0x6BFF 0x02 0x02 0x05 8 1 11, frow 0x6400 0x6BFF 0x03 0x03 0x05 8 0 0,
    frow 0x6400 0x6BFF 0x04 0x04 0x04 4 0 0, frow 0x6C00 0x6C00 0x01 0x04 0x04 4 1 1, frow 0x6C00 0x6C00 0x05 0x06 0x0E 0 4 0,
    frow 0x6C00 0x6C00 0x07 0x07 0x04 4 0 0, frow 0x6C00 0x6C00 0x08 0x09 0x05 8 0 0, frow 0x6C00 0x6C00 0x0A 0x0A 0x04 4 0 0,
    frow 0x6D00 0x6D00 0x01 0x02 0x0E 20 4 0, frow 0x6D00 0x6D00 0x03 0x03 0x10 1 0 0, frow 0x6D00 0x6D00 0x10 0x4F 0x0E 16 1 1,
    frow 0x7000 0x7017 0x01 0x01 0x04 4 1 11, frow 0x7000 0x7017 0x02 0x02 0x04 4 0 0, frow 0x7000 0x7017 0x03 0x03 0x01 1 1 1,
    frow 0x7000 0x7017 0x04 0x04 0x04 4 1 1, frow 0x7000 0x7017 0x05 0x06 0x04 4 0 0, frow 0x7000 0x7017 0x07 0x07 0x07 2 0 0,
    frow 0x7000 0x7017 0x08 0x08 0x04 4 1 33, frow 0x7100 0x7100 0x01 0x04 0x04 4 1 11, frow 0x7100 0x7100 0x05 0x08 0x04 4 0 0,
    frow 0x7100 0x7100 0x09 0x0C 0x04 4 1 1, frow 0x7100 0x7100 0x10 0x10 0x04 4 1 1, frow 0x7100 0x7100 0x20 0x20 0x04 4 1 1,
    frow 0x7100 0x7100 0x21 0x21 0x08 4 1 1, frow 0x7100 0x7100 0x22 0x22 0x08 4 0 0, frow 0x7100 0x7100 0x23 0x23 0x04 4 0 0,
    frow 0x7100 0x7100 0x24 0x24 0x07 2 0 0, frow 0x7200 0x7200 0x01 0x10 0x04 4 1 11, frow 0x7200 0x7200 0x21 0x30 0x01 1 1 1,
    frow 0x7200 0x7200 0x41 0x50 0x04 4 0 0, frow 0x7200 0x7200 0x61 0x70 0x04 4 0 0, frow 0x7200 0x7200 0x80 0x80 0x04 4 1 1,
    frow 0x7800 0x781F 0x01 0x01 0x04 4 1 11, frow 0x7800 0x781F 0x02 0x02 0x04 4 0 0, frow 0x7800 0x781F 0x03 0x03 0x01 1 1 1,
    frow 0x7800 0x781F 0x04 0x04 0x04 4 1 1, frow 0x7800 0x781F 0x05 0x05 0x04 4 0 0, frow 0x7800 0x781F 0x06 0x06 0x04 4 1 33,
    frow 0x7800 0x7800 0x10 0x17 0x0E 128 1 11, frow 0x7800 0x7800 0x18 0x1F 0x0E 128 0 0, frow 0x7800 0x7800 0x20 0x21 0x04 4 1 1,
    frow 0x7900 0x7907 0x01 0x01 0x04 4 1 1, frow 0x7900 0x7907 0x02 0x02 0x03 2 1 1, frow 0x7900 0x7907 0x03 0x03 0x04 4 1 1,
    frow 0x7900 0x7907 0x04 0x04 0x03 2 1 1, frow 0x7900 0x7907 0x05 0x05 0x04 4 1 1, frow 0x7900 0x7907 0x06 0x06 0x04 4 0 0,
    frow 0x7900 0x7900 0x10 0x10 0x0E 13 4 0, frow 0x7900 0x7900 0x11 0x11 0x10 1 0 0 ]

/-- Every row. -/
def legRows : List LegRow := rowsNode ++ rowsProfile ++ rowsNet ++ rowsTrust ++ rowsField

/-- What an index and sub-index name (R301): no object, no such entry of the object, or a row. -/
inductive EntRes where
  | noObject
  | noSub
  | row (r : LegRow)
  deriving DecidableEq, Repr

/-- Entries that a profile makes read-only away from the head (R278, R334). -/
def roAway (idx : Nat) : Bool := idx = 0x0200 || idx = 0x2300

/-- The fixed entry of an index and sub-index. -/
def legRow (idx sub : Nat) : EntRes :=
  let rs := legRows.filter (fun r => decide (r.lo ≤ idx) && decide (idx ≤ r.hi))
  if rs = [] then .noObject
  else match rs.find? (fun r => decide (r.sl ≤ sub) && decide (sub ≤ r.sh)) with
    | some r => .row r
    | none => .noSub

/-- The binding-table entry that binds an application entry (R160): the first that matches. In a table that is not in ascending order, where the rule
lets a lookup miss an entry, none is missed (DESIGN CHOICE, log entry 60). -/
def bindFind (t : Tbl W32) (nent idx sub : Nat) : Option Nat :=
  (List.range nent).find? (fun e =>
    let w0 := tget 0 t (2 * e)
    let w1 := tget 0 t (2 * e + 1)
    decide (fld w0 15 0 = idx) && decide (fld w0 23 16 = sub) && decide (0xA000 ≤ idx) && decide (idx ≤ 0xEFFF) &&
      decide (fld w1 14 0 + fld w1 19 16 ≤ 0x7FFF))

/-- A bound application entry as a row (R160, R306, R308). -/
def bindRow (t : Tbl W32) (e idx sub : Nat) : LegRow :=
  let w0 := tget 0 t (2 * e)
  let w1 := tget 0 t (2 * e + 1)
  let rw := bit w1 22 && decide (fld w1 21 20 ≠ 3)
  ⟨idx, idx, sub, sub, fld w0 31 24, 4 * (fld w1 19 16 + 1), if rw then 1 else 0, 1, fld w1 21 20 + 1, if rw then 11 else 2, true⟩

/-- The entry that a request names, with the active binding table of the field side (R301). -/
def entryOf (fd : FieldDie) (idx sub : Nat) : EntRes :=
  if 0xA000 ≤ idx ∧ idx ≤ 0xEFFF then
    match bindFind fd.cg.bindAct fd.cg.nentAct idx sub with
    | some e => .row (bindRow fd.cg.bindAct e idx sub)
    | none => .noObject
  else legRow idx sub

/-! ### Values on the Weir (R305, R18) -/

/-- Bytes in groups of four as big-endian words, the last group padded with zero bytes on the right. -/
def beGroups : List Byte → List W32
  | a :: b :: c :: d :: t => w32 (ofBytesBE [a, b, c, d]) :: beGroups t
  | [] => []
  | l => [w32 (ofBytesBE (fixLen 4 l))]

/-- The types whose value is a number of one or two bytes. -/
def smallType (typ : Nat) : Bool := typ = 1 || typ = 2 || typ = 3 || typ = 6 || typ = 7 || typ = 16

/-- A Legend value as Weir words (R305; the layout is log entry 15): a number low word first, any other value in groups of four bytes. -/
def packWords (typ : Nat) (b : List Byte) : List W32 :=
  if b = [] then []
  else if (typ = 5 ∨ typ = 9) ∧ b.length = 8 then [w32 (ofBytesBE (b.drop 4)), w32 (ofBytesBE (b.take 4))]
  else if smallType typ then [w32 (ofBytesBE b)]
  else beGroups b

/-- The big-endian value of Weir words. -/
def unpackWords (typ len : Nat) (ws : List W32) : List Byte :=
  if (typ = 5 ∨ typ = 9) ∧ len = 8 then bytesBE 4 (wAt ws 1).toNat ++ bytesBE 4 (wAt ws 0).toNat
  else if smallType typ then bytesBE len (wAt ws 0).toNat
  else (ws.flatMap (fun w => bytesBE 4 w.toNat)).take len

/-- A PARAM_WRITE (R18): word 2 holds the length, and for a BLOB written at an offset that in [31:9] (log entry 15); FLAGS[0] is STAGED. -/
def paramWriteMsg (staged : Bool) (rid rseq idx sub typ off : Nat) (data : List Byte) : WMsg :=
  ⟨2, 0, b2n staged, [w32 (rid * 65536 + rseq), w32 (idx * 65536 + sub * 256 + typ), w32 (off * 512 + data.length)] ++ packWords typ data⟩

/-- A PARAM_READ (R18). -/
def paramReadMsg (rid rseq idx sub typ : Nat) : WMsg := ⟨3, 0, 0, [w32 (rid * 65536 + rseq), w32 (idx * 65536 + sub * 256 + typ)]⟩

end Sys2Proof.Machine
end

