-- ==== Sys2Proof/Machine/PassOps.lean ====
section
/-! DEFINITION. The pass sequencer (R42 to R75): control, ticks, TIME_MARKs, swaps, chain frames, the IN frame, STREAM_RET. -/

namespace Sys2Proof.Machine

/-- A change of the sequencer. -/
def modMer (f : FieldDie) (g : Mer → Mer) : FieldDie := { f with mer := g f.mer }

/-- `n` events on engine counter `i`, in offset order from MER_CNT_TLATE. -/
def merCount (m : Mer) (i n : Nat) : Mer := { m with cnt := ctrAdd m.cnt i n }

/-! ### TIME_MARKs and numbers (R28, R46) -/

/-- A TIME_MARK received: the tick it names is the `ahead`-th from now. -/
def markOf (m : Mer) (ws : List W32) (ahead : Nat) : Mark :=
  { idx := m.tix + ahead, pass := (w64of (wAt ws 0) (wAt ws 1)).toNat, tai := [wAt ws 2, wAt ws 3, wAt ws 4], cls := fld (wAt ws 5) 2 0,
    rate := fld (wAt ws 5) 11 8 }

/-- The later of two marks by the tick they name; the one received last on a tie. -/
def laterMark (a : Option Mark) (b : Mark) : Option Mark :=
  match a with
  | none => some b
  | some k => if k.idx ≤ b.idx then some b else some k

/-- The TIME_MARK in force for the tick with index `j` (R295): of those that name it or an earlier tick, the latest. -/
def markAt (m : Mer) (j : Nat) : Option Mark :=
  ((m.mark.toList ++ m.marks).filter (fun k => decide (k.idx ≤ j))).foldl laterMark none

/-- The TIME_MARK received last. -/
def lastMark (m : Mer) : Option Mark := m.marks.getLast?.orElse (fun _ => m.mark)

/-- A TIME_MARK has been received since field power-on. -/
def markHeld (m : Mer) : Bool := m.mark.isSome || !m.marks.isEmpty

/-- The marks that name a tick up to `j` leave the list of those not yet compared. -/
def marksTo (m : Mer) (j : Nat) : Mer :=
  { m with mark := markAt m j, marks := m.marks.filter (fun k => decide (j < k.idx)) }

/-- The number that a mark gives the tick with index `j`. -/
def markNum (k : Mark) (j : Nat) : Nat := k.pass + j - k.idx

/-- The comparison of R46 at the decision on the number of tick `j`: the number carried from the uncompared marks, and whether one of them
numbers its tick below the count. `base` is the local count's number. -/
def compareMarks (m : Mer) (j base : Nat) : Nat × Bool :=
  (m.marks.filter (fun k => decide (k.idx ≤ j))).foldl (fun (p : Nat × Bool) k =>
    let v := markNum k j
    if p.1 < v then (v, p.2) else if v < p.1 then (p.1, true) else p) (base, false)

/-- NUM_CONFLICT (R46). -/
def setConflict (f : FieldDie) : FieldDie :=
  fieldEvent (modMer f (fun m => { m with numConflict := true })) .numConflict [w32 f.mer.pcnt]

/-- The number of the first pass due while passes are stopped (R35, R47, R48), where it is known. -/
def firstDue (m : Mer) : Option Nat :=
  let count := if m.ran ∧ m.seamDone = false then m.pcnt + 1 else m.pcnt
  match m.pend with
  | .none => none
  | .local => some (if m.ran then count else match lastMark m with | some k => markNum k (m.tix + 1) | none => 0)
  | .chain renum _ =>
    match markAt m (m.tix + 1) with
    | some k => some (if renum ∨ !m.ran then markNum k (m.tix + 1) else (compareMarks m (m.tix + 1) count).1)
    | none => (m.marks.head?).map (·.pass)

/-! ### Running and stopping (R47 to R51, R35) -/

/-- FAMILY of OSC_CTL agrees with RATE, and the engine PLL is locked (R49). -/
def familyOk (f : FieldDie) : Bool := (family48 (rateOf f.mer) == !bit f.aud.osc.ctl 12) && f.aud.osc.pllLock

/-- Passes are to start: by the tick source that MER_CTRL selects (R47, R48). -/
def armStart (m : Mer) : Mer :=
  { m with srcUse := fld m.ctrl 2 1, pend := if fld m.ctrl 2 1 = 0 then .chain false true else .local }

/-- A write of MER_CTRL (R45, R49, R51). While no pass runs a write of RUN 1 is judged by R49 also where RUN is 1 already and passes wait to start: refused,
it leaves RUN 0. -/
def merCtrlWrite (v : W32) (f : FieldDie) : FieldDie :=
  let m := f.mer
  let c := setBit m.ctrl 5 (bit v 5)
  let c := if fld v 4 3 ≤ 1 then setFld c 4 3 (fld v 4 3) else c
  let c := if fld v 2 1 ≤ 1 then setFld c 2 1 (fld v 2 1) else c
  let c := if !m.running ∧ fld v 11 8 ≤ 5 then setFld c 11 8 (fld v 11 8) else c
  let f := { f with mer := { m with ctrl := c } }
  let m := f.mer
  if bit v 0 then
    if m.running ∨ familyOk f then
      let m := { m with ctrl := setBit c 0 true }
      { f with mer := if m.running ∨ f.erHeld ∨ bit c 0 then m else armStart m }
    else { f with mer := { m with ctrl := setBit c 0 false, pend := .none, famRefused := true } }
  else { f with mer := { m with ctrl := setBit c 0 false, pend := .none, stopReq := m.stopReq || m.running } }

/-- WAIT_MARK (R47): RUN is 1, and TICK_LOCK of the Weir or a TIME_MARK is wanting. -/
def waitMark (tickLock : Bool) (m : Mer) : Bool :=
  bit m.ctrl 0 && (match m.pend with
    | .chain _ lock => !(markHeld m && (tickLock || !lock))
    | _ => false)

/-- MER_STAT. -/
def merStat (tickLock : Bool) (m : Mer) : W32 :=
  w32 (b2n m.famRefused * 256 + b2n m.numConflict * 128 + b2n m.realignWait * 64 + b2n m.swap.isSome * 32 + b2n m.store1 * 16 +
    b2n m.coast * 8 + b2n m.tickLock * 4 + b2n (waitMark tickLock m) * 2 + b2n m.running)

/-- MER_TICK. -/
def merTick (m : Mer) : W32 := w32 (m.strayRun % 256 * 65536 + wrapN 16 m.tickErr)

/-! ### Swaps (R69, R72) -/

/-- PLEN of the shadow store. -/
def shadowLen (m : Mer) : Nat := fld (if m.store1 then m.plen0 else m.plen1) 15 0

/-- The verdict on a request (R69) in the order of its table. -/
def swapVerdict (m : Mer) : Nat :=
  let chg := bit m.swapCtl 12
  let nr := fld m.swapCtl 11 8
  let n := (w64of m.swapLo m.swapHi).toNat
  if m.swap.isSome then 5
  else if chg ∧ (5 < nr ∨ family48 nr ≠ family48 (rateOf m)) then 6
  else if shadowLen m ≠ passLen (if chg then nr else rateOf m) - 16 then 4
  else if isLate m n then 3
  else 1

/-- REQ: a request is judged. -/
def swapAsk (m : Mer) : Mer :=
  let r := swapVerdict m
  let req : SwapReq := ⟨(w64of m.swapLo m.swapHi).toNat, if bit m.swapCtl 12 then some (fld m.swapCtl 11 8) else none⟩
  { m with swapResult := r, swap := if r = 1 then some req else m.swap }

/-- CANCEL: a pending swap is withdrawn where it comes in time (R72). -/
def swapDrop (m : Mer) : Mer :=
  match m.swap with
  | some r => if isLate m r.pass then m else { m with swap := none, swapResult := 7 }
  | none => m

/-- A write of MER_SWAP_CTRL: the fields, then CANCEL, then REQ. -/
def swapCtlWrite (v : W32) (m : Mer) : Mer :=
  let m := { m with swapCtl := v &&& 0x00001F00 }
  let m := if bit v 1 then swapDrop m else m
  if bit v 0 then swapAsk m else m

/-- MER_SWAP_CTRL as read. -/
def swapCtlWord (m : Mer) : W32 := setFld m.swapCtl 18 16 m.swapResult

/-- Passes resume at number `n` (R51): a pending swap whose pass has gone by is refused as late. -/
def swapRejudge (m : Mer) (n : Nat) : Mer :=
  match m.swap with
  | some r => if r.pass < n then { m with swap := none, swapResult := 3 } else m
  | none => m

/-! ### Ticks (R28, R55 to R57, R452) -/

/-- The classification restarts (R452), when the timer is set in phase with a tick. -/
def trackReset (m : Mer) : Mer :=
  { m with tickLock := false, onRun := 0, missRun := 0, strayRun := 0, strayFirst := 0, strayLast := 0, strayNow := none, strayIn := false }

/-- A pass with both a missing tick and a stray joins the stray run, once (R57). -/
def strayJoin (f : FieldDie) : FieldDie :=
  let m := f.mer
  match m.tickCur, m.strayNow with
  | some r, some e =>
    if r.missing ∧ !m.strayIn then
      let same := decide (0 < m.strayRun) && decide ((e - m.strayFirst).natAbs ≤ 2)
      let n := if same then min 8 (m.strayRun + 1) else 1
      let m := { m with strayIn := true, strayRun := n, strayFirst := if same then m.strayFirst else e, strayLast := e }
      if n = 8 ∧ !m.realignWait then fieldEvent { f with mer := { m with realignWait := true } } .realignWait [w32 m.pcnt]
      else { f with mer := m }
    else f
  | _, _ => f

/-- The tick of a slot 0 accepted (R55): on time, late or early. -/
def tickAccept (e : Int) (m : Mer) : Mer :=
  let late := decide (3 ≤ e)
  let early := decide (e ≤ -3)
  let r : TickRec := ⟨e, late, early, false⟩
  let m := { m with tickErr := e, missRun := 0, tickCur := if 0 ≤ e then some r else m.tickCur, tickNext := if 0 ≤ e then m.tickNext else some r }
  if late ∨ early then { merCount m (if late then 0 else 1) 1 with tickLock := false, onRun := 0 }
  else
    let n := min 16 (m.onRun + 1)
    { m with onRun := n, tickLock := m.tickLock || decide (n = 16), coast := false, realignWait := false }

/-- A stray tick (R55): counted, and tracked for a realignment. -/
def tickStray (e : Int) (f : FieldDie) : FieldDie :=
  strayJoin { f with mer := { merCount f.mer 3 1 with tickLock := false, onRun := 0, strayNow := some e } }

/-- A tick becomes usable with tick error `e`: counted until the timer is first in phase, classified while passes run on the chain tick. -/
def tickClass (e : Int) (f : FieldDie) : FieldDie :=
  let f := modMer f (fun m => if m.phased then m else { m with tix := m.tix + 1 })
  let m := f.mer
  if !m.running then { f with mer := { m with tickNext := if m.phased ∧ e < 0 then some ⟨e, false, false, false⟩ else m.tickNext } }
  else if m.srcUse ≠ 0 then f
  else if -64 ≤ e ∧ e ≤ 64 ∧ (if 0 ≤ e then m.tickCur else m.tickNext) = none then { f with mer := tickAccept e m }
  else tickStray e f

/-- TICK_LOCK of the Weir (R28): an edge has come while the lane is calibrated. -/
def weirTick (f : FieldDie) : FieldDie :=
  if f.com.weir.tickCal then { f with com := { f.com with weir := { f.com.weir with tickLock := true } } } else f

/-- TICK_LANE_TIMEOUT. -/
def tickTimeout (f : FieldDie) : FieldDie := { f with com := { f.com with weir := { f.com.weir with tickLock := false } } }

/-- The pass in progress has no tick (R55, R56). -/
def tickMiss (f : FieldDie) : FieldDie :=
  let m := f.mer
  if m.running ∧ m.srcUse = 0 ∧ m.tickCur = none then
    let n := min 16 (m.missRun + 1)
    let m := { merCount m 2 1 with tickCur := some ⟨0, false, false, true⟩, tickLock := false, onRun := 0, missRun := n }
    let f := if n = 16 ∧ !m.coast then fieldEvent { f with mer := { m with coast := true } } .coast [w32 m.pcnt] else { f with mer := m }
    strayJoin f
  else f

/-- The tick records move on at a slot 0; a pass without both a missing tick and a stray ends the stray run (R57). -/
def tickTurn (m : Mer) : Mer :=
  { m with strayRun := if m.strayIn then m.strayRun else 0, strayIn := false, strayNow := none, tickCur := m.tickNext, tickNext := none }

/-! ### Chain frames and the IN frame (R50, R54, R58 to R62) -/

/-- The pass of the first frame of a STREAM_IN (R62). -/
def streamPass (m : Mer) (w : WRx) : Nat := nearest m.pcnt (wAt w.payload 0).toNat

/-- The frames that a STREAM_IN carries at the rate in force at its first pass (R18, R19). -/
def streamFrames (m : Mer) (w : WRx) : Nat := framesPer (rateAt m (streamPass m w))

/-- The form of a STREAM_IN (R19, R62): the frame count of the period, and the length that goes with it. -/
def streamForm (m : Mer) (w : WRx) : Bool :=
  decide (fld (wAt w.payload 1) 1 0 = streamFrames m w) && decide (w.payload.length = 2 + 128 * streamFrames m w)

/-- A chain frame discarded late: counted, and reported by FRAME_LATE. -/
def frameDrop (f : FieldDie) (n : Nat) : FieldDie :=
  if n = 0 then f else { f with mer := merCount f.mer 6 n, io := { f.io with frameLate := true } }

/-- One frame of a STREAM_IN for pass `p` while passes run. -/
def frameTake (f : FieldDie) (p : Nat) (filled : Bool) (ws : List W32) : FieldDie :=
  if p ≤ f.mer.pcnt ∨ f.io.frames.any (fun c => decide (c.pass = p)) then frameDrop f 1
  else { f with io := { f.io with frames := f.io.frames ++ [ChainFrame.mk p filled ws] } }

/-- STREAM_IN (R62). -/
def streamIn (w : WRx) (f : FieldDie) : FieldDie :=
  let m := streamPass f.mer w
  let n := streamFrames f.mer w
  let filled := bit (wAt w.payload 1) 2
  let due := (firstDue f.mer).any (fun d => decide (d ≤ m + n - 1))
  if f.mer.running ∨ due then
    (List.range n).foldl (fun f i =>
      let ws := (w.payload.drop (2 + 128 * i)).take 128
      if f.mer.running then frameTake f (m + i) filled ws
      else if f.io.frames.any (fun c => decide (c.pass = m + i)) then frameDrop f 1
      else { f with io := { f.io with frames := f.io.frames ++ [ChainFrame.mk (m + i) filled ws] } }) f
  else f

/-- Words put into a table from key `k` on. -/
def putWords (t : Tbl W32) (k : Nat) : List W32 → Tbl W32
  | [] => t
  | w :: ws => putWords (tput 0 t k w) (k + 1) ws

/-- IN word 231 for the tick record of the pass that ends; the error of a pass without a tick is free (R59, log entry 4). -/
def tickWord (c : Common) (m : Mer) : Common × Nat :=
  if m.srcUse ≠ 0 then (c, 0)
  else match m.tickCur with
    | some r =>
      if r.missing then
        let d := draw c 231
        (d.1, fld d.2 15 0 + 2 ^ 18)
      else (c, wrapN 16 r.e + b2n r.late * 2 ^ 16 + b2n r.early * 2 ^ 17)
    | none =>
      let d := draw c 231
      (d.1, fld d.2 15 0)

/-- The capture boundary for pass `n` and the IN swap (R53 steps 2 and 3): chain words or their fill, the port words of the buffer, the
status words. `w226` holds the flags above the class field, `w231` the tick. -/
def captureIn (n w226 w231 : Nat) (f : FieldDie) : FieldDie :=
  let fr := f.io.frames.find? (fun c => decide (c.pass = n))
  let fill := if fld f.mer.ctrl 4 3 = 1 then f.io.lastUsed else []
  let chain := match fr with
    | some c => c.words
    | none => fill
  let w227 := b2n fr.isNone + 2 * b2n (fr.any (·.filled)) + 4 * b2n f.io.frameLate
  let t := putWords (putWords f.io.inBack 0 chain) 224
    [w32 n, w32 (n / 2 ^ 32), w32 w226, w32 w227, w32 f.io.w228, w32 f.io.w229, w32 f.io.w230, w32 w231]
  let io := { f.io with inFront := t, inBack := [], frames := f.io.frames.filter (fun c => decide (n < c.pass)), frameLate := false,
                        lastUsed := if fr.isSome then chain else f.io.lastUsed, w228 := 0, w229 := 0, w230 := 0 }
  { f with io := io, mer := if fr.isNone then merCount f.mer 5 1 else f.mer }

/-- The class in force for the tick with index `j` (R59, R295). -/
def classAt (m : Mer) (j : Nat) : Nat := if m.coast then 3 else match markAt m j with | some k => k.cls | none => 4

/-- IN word 226. -/
def statusWord (cls rate : Nat) (coast realigned jumped swapped : Bool) : Nat :=
  cls % 8 + rate % 16 * 256 + b2n coast * 2 ^ 16 + b2n realigned * 2 ^ 17 + b2n jumped * 2 ^ 18 + b2n swapped * 2 ^ 19

/-- Return words 48 to 79 of a frame of OUT words. -/
def retWords (t : Tbl W32) : List W32 := (List.range 32).map (fun i => tget 0 t (48 + i))

/-- A STREAM_RET queued: none while the host side is absent. -/
def retQueue (n frames : Nat) (ws : List W32) (f : FieldDie) : FieldDie :=
  if f.com.weir.farPresent then { f with com := weirQueue f.com ⟨1, 0, 0, [w32 n, w32 frames] ++ ws⟩ } else f

/-- A stream period of two frames whose second never comes, because a jump skips it or the rate changes, is sent with zeros in its place. -/
def retFlush (n : Nat) (f : FieldDie) : FieldDie :=
  match f.io.retHalf with
  | none => f
  | some (k, h) =>
    if k + 1 = n ∧ framesPer f.mer.lastRate = 2 then f
    else retQueue k 2 (h ++ List.replicate 32 0) { f with io := { f.io with retHalf := none } }

/-- STREAM_RET (R451) for the tick at which the frame of number `lastPass` is presented: one message for each stream period. -/
def streamRetSend (f : FieldDie) : FieldDie :=
  let n := f.mer.lastPass
  let f := retFlush n f
  let ws := if f.io.presented then retWords f.io.outPres else List.replicate 32 0
  if framesPer f.mer.lastRate = 1 then retQueue n 1 ws f
  else if n % 2 = 0 then { f with io := { f.io with retHalf := some (n, ws) } }
  else
    let first := match f.io.retHalf with
      | some (_, h) => h
      | none => List.replicate 32 0
    retQueue (n - 1) 2 (first ++ ws) { f with io := { f.io with retHalf := none } }

/-- TIME_MARK received (R46, R295). -/
def timeMarkTake (ws : List W32) (ahead : Nat) (f : FieldDie) : FieldDie :=
  modMer f (fun m => { m with marks := m.marks ++ [markOf m ws ahead] })

def execTickLaneTimeout (s : State) := fieldCmd tickTimeout s
def execSwapReq (v : W32) (s : State) := fieldCmd (fun f => modMer f (swapCtlWrite v)) s
def execSwapCancel (v : W32) (s : State) := fieldCmd (fun f => modMer f (swapCtlWrite v)) s

end Sys2Proof.Machine
end

