-- ==== Sys2Proof/Machine/SiltBase.lean ====
section
/-! DEFINITION. Reads of the Silt store, samples of delay lines, and what the streamer area of Z shows (R163 to R170). -/

namespace Sys2Proof.Machine

/-- A delay line, a tap, a clip. -/
def lineAt (s : Silt) (l : Nat) : Line := tget line0 s.lines l
def tapAt (s : Silt) (e : Nat) : TapSt := tget tap0 s.taps e
def clipAt (s : Silt) (k : Nat) : Clip := tget clip0 s.clips k

/-- A change of one line, tap, clip. -/
def modLine (s : Silt) (l : Nat) (g : Line → Line) : Silt := { s with lines := tmod line0 s.lines l g }
def modTap (s : Silt) (e : Nat) (g : TapSt → TapSt) : Silt := { s with taps := tmod tap0 s.taps e g }
def modClip (s : Silt) (k : Nat) (g : Clip → Clip) : Silt := { s with clips := tmod clip0 s.clips k g }

/-- A change of Silt. -/
def modSilt (f : FieldDie) (g : Silt → Silt) : FieldDie := { f with silt := g f.silt }

/-- Fields of a tap configuration. -/
def tapLine (cfg : W32) : Nat := fld cfg 13 4
def tapKind (cfg : W32) : Nat := fld cfg 2 1
def tapCgrp (cfg : W32) : Nat := fld cfg 23 16
def tapLink (cfg : W32) : Bool := bit cfg 24

/-- LEN of a line in samples. -/
def lineLen (n : Line) : Nat := fld n.len 26 0

/-- The sample word at a Silt address; 0 where its codeword is uncorrectable (R181). -/
def dramWord (s : Silt) (a : Nat) : W32 := if tget 0 s.err (a % 2 ^ 32 / 32) = 2 then 0 else rd32 s.dram (a % 2 ^ 32)

/-- LEN of the enable in force. -/
def lenUse (n : Line) : Nat := fld n.lenUse 26 0

/-- The Silt address of position `i` of a line (R170). -/
def lineAddr (n : Line) (i : Nat) : Nat := n.baseUse.toNat / 64 * 64 + 4 * (i % lenUse n)

/-- x[i] of a line (R170): from the staging while its block is not full, else from the store; 0 before position 0 and where it is older
than LEN - 1 positions before the newest, or not written. -/
def lineSample (s : Silt) (l : Nat) (i : Int) : W32 :=
  let n := lineAt s l
  if i < 0 ∨ lenUse n = 0 then 0
  else
    let p := i.toNat
    if n.pos ≤ p ∨ p + lenUse n < n.pos then 0
    else if p / 16 = n.pos / 16 then tget 0 s.stage (16 * l + p % 16)
    else dramWord s (lineAddr n p)

/-- The first and the last point x_k that a kind uses (R175). -/
def kindPoints (k : Nat) : Int × Int := if k ≤ 1 then (0, 1) else if k = 2 then (-1, 2) else (-3, 4)

/-- The limits of the delay (R177), in 1/4096 units. -/
def delayMin (kind : Nat) : Nat := if kind ≤ 1 then 8192 else if kind = 2 then 16384 else 24576
def delayClamp (kind len d : Nat) : Nat := max (delayMin kind) (min d ((len - 4) * 4096 - 1))

/-- A tap window word (R167): the line's sample where the points of the last result include a position of that place; what the window holds
elsewhere is free (log entry 4). -/
def windowWord (f : FieldDie) (e j : Nat) : FieldDie × W32 :=
  let t := tapAt f.silt e
  let pts := kindPoints (tapKind t.use)
  let q : Int := (lineAt f.silt (tapLine t.use)).pos
  let n := lineAt f.silt (tapLine t.use)
  let d : Int := (delayClamp (tapKind t.use) (lenUse n) (t.win.getD 0) / 4096 : Nat)
  let held := ((List.range 8).map (fun (i : Nat) => pts.1 + (i : Int))).find? (fun k => decide (k ≤ pts.2) && decide ((q - d - k) % 16 = (j : Int)))
  match held, t.valid with
  | some k, true => (f, lineSample f.silt (tapLine t.use) (q - d - k))
  | _, _ =>
    let c := draw f.com 0x20000
    ({ f with com := c.1 }, c.2)

/-- A port E read of a window word of entry `e` may fall in the cycle in which the streamer writes that word: the access of port S is then withheld and
counted (R146, R168). In which cycles the streamer serves a word is not stated, so whether it does is free (log entry 4). -/
def windowClash (e : Nat) (f : FieldDie) : FieldDie :=
  if f.silt.active ∧ bit (tapAt f.silt e).use 0 then
    let c := draw f.com 0x20001
    let g := { f with com := c.1 }
    if bit c.2 0 then { g with bk := { g.bk with zbusy := g.bk.zbusy + 1 }, silt := { g.silt with retries := g.silt.retries + 1 } } else g
  else f

/-- A port E read of the streamer area at word `w` of Z (R167). -/
def streamerRead (f : FieldDie) (w : Nat) : FieldDie × W32 :=
  if w < 0x28000 then windowWord (windowClash ((w - 0x20000) / 16) f) ((w - 0x20000) / 16) (w % 16)
  else if 0x30000 ≤ w ∧ w < 0x30800 then (f, tget 0 f.silt.tapFront (w - 0x30000))
  else if 0x31000 ≤ w ∧ w < 0x31400 then (f, tget 0 f.silt.lineFront (w - 0x31000))
  else if 0x31800 ≤ w ∧ w < 0x31840 then (f, tget 0 f.silt.pbFront (w - 0x31800))
  else (f, 0)

/-- A port E write of the streamer area: the line-input words take it, the others ignore it. -/
def streamerWrite (f : FieldDie) (w : Nat) (v : W32) : FieldDie :=
  if 0x31000 ≤ w ∧ w < 0x31400 then modSilt f (fun s => { s with lineFront := tput 0 s.lineFront (w - 0x31000) v }) else f

/-- A trigger of the capture ring whose frame is the one of the running pass (R183): TRIGGERED, CAUSE and TPASS at once; a second one is ignored. -/
def capTrigger (cause : Nat) (f : FieldDie) : FieldDie :=
  let c := f.silt.cap
  if c.armed ∧ !c.triggered then
    modSilt f (fun s => { s with cap := { c with triggered := true, cause := cause, tpass := f.mer.pcnt, trigWait := some cause } })
  else f

end Sys2Proof.Machine
end

