-- ==== Sys2Proof/Machine/BankOps.lean ====
section
/-! DEFINITION. The banks of the field die by word (R138 to R148): frames, marked words, coefficient copies, the streamer area; accesses of
field masters and the atomic aliases. -/

namespace Sys2Proof.Machine

/-- The bytes of `b` put over word `w` from byte `off` on. -/
def mergeBytes (w : W32) (off : Nat) (b : List Byte) : W32 :=
  let old := bytesLE 4 w.toNat
  w32 (ofBytesLE ((old.take off ++ b ++ old.drop (off + b.length)).take 4))

/-- Word `w` of a bank's cells: 0 where its codeword is uncorrectable (R408). -/
def bankWord (f : FieldDie) (id : BankId) (w : Nat) : FieldDie × W32 :=
  match fieldReadBank f id (4 * w) 4 with
  | (g, some bs) => (g, w32 (ofBytesLE bs))
  | (g, none) => (g, 0)

/-- Bytes `off` on of word `w` of a bank's cells written. -/
def bankPut (f : FieldDie) (id : BankId) (w off : Nat) (b : List Byte) : FieldDie := fieldWriteBank f id (4 * w + off) b

/-! ### Coefficient words (R147, R148, R154) -/

/-- Fields of a group descriptor. -/
def cgFirst (d : W32) : Nat := fld d 7 0
def cgCount (d : W32) : Nat := fld d 15 8
def cgEn (d : W32) : Bool := bit d 16

/-- A descriptor covers coefficient word `w`. -/
def cgCovers (d : W32) (w : Nat) : Bool := cgEn d && decide (cgFirst d ≤ w / 128) && decide (w / 128 ≤ cgFirst d + cgCount d)

/-- The enabled group that holds coefficient word `w`. -/
def groupOf (c : Cg) (w : Nat) : Option Nat := (c.desc.find? (fun e => cgCovers e.2 w)).map (·.1)

/-- The glide of a group: its exponent and its STEP, STEP 0 while none is in progress. -/
def glideG (c : Cg) (g : Nat) : Nat := tget 0 c.glide g / 65536
def glideStep (c : Cg) (g : Nat) : Nat := tget 0 c.glide g % 65536
def gliding (c : Cg) (g : Nat) : Bool := decide (tget 0 c.glide g ≠ 0)

/-- The cell of bank Y that holds the named copy of coefficient word `w`, and the cell of the other copy. -/
def namedCell (b : Banks) (w : Nat) : Nat := if tget false b.page w then 0x8000 + w else w
def otherCell (b : Banks) (w : Nat) : Nat := if tget false b.page w then w else 0x8000 + w

/-- The interpolated value between `a` and `s` at step `k` of 2^g (R154, R179). -/
def glideValue (a s : Int) (k g : Nat) : Int := a + ((s - a) * k + 2 ^ (g - 1)) / 2 ^ g

/-- A read of coefficient word `w` through the shadow or the active view (R148). -/
def coefRead (f : FieldDie) (shadow : Bool) (w : Nat) : FieldDie × W32 :=
  let named := namedCell f.bk w
  match groupOf f.cg w with
  | none => bankWord f .y named
  | some g =>
    if tget false f.bk.dirty w then
      if shadow then bankWord f .y (otherCell f.bk w)
      else if gliding f.cg g then
        let a := bankWord f .y named
        let s := bankWord a.1 .y (otherCell f.bk w)
        (s.1, ofI (glideValue a.2.toInt s.2.toInt (glideStep f.cg g) (glideG f.cg g)))
      else bankWord f .y named
    else bankWord f .y named

/-- A write of bytes of coefficient word `w` through either view (R148). -/
def coefWrite (f : FieldDie) (shadow : Bool) (w off : Nat) (b : List Byte) : FieldDie :=
  let named := namedCell f.bk w
  match groupOf f.cg w with
  | none => bankPut f .y named off b
  | some g =>
    if shadow then
      if gliding f.cg g then { f with cg := { f.cg with cnt := ctrAdd f.cg.cnt 1 1 } }
      else
        let other := otherCell f.bk w
        let f' :=
          if b.length = 4 ∨ tget false f.bk.dirty w then bankPut f .y other off b
          else
            let a := bankWord f .y named
            bankPut a.1 .y other 0 (bytesLE 4 (mergeBytes a.2 off b).toNat)
        { f' with bk := { f'.bk with dirty := tput false f'.bk.dirty w true } }
    else bankPut f .y named off b

/-! ### The banks as the engine and the field masters address them -/

/-- A word of X that the swap marked and nothing has written since (R71). -/
def xMarked (b : Banks) (w : Nat) : Bool := b.xMark.testBit (w / 4096) && !tget false b.xOk w

/-- A read of word `w` of X (R58, R71). -/
def xRead (f : FieldDie) (w : Nat) : FieldDie × W32 :=
  if w < 256 then (f, tget 0 f.io.inFront w)
  else if w < 512 then (f, tget 0 f.io.outFront (w - 256))
  else if xMarked f.bk w then (f, 0)
  else bankWord f .x w

/-- A write of bytes of word `w` of X. -/
def xWrite (f : FieldDie) (w off : Nat) (b : List Byte) : FieldDie :=
  if w < 256 then { f with io := { f.io with inFront := tput 0 f.io.inFront w (mergeBytes (tget 0 f.io.inFront w) off b) } }
  else if w < 512 then
    if w - 256 < 152 then
      { f with io := { f.io with outFront := tput 0 f.io.outFront (w - 256) (mergeBytes (tget 0 f.io.outFront (w - 256)) off b) } }
    else f
  else if xMarked f.bk w then
    let g := bankPut f .x w 0 (bytesLE 4 (mergeBytes 0 off b).toNat)
    { g with bk := { g.bk with xOk := tput false g.bk.xOk w true } }
  else bankPut f .x w off b

/-- A read of word `w` of Y. -/
def yRead (f : FieldDie) (w : Nat) : FieldDie × W32 :=
  if w < 0x8000 then coefRead f false w else if w < 0x10000 then coefRead f true (w - 0x8000) else bankWord f .y w

/-- A write of bytes of word `w` of Y. -/
def yWrite (f : FieldDie) (w off : Nat) (b : List Byte) : FieldDie :=
  if w < 0x8000 then coefWrite f false w off b else if w < 0x10000 then coefWrite f true (w - 0x8000) off b else bankPut f .y w off b

/-- A read of word `w` of Z at port E. -/
def zRead (f : FieldDie) (w : Nat) : FieldDie × W32 := if w < 0x20000 then bankWord f .z w else streamerRead f w

/-- A write of bytes of word `w` of Z at port E. -/
def zWrite (f : FieldDie) (w off : Nat) (b : List Byte) : FieldDie :=
  if w < 0x20000 then bankPut f .z w off b
  else streamerWrite f w (mergeBytes (tget 0 f.silt.lineFront (w - 0x31000)) off b)

/-- A read on bus 0 X, 1 Y, 2 Z, 3 the active program store. -/
def busRd (f : FieldDie) (bus w : Nat) : FieldDie × W32 :=
  if bus = 0 then xRead f w else if bus = 1 then yRead f w else if bus = 2 then zRead f w
  else bankWord f (if f.mer.store1 then .p1 else .p0) (w % 0x10000)

/-- A whole word written on bus 0 X, 1 Y, 2 Z. -/
def busPut (f : FieldDie) (bus w : Nat) (v : W32) : FieldDie :=
  let b := bytesLE 4 v.toNat
  if bus = 0 then xWrite f w 0 b else if bus = 1 then yWrite f w 0 b else zWrite f w 0 b

/-! ### Field masters (R138, R145) -/

/-- What a field-bus address reaches: the plain range, the add alias or the swap alias of a bank, with the bank and the word. -/
inductive BusKind where
  | plain | add | swap
  deriving DecidableEq, Repr

/-- The bank that an address below the aliases reaches, with the byte offset in it. -/
def fieldBase (a : Nat) : Option (BankId × Nat) :=
  if a < 0x40000 then some (.f, a)
  else if 0x10000000 ≤ a ∧ a < 0x10040000 then some (.p0, a - 0x10000000)
  else if 0x10040000 ≤ a ∧ a < 0x10080000 then some (.p1, a - 0x10040000)
  else if 0x10100000 ≤ a ∧ a < 0x10180000 then some (.x, a - 0x10100000)
  else if 0x10200000 ≤ a ∧ a < 0x10280000 then some (.y, a - 0x10200000)
  else if 0x10300000 ≤ a ∧ a < 0x10400000 then some (.z, a - 0x10300000)
  else none

/-- The target of a field-bus address (R138); none in a gap. -/
def fieldTarget (a : Nat) : Option (BusKind × BankId × Nat) :=
  match fieldBase a with
  | some (b, o) => some (.plain, b, o)
  | none =>
    let aliasAt (d : Nat) := if d ≤ a then (fieldBase (a - d)).bind (fun p => if p.1 = .p0 ∨ p.1 = .p1 then none else some p) else none
    match aliasAt 0x01000000 with
    | some (b, o) => some (.add, b, o)
    | none => (aliasAt 0x02000000).map (fun p => (.swap, p.1, p.2))

/-- An address among the listed ranges of the field bus that none of them takes (R138): a gap. -/
def fieldGap (a : Nat) : Bool := decide (a < 0x12400000) && decide (fieldTarget a = none)

/-- Word `w` of a bank as a field master reads it. A read that meets an uncorrectable codeword ends in an access fault of the reader
(R408), which receives no data. -/
def masterRead (f : FieldDie) (id : BankId) (w : Nat) : FieldDie × W32 :=
  match id with
  | .x => xRead f w
  | .y => yRead f w
  | .z => zRead f w
  | b => bankWord f b w

/-- The engine's bus to a bank: 0 X, 1 Y, 2 Z. -/
def bankBus (id : BankId) : Option Nat :=
  match id with
  | .x => some 0
  | .y => some 1
  | .z => some 2
  | _ => none

/-- The engine's writes to words `lo` to `hi - 1` of a bank, made before the running slot and not yet visible, precede what a field master
writes there in it (DEDUCED from R144 and R145, log entry 25). -/
def settleWrites (id : BankId) (lo hi : Nat) (f : FieldDie) : FieldDie :=
  let mine (x : Fly) : Bool := match x.w with
    | .bank b k _ => decide (bankBus id = some b) && decide (lo ≤ k) && decide (k < hi) && decide (x.due ≤ f.mer.slot + 1)
    | _ => false
  if f.eng.fly.any mine then
    let rest := f.eng.fly.filter (fun x => !mine x)
    (f.eng.fly.filter mine).foldl (fun g x => match x.w with
      | .bank b k v => busPut g b k v
      | _ => g) { f with eng := { f.eng with fly := rest } }
  else f

/-- Bytes of word `w` of a bank as a field master writes them. -/
def masterWrite (f : FieldDie) (id : BankId) (w off : Nat) (b : List Byte) : FieldDie :=
  let f := settleWrites id w (w + 1) f
  match id with
  | .x => xWrite f w off b
  | .y => yWrite f w off b
  | .z => zWrite f w off b
  | k => bankPut f k w off b

/-- The value that an access delivers, kept as the last word read. -/
def setRead (f : FieldDie) (v : W32) : FieldDie := { f with com := { f.com with lastRead := v, accErr := false } }

/-- The access ended with an error response, or without one. -/
def accEnd (err : Bool) (f : FieldDie) : FieldDie := { f with com := { f.com with accErr := err } }

/-- GAP and ALIAS_SIZE of BANK_STAT. -/
def bankFlag (f : FieldDie) (i : Nat) : FieldDie := { f with bk := { f.bk with stat := setBit f.bk.stat i true } }

/-- The low `n` bytes of a word from byte `off` on. -/
def subWord (v : W32) (off n : Nat) : W32 := w32 (v.toNat / 2 ^ (8 * off) % 2 ^ (8 * n))

/-- X_SCRUB: a marked word takes a zero and loses its mark (R71). -/
def xScrub (w : Nat) (f : FieldDie) : FieldDie := if 512 ≤ w ∧ w < 0x20000 ∧ xMarked f.bk w then xWrite f w 0 (bytesLE 4 0) else f

/-- The marks of a swap (R71): each region whose KEEP bit is 0. -/
def xMarkRegions (keep : W32) (b : Banks) : Banks :=
  (List.range 32).foldl (fun (b : Banks) r =>
    if bit keep r then b
    else { b with xMark := b.xMark ||| 2 ^ r, xOk := tclear b.xOk (r * 4096) (r * 4096 + 4096) }) b

def execXScrub (w : Nat) (s : State) := fieldCmd (xScrub w) s

end Sys2Proof.Machine
end

