-- ==== Sys2Proof/Machine/Flags.lean ====
section
/-! DEFINITION. Results of the engine's arithmetic (R81 to R84, R124, R125): exact values, saturation, extraction, and the flags they set. -/

namespace Sys2Proof.Machine

/-- A result: its value as an integer of its width, V and Q. -/
structure Res where
  val : Int
  v   : Bool
  q   : Bool
  deriving DecidableEq, Repr

/-- FL of a result: Z, N, V, Q in bits 0 to 3 (R76, R84). -/
def flagsOf (r : Res) : Nat := b2n (decide (r.val = 0)) + 2 * b2n (decide (r.val < 0)) + 4 * b2n r.v + 8 * b2n r.q

/-- An exact value put into `n` bits: saturated where `sat`, else its low bits (R82, R83, R124). -/
def fitRes (n : Nat) (sat : Bool) (x : Int) : Res :=
  if fitsN n x then ⟨x, false, false⟩
  else if sat then ⟨satN n x, true, true⟩
  else ⟨sextN n (wrapN n x), true, false⟩

/-- A value that is its own result, which clears V and Q. -/
def plainRes (x : Int) : Res := ⟨x, false, false⟩

/-- floor((x + 2^(s-1)) / 2^s): rounding half up, s 0 leaving x (R83). -/
def roundUp (x : Int) (s : Nat) : Int := if s = 0 then x else (x + 2 ^ (s - 1)) / 2 ^ s

/-- The alignment of a product by PF (R81). -/
def alignP (pf : Nat) (p : Int) : Int := if pf = 0 then p * 4 else if pf = 2 then p * 16 else p

/-- The extraction of R83 of an exact value: `s` more places to the right for a control word's EXS (R136). -/
def extractRes (ac : Int) (shift ofmt exs : Nat) (sat : Bool) : Res :=
  let v := ac * 2 ^ shift
  let r := roundUp v ((if ofmt = 0 then 31 else if ofmt = 1 then 33 else 0) + exs)
  let ovf := !fitsN 32 r || !fitsN 72 v
  if ovf then
    if sat then ⟨if r < 0 then -2147483648 else 2147483647, true, true⟩ else ⟨sextN 32 (wrapN 32 r), true, false⟩
  else ⟨r, false, false⟩

/-- Bits below the sign bit of an `n`-bit value that equal it, before the first that differs (R125). -/
def normOf (n : Nat) (x : Int) : Nat :=
  let m := if x < 0 then (-x - 1).toNat else x.toNat
  n - 1 - (if m = 0 then 0 else Nat.log2 m + 1)

/-- F32 to Q1.31 (R125). -/
def f32ToQ (w : Nat) : Res :=
  let s : Nat := w / 2 ^ 31 % 2
  let e : Nat := w / 2 ^ 23 % 256
  let m : Nat := w % 2 ^ 23
  if e = 255 then
    if m ≠ 0 then ⟨0, true, false⟩ else ⟨if s = 1 then -2147483648 else 2147483647, true, true⟩
  else
    let mag : Nat := if e = 0 then m else m + 2 ^ 23
    let x : Int := if s = 1 then -(mag : Int) else mag
    let k : Nat := if e = 0 then 1 else e
    fitRes 32 true (if 119 ≤ k then x * 2 ^ (k - 119) else roundUp x (119 - k))

/-- Q1.31 to F32, rounded half up to 24 significant bits (R125). -/
def qToF32 (d : Int) : Nat :=
  if d = 0 then 0
  else
    let len := Nat.log2 d.natAbs + 1
    let s := len - 24
    let r := roundUp d s
    let top := Nat.log2 r.natAbs
    let mant := if 23 ≤ top then r.natAbs / 2 ^ (top - 23) else r.natAbs * 2 ^ (23 - top)
    b2n (decide (d < 0)) * 2 ^ 31 + (127 + top + s - 31) * 2 ^ 23 + mant % 2 ^ 23

/-- The ALU of R124 by SUB on D[RA] and D[RB]. -/
def aluRes (sub : Nat) (sat : Bool) (x y : Int) : Res :=
  fitRes 32 sat (match sub with
    | 0 => x + y
    | 1 => x - y
    | 2 => -y
    | 3 => if y < 0 then -y else y
    | 4 => if x < y then x else y
    | 5 => if x < y then y else x
    | 6 => x - y
    | 7 => y
    | _ => (x + y + 1) / 2)

/-- Bitwise operations of R124 by SUB. -/
def logicRes (sub : Nat) (x y : W32) : Res :=
  plainRes (match sub with
    | 0 => x &&& y
    | 1 => x ||| y
    | 2 => x ^^^ y
    | 3 => x &&& ~~~ y
    | 4 => ~~~ y
    | _ => x &&& y : W32).toInt

/-- Shifts of R124: 0 LSL, 1 LSR, 2 ASR, 3 ROR by `n`. -/
def shiftRes (k n : Nat) (sat : Bool) (x : W32) : Res :=
  match k with
  | 0 => fitRes 32 sat (x.toInt * 2 ^ n)
  | 1 => plainRes (x >>> n).toInt
  | 2 => plainRes (x.toInt / 2 ^ n)
  | _ => plainRes (x.rotateRight n).toInt

/-- Accumulator operations of R123 by SUB: AC[ACD], the source accumulator and D[RA]. -/
def accRes (sub shift : Nat) (sat : Bool) (ac src d : Int) : Res :=
  match sub with
  | 0 => plainRes 0
  | 1 => plainRes src
  | 2 => fitRes 72 sat (ac + src)
  | 3 => fitRes 72 sat (ac - src)
  | 4 => fitRes 72 sat (-ac)
  | 5 => fitRes 72 sat (if ac < 0 then -ac else ac)
  | 6 => fitRes 72 sat (ac * 2 ^ shift)
  | 7 => plainRes (ac / 2 ^ shift)
  | 8 => plainRes (d * 2147483648)
  | _ => plainRes d

/-- Conversions of R125 by SUB. -/
def cvtRes (sub : Nat) (x : W32) : Res :=
  match sub with
  | 0 => plainRes (roundUp x.toInt 2)
  | 1 => fitRes 32 true (x.toInt * 4)
  | 2 => f32ToQ x.toNat
  | _ => plainRes (sextN 32 (qToF32 x.toInt))

/-- CLAMP (R125): V and Q are 1 when the result differs. -/
def clampRes (x y : Int) : Res :=
  let m := if x < -y then -y else x
  let r := if y < m then y else m
  ⟨r, decide (r ≠ x), decide (r ≠ x)⟩

/-- PEAK (R125). -/
def peakRes (x y : Int) : Res :=
  let a := if x = -2147483648 then 2147483647 else if x < 0 then -x else x
  plainRes (if y < a then a else y)

end Sys2Proof.Machine
end

