-- ==== Sys2Proof/Machine/Operands.lean ====
section
/-! DEFINITION. The engine's registers by code (R76 to R79), results on their way (R99 to R104), bus operands and their addressing
(R88, R89, R93 to R97, R102). -/

namespace Sys2Proof.Machine

/-! ### Registers -/

/-- The register under a key. -/
def engReg (e : Eng) (k : Nat) : Nat := tget 0 e.regs k

/-- D[i], index modulo 16, as a word and as a signed value; AC[i] modulo 8; PH[i] modulo 4. -/
def dW (e : Eng) (i : Nat) : W32 := w32 (engReg e (i % 16))
def dI (e : Eng) (i : Nat) : Int := (dW e i).toInt
def acI (e : Eng) (i : Nat) : Int := sextN 72 (engReg e (0x30 + i % 8))
def phI (e : Eng) (i : Nat) : Int := sextN 64 (engReg e (0x48 + i % 4))
def axN (e : Eng) (i : Nat) : Nat := engReg e (0x10 + i % 8)

/-- A level takes part in the nesting: it is active, or its construct issues no-ops (R86). -/
def lvlLive (l : Level) : Bool := l.act || l.ghost

/-- RPM (R77). -/
def rpmWord (e : Eng) : Nat :=
  e.spanLeft % 65536 * 65536 + b2n e.repi.isSome * 256 + b2n e.spanAct * 128 + b2n (e.l1.act && e.l1.chan) * 16 +
    b2n (e.l0.act && e.l0.chan) * 8 + b2n (e.l0.act && e.l0.span) * 4 + b2n e.l1.act * 2 + b2n e.l0.act

/-- RPC, code 58h, as read (R108). -/
def rpcRead (e : Eng) : Nat :=
  match e.repi with
  | some r => r.left
  | none => if e.l1.act then e.l1.rpc else e.l0.rpc

/-- The key of the level that a write to RPC goes to (R108); none where no level can take it. -/
def rpcKey (e : Eng) : Option Nat :=
  if e.repi.isSome then (if e.l1.act then none else if e.l0.act then some 0x5A else some 0x59)
  else if e.l1.act then some 0x5A else some 0x59

/-- A read of a register code (R78, R79): 32 bits, none for a reserved code. -/
def codeRead (f : FieldDie) (c : Nat) : Option Nat :=
  let e := f.eng
  if c < 0x18 then some (engReg e c)
  else if c < 0x20 then some (wrapN 32 (sextN 17 (engReg e c)))
  else if c < 0x30 then some (engReg e c)
  else if c < 0x38 then some (engReg e c % 2 ^ 32)
  else if c < 0x40 then some (engReg e (c - 8) / 2 ^ 32 % 2 ^ 32)
  else if c < 0x48 then some (wrapN 32 (sextN 8 (engReg e (c - 16) / 2 ^ 64)))
  else if c < 0x4C then some (engReg e c % 2 ^ 32)
  else if c < 0x50 then some (engReg e (c - 4) / 2 ^ 32)
  else if c < 0x55 then some (engReg e c)
  else if c = 0x58 then some (rpcRead e)
  else if c = 0x59 then some e.l0.rpc
  else if c = 0x5A then some e.l1.rpc
  else if c = 0x5B then some (if e.l0.act then e.l0.start % 32768 else 0)
  else if c = 0x5C then some (if e.l1.act then e.l1.start % 32768 else 0)
  else if c = 0x5D then some (if e.l0.act then e.l0.stop % 32768 else 0)
  else if c = 0x5E then some (if e.l1.act then e.l1.stop % 32768 else 0)
  else if c = 0x5F then some e.rpb
  else if c = 0x60 then some (rpmWord e)
  else if c = 0x68 ∨ c = 0x6A then some (engReg e c % 2 ^ 32)
  else if c = 0x69 ∨ c = 0x6B then some (engReg e (c - 1) / 2 ^ 32)
  else if c = 0x6C then some (f.mer.pcnt % 2 ^ 32)
  else if c = 0x6D then some (f.mer.pcnt / 2 ^ 32 % 2 ^ 32)
  else none

/-- A register code that a program may write (R78). -/
def codeWritable (c : Nat) : Bool := c < 0x55 || (0x58 ≤ c && c ≤ 0x5A) || c = 0x60 || (0x68 ≤ c && c ≤ 0x6B)

/-- A register code that R78 lists. -/
def codeListed (c : Nat) : Bool := c < 0x55 || (0x58 ≤ c && c ≤ 0x60) || (0x68 ≤ c && c ≤ 0x6D)

/-- The register writes that a 32-bit value to a writable code makes (R79, R99): key, mask, value; none where no level takes RPC. -/
def codeTarget (e : Eng) (c v : Nat) : Option (List (Nat × Nat × Nat)) :=
  if c < 0x10 then some [(c, 0xFFFFFFFF, v)]
  else if c < 0x30 then some [(c, 0x1FFFF, v)]
  else if c < 0x38 then some [(c, 0xFFFFFFFF, v)]
  else if c < 0x40 then some [(c - 8, 0xFFFFFFFF * 2 ^ 32, v * 2 ^ 32)]
  else if c < 0x48 then some [(c - 16, 0xFF * 2 ^ 64, v * 2 ^ 64)]
  else if c < 0x4C then some [(c, 0xFFFFFFFF, v)]
  else if c < 0x50 then some [(c - 4, 0xFFFFFFFF * 2 ^ 32, v * 2 ^ 32)]
  else if c = 0x50 then some [(c, 0xFF, v)]
  else if c = 0x51 then some [(0x51, 0x7F, v), (0x52, 0x1FFFF, 0x200 + 16 * (v % 128))]
  else if c = 0x52 then some [(c, 0x1FFFF, v)]
  else if c < 0x55 then some [(c, 0xF, v)]
  else if c = 0x58 then (rpcKey e).map (fun k => [(k, 0xFFFF, v)])
  else if c = 0x59 ∨ c = 0x5A then some [(c, 0xFFFF, v)]
  else if c = 0x60 then some [(c, 0xFFFF0080, v)]
  else if c = 0x68 ∨ c = 0x6A then some [(c, 0xFFFFFFFF, v)]
  else some [(c - 1, 0xFFFFFFFF * 2 ^ 32, v * 2 ^ 32)]

/-- The latency of a write to a register code by a move or format B (R99). -/
def codeLat (c : Nat) : Nat := if (0x10 ≤ c ∧ c < 0x30) ∨ c = 0x50 then 2 else 1

/-! ### Faults and results on their way -/

/-- A fault of R116 of the instruction that issued in `slot`. -/
def isaFaultAt (slot k : Nat) (f : FieldDie) : FieldDie :=
  let e := f.eng
  let first := match e.first with
    | some c => some c
    | none => some ⟨k, slot, w32 f.mer.pcnt⟩
  { f with eng := { e with fault := setBit e.fault k true, first := first } }

/-- A fault of the instruction that issues now: 0 RESERVED_OP, 1 REPEAT, 2 HALF_CLASH, 3 YP_MISS, 4 REG_CODE, 5 WRITE_CLASH. -/
def isaFault (k : Nat) (f : FieldDie) : FieldDie := isaFaultAt f.mer.slot k f

/-- A result that becomes visible `lat` slots from now. -/
def pushFly (lat : Nat) (w : FlyW) (f : FieldDie) : FieldDie :=
  { f with eng := { f.eng with fly := f.eng.fly ++ [Fly.mk (f.mer.slot + lat) f.mer.slot w] } }

/-- A whole-register result: `n` bits of the register under `key`. -/
def pushReg (lat key n : Nat) (v : Int) (f : FieldDie) : FieldDie := pushFly lat (.reg key (2 ^ n - 1) (wrapN n v)) f

/-- FL set from a result, with its latency. -/
def pushFlags (lat : Nat) (on : Bool) (r : Res) (f : FieldDie) : FieldDie := if on then pushFly lat (.reg 0x53 0xF (flagsOf r)) f else f

/-- A bank write made in slot now + `made` (R144). -/
def pushBank (made bus addr : Nat) (v : W32) (f : FieldDie) : FieldDie := pushFly (made + 2) (.bank bus addr v) f

/-- The keys that a result writes. -/
def flyKeys : FlyW → List Nat
  | .reg k _ _ => [k]
  | .mac a _ _ _ fl => (0x30 + a) :: (if fl then [0x53] else [])
  | .macp a b _ _ _ _ fl => (0x30 + a) :: (0x30 + b) :: (if fl then [0x53] else [])
  | .bank _ _ _ => []

/-- A register written: its masked bits take those of `v`; the counts of the levels and RPM have a home of their own. -/
def putReg (k mask v : Nat) (e : Eng) : Eng :=
  if k = 0x59 then { e with l0 := { e.l0 with rpc := v &&& mask } }
  else if k = 0x5A then { e with l1 := { e.l1 with rpc := v &&& mask } }
  else if k = 0x60 then { e with spanLeft := v / 65536 % 65536, spanAct := v.testBit 7 }
  else { e with regs := tput 0 e.regs k ((engReg e k ^^^ (engReg e k &&& mask)) ||| (v &&& mask)) }

/-- A multiply-accumulate on the accumulator visible one slot before its result (R82, R100). -/
def macRes (pre : Eng) (a : Nat) (clr : Bool) (prod : Int) (sat : Bool) : Res := fitRes 72 sat ((if clr then 0 else acI pre a) + prod)

/-- A result becomes visible; `pre` is the engine in the slot before. -/
def applyFly (pre : Eng) (w : FlyW) (f : FieldDie) : FieldDie :=
  match w with
  | .reg k m v => { f with eng := putReg k m v f.eng }
  | .bank b a v => busPut f b a v
  | .mac a clr p sat fl =>
    let r := macRes pre a clr p sat
    let e := putReg (0x30 + a) (2 ^ 72 - 1) (wrapN 72 r.val) f.eng
    { f with eng := if fl then putReg 0x53 0xF (flagsOf r) e else e }
  | .macp a b clr p q sat fl =>
    let r := macRes pre a clr p sat
    let s := macRes pre b clr q sat
    let e := putReg (0x30 + b) (2 ^ 72 - 1) (wrapN 72 s.val) (putReg (0x30 + a) (2 ^ 72 - 1) (wrapN 72 r.val) f.eng)
    { f with eng := if fl then putReg 0x53 0xF (flagsOf ⟨r.val, r.v || s.v, r.q || s.q⟩) e else e }

/-- The results due in one slot, in issue order; two writes of one register set WRITE_CLASH (R101). -/
def applyDue (pre : Eng) : List Fly → List Nat → FieldDie → FieldDie
  | [], _, f => f
  | x :: xs, seen, f =>
    let ks := flyKeys x.w
    let f := if ks.any (fun k => seen.contains k) then isaFaultAt x.issued 5 f else f
    applyDue pre xs (seen ++ ks) (applyFly pre x.w f)

/-- The next slot begins: what is due becomes visible. -/
def slotStep (f : FieldDie) : FieldDie :=
  let s := f.mer.slot + 1
  let due := f.eng.fly.filter (fun x => decide (x.due ≤ s))
  let rest := f.eng.fly.filter (fun x => decide (s < x.due))
  applyDue f.eng due [] { f with eng := { f.eng with fly := rest }, mer := { f.mer with slot := s } }

/-- `n` slots go by, none of them beyond the first seam slot; instructions that would need more are the overrun of R44. -/
def advance : Nat → FieldDie → FieldDie
  | 0, f => f
  | n + 1, f =>
    if seamSlot f.mer ≤ f.mer.slot then { f with mer := { f.mer with overran := true } }
    else if f.eng.fly = [] then
      if f.mer.slot + n + 1 ≤ seamSlot f.mer then { f with mer := { f.mer with slot := f.mer.slot + n + 1 } }
      else { f with mer := { f.mer with slot := seamSlot f.mer, overran := true } }
    else advance n (slotStep f)

/-- Results still on their way complete (R104). -/
def flushFly : Nat → FieldDie → FieldDie
  | 0, f => f
  | n + 1, f => if f.eng.fly = [] then f else flushFly n (slotStep f)

/-! ### Bus operands -/

/-- A bus operand (R89). -/
structure BusOp where
  acc     : Nat
  ptr     : Nat
  mode    : Nat
  special : Bool
  deriving DecidableEq, Repr

/-- The nine bits of an operand. -/
def busOp (b : BitVec 9) : BusOp := ⟨b.toNat / 128, b.toNat / 16 % 8, b.toNat / 2 % 8, b.toNat % 2 = 1⟩

/-- What becomes of an operand (R89, R93, R118). -/
inductive OpUse where
  | absent | live | suppressed
  deriving DecidableEq, Repr

/-- The use of an operand on bus 0 X, 1 Y, 2 Z by an opcode that allows the accesses `allow`. -/
def opUse (bus : Nat) (allow : List Nat) (o : BusOp) : OpUse :=
  if o.acc = 0 then .absent
  else if !allow.contains o.acc || o.mode = 7 || (bus = 0 && o.special) || (bus = 1 && o.special && o.acc = 2) then .suppressed
  else .live

/-- The low `k` bits reversed. -/
def revBits : Nat → Nat → Nat
  | 0, _ => 0
  | k + 1, x => x % 2 * 2 ^ k + revBits k (x / 2)

/-- a ⊕ m for pointer `i` (R94, R95); `rev` lets AMODE select the bit-reversed sum. -/
def modAdd (e : Eng) (rev : Bool) (i a : Nat) (m : Int) : Nat :=
  let len := engReg e (0x20 + i)
  if len = 0 then wrapN 17 ((a : Int) + m)
  else if rev && (engReg e 0x50).testBit i then
    let k := Nat.log2 len
    revBits k ((revBits k (a % 2 ^ k) + revBits k (wrapN k m)) % 2 ^ k)
  else (((a : Int) + m) % (len : Int)).toNat

/-- MX[i] as a signed modifier. -/
def mxI (e : Eng) (i : Nat) : Int := sextN 17 (engReg e (0x18 + i))

/-- The offset a′ that an operand uses (R93). -/
def opOffset (e : Eng) (o : BusOp) : Nat := if o.mode = 4 then modAdd e true o.ptr (axN e o.ptr) (mxI e o.ptr) else axN e o.ptr

/-- AXi afterwards, where the mode changes it (R93). -/
def opNext (e : Eng) (o : BusOp) : Option Nat :=
  let go (m : Int) := some (modAdd e true o.ptr (axN e o.ptr) m)
  match o.mode with
  | 1 => go 1
  | 2 => go (-1)
  | 3 => go (mxI e o.ptr)
  | 5 => go 2
  | 6 => go (-(mxI e o.ptr))
  | _ => none

/-- The word address of an offset (R93): SPECIAL is bit 17 on the Z bus. -/
def opAddr (e : Eng) (bus : Nat) (o : BusOp) (a : Nat) : Nat :=
  (engReg e (0x28 + o.ptr) + a) % 2 ^ 17 + (if bus = 2 ∧ o.special then 2 ^ 17 else 0)

/-- The program store port is free for a YP read (R97). -/
def ypFree (e : Eng) : Bool := e.repi.isSome || (e.l0.act && e.l0.cached) || (e.l1.act && e.l1.cached)

/-- A read operand: the word, and the second word of a pair; 0 where there is no read (R89, R96, R97, R118). -/
def opRead (bus : Nat) (u : OpUse) (o : BusOp) (f : FieldDie) : FieldDie × W32 × W32 :=
  if u ≠ .live ∨ o.acc = 2 then (f, 0, 0)
  else if bus = 1 ∧ o.special ∧ ypFree f.eng = false then (isaFault 3 f, 0, 0)
  else
    let port := if bus = 1 ∧ o.special then 3 else bus
    let a := opOffset f.eng o
    let w0 := opAddr f.eng bus o a
    let r := busRd f port w0
    if o.acc = 3 then
      let w1 := opAddr f.eng bus o (modAdd f.eng false o.ptr a 1)
      if w1 % 2 = w0 % 2 then (isaFault 2 r.1, r.2, r.2)
      else
        let q := busRd r.1 port w1
        (q.1, r.2, q.2)
    else (r.1, r.2, 0)

/-- A write operand of a value, made `made` slots from now. -/
def opWrite (made bus : Nat) (u : OpUse) (o : BusOp) (v : W32) (f : FieldDie) : FieldDie :=
  if u = .live ∧ o.acc = 2 then pushBank made bus (opAddr f.eng bus o (opOffset f.eng o)) v f else f

/-- Post-modification of the pointers that operands name, X before Y before Z where two name one (R102). -/
def postMods : List (OpUse × BusOp) → List Nat → FieldDie → FieldDie
  | [], _, f => f
  | (u, o) :: os, seen, f =>
    if u ≠ .live ∨ seen.contains o.ptr then postMods os seen f
    else
      match opNext f.eng o with
      | some a => postMods os (o.ptr :: seen) (pushReg 1 (0x10 + o.ptr) 17 a f)
      | none => postMods os (o.ptr :: seen) f

end Sys2Proof.Machine
end

