-- ==== Sys2Proof/Machine/EngOps.lean ====
section
/-! DEFINITION. Issue of an instruction (R85, R86, R98, R106 to R115): conditions, repeats, context loads, the address that follows. -/

namespace Sys2Proof.Machine

/-! ### Levels -/

/-- The number of live levels: 0, 1 (level 0) or 2. -/
def liveLevels (e : Eng) : Nat := if lvlLive e.l1 then 2 else if lvlLive e.l0 then 1 else 0

/-- The innermost live level. -/
def innermost (e : Eng) : Option Level := if lvlLive e.l1 then some e.l1 else if lvlLive e.l0 then some e.l0 else none

/-- The engine issues no-ops for a construct whose condition was false (R86). -/
def inGhost (e : Eng) : Bool := e.l0.ghost || e.l1.ghost || e.repi.any (·.ghost)

/-- The instruction lies in a SPAN body (R112). -/
def inSpan (e : Eng) : Bool := e.l0.act && e.l0.span

/-- LF (R85, R107, R113). -/
def lastIter (e : Eng) : Bool :=
  match e.repi with
  | some r => decide (r.left ≤ 1)
  | none => if e.l1.act then decide (e.l1.rpc ≤ 1) else e.l0.act && decide (e.l0.rpc ≤ 1)

/-- The condition of an instruction (R85). -/
def condTrue (f : FieldDie) (c : BitVec 4) : Bool :=
  let fl := engReg f.eng 0x53
  let cf := engReg f.eng 0x54
  match c.toNat with
  | 0 => true
  | 1 => fl.testBit 0
  | 2 => !fl.testBit 0
  | 3 => fl.testBit 1
  | 4 => !fl.testBit 1
  | 5 => fl.testBit 2
  | 6 => !fl.testBit 2
  | 7 => fl.testBit 3
  | 8 => lastIter f.eng
  | 9 => !lastIter f.eng
  | 10 => cf.testBit 0
  | 11 => cf.testBit 1
  | 12 => cf.testBit 2
  | 13 => cf.testBit 3
  | 14 => decide (f.mer.pcnt &&& engReg f.eng 0x68 = engReg f.eng 0x6A)
  | _ => false

/-- A level that has ended (R106). -/
def lvlEnd (_l : Level) : Level := level0

/-- The channel registers at the end of an iteration of a channel repeat (R110). -/
def chanStep (cstep : Nat) (e : Eng) : Eng :=
  let cx := (engReg e 0x51 + cstep + 1) % 128
  putReg 0x52 0x1FFFF (0x200 + 16 * cx) (putReg 0x51 0x7F cx e)

/-- What follows the slots of an instruction: nothing, the context load of the next iteration, no-op slots. -/
inductive Follow where
  | none
  | ctx (ghost : Bool)
  | pad (n : Nat)
  deriving DecidableEq, Repr

/-- The end test of a level after its last body instruction (R106, R107, R112): the level, whether it has ended, and what follows. -/
def endTest (l : Level) : Level × Bool × Follow :=
  if l.ghost then
    if l.gRpc ≤ 1 then ({ l with ghost := false, chan := false, cached := false, start := 0, stop := 0, gRpc := 0 }, true, .none)
    else ({ l with gRpc := l.gRpc - 1 }, false, if l.chan then .ctx true else .none)
  else if l.span then
    if l.spanK ≤ 1 ∨ l.rpc ≤ 1 then (lvlEnd l, true, .pad (l.spanPad + (l.spanK - 1) * (l.stop + 1 - l.start)))
    else ({ l with rpc := l.rpc - 1, spanK := l.spanK - 1 }, false, .none)
  else if l.rpc ≤ 1 then (lvlEnd l, true, .none)
  else ({ l with rpc := l.rpc - 1 }, false, if l.chan then .ctx false else .none)

/-- The engine registers that the end of an iteration of `l` changes: the channel of R110, SPAN_LEFT and SPAN_ACTIVE of R112. -/
def iterDone (l : Level) (e : Eng) : Eng :=
  let e := if l.chan ∧ l.act then chanStep l.cstep e else e
  if l.span ∧ l.act then { e with spanLeft := e.spanLeft - 1, spanAct := e.spanAct && decide (1 < e.spanLeft) } else e

/-- The instruction at address `a` has issued: the next address and the levels (R106), level 0 tested at once where level 1 ends on the same
instruction. -/
def levelStep (a : Nat) (e : Eng) : Eng × Follow :=
  let outer (e : Eng) : Eng × Follow :=
    if lvlLive e.l0 ∧ e.l0.stop = a then
      let t := endTest e.l0
      let e := iterDone e.l0 e
      ({ e with l0 := t.1, ip := if t.2.1 then a + 1 else t.1.start }, t.2.2)
    else ({ e with ip := a + 1 }, .none)
  if lvlLive e.l1 then
    if e.l1.stop = a then
      let t := endTest e.l1
      let e := iterDone e.l1 e
      if t.2.1 then outer { e with l1 := t.1 } else ({ e with l1 := t.1, ip := t.1.start }, t.2.2)
    else ({ e with ip := a + 1 }, .none)
  else outer e

/-- The instruction at `ip` has issued (R106, R113). -/
def repStep (e : Eng) : Eng × Follow :=
  match e.repi with
  | some r => if 1 < r.left then ({ e with repi := some { r with left := r.left - 1, begun := true } }, .none) else levelStep e.ip { e with repi := none }
  | none => levelStep e.ip e

/-! ### Context loads (R63, R110) -/

/-- The five slots of a context load: four pair reads and a single read on the X bus, the registers visible after the last; `c` is CTX as its first slot sees it. -/
def ctxLoadAt (c : Nat) (f : FieldDie) : FieldDie :=
  if seamSlot f.mer < f.mer.slot + 5 then advance 5 f
  else
    let step (p : FieldDie × List W32) (k : Nat) : FieldDie × List W32 :=
      let a := xRead p.1 ((c + 2 * k) % 2 ^ 17)
      let b := xRead a.1 ((c + 2 * k + 1) % 2 ^ 17)
      (advance 1 b.1, p.2 ++ [a.2, b.2])
    let r := [0, 1, 2, 3].foldl step (f, [])
    let l := xRead r.1 ((c + 8) % 2 ^ 17)
    let g := (List.range 8).foldl (fun g i => pushReg 1 (0x28 + i) 17 ((wAt r.2 i).toNat : Int) g) l.1
    advance 1 (pushReg 1 0x54 4 (l.2.toNat : Int) g)

/-- The context load from CTX. -/
def ctxLoad (f : FieldDie) : FieldDie := ctxLoadAt (engReg f.eng 0x52) f

/-- What follows the slots of an instruction. -/
def follow (w : Follow) (f : FieldDie) : FieldDie :=
  match w with
  | .none => f
  | .ctx true => advance 5 f
  | .ctx false => ctxLoad f
  | .pad n => advance n f

/-- An instruction that takes `n` slots ends: the repeats, its slots, what follows. -/
def endIssue (n : Nat) (f : FieldDie) : FieldDie :=
  let r := repStep f.eng
  follow r.2 (advance n { f with eng := r.1 })

/-! ### Issue -/

/-- The engine may issue: a pass runs, its seam has not been made (R42, R44). -/
def engRuns (f : FieldDie) : Bool := f.mer.running && !f.mer.seamDone

/-- A format C instruction that a command issues after a REPI, in place of the one fetched with it: the REPI is faulted, it has taken its slot as a
no-op, and the instruction issues once (R113). -/
def repiCheck (fmtC : Bool) (f : FieldDie) : FieldDie :=
  match f.eng.repi with
  | some r =>
    if fmtC ∧ !r.begun then
      let g := { f with eng := { f.eng with repi := none } }
      if f.eng.l0.ghost ∨ f.eng.l1.ghost then g else isaFaultAt r.slot 1 g
    else f
  | none => f

/-- Encoding faults are recorded whatever the condition (R86). Which of two faults raised in one slot MER_ISA_FIRST captures is open: the model takes
those of the encoding first, in the order of the list, then those of the effect in the order in which it reads its operands (DESIGN CHOICE, log
entry 60). -/
def encFaults (ks : List Nat) (f : FieldDie) : FieldDie := ks.foldl (fun f k => isaFault k f) f

/-- The start of an issue: nothing while no pass runs, an overrun at or beyond the first seam slot (R44), else the body of the issue. -/
def atIssue (fmtC : Bool) (body : FieldDie → FieldDie) (f : FieldDie) : FieldDie :=
  if engRuns f = false then f
  else if seamSlot f.mer ≤ f.mer.slot then { f with mer := { f.mer with overran := true } }
  else body (repiCheck fmtC f)

/-- One instruction of `slots` slots: its encoding faults, its effect where the condition is true, its end. In a construct whose condition
was false it is a no-op. -/
def issue (fmtC : Bool) (slots : Nat) (cond : BitVec 4) (enc : List Nat) (eff : FieldDie → FieldDie) : FieldDie → FieldDie :=
  atIssue fmtC (fun f =>
    if inGhost f.eng then endIssue slots f
    else
      let g := encFaults enc f
      endIssue slots (if condTrue g cond then eff g else g))

/-! ### Format A -/

/-- The three operands of a format A word with their uses; the accesses that the opcode allows on X, Y and Z. -/
structure Ops3 where
  x  : BusOp
  y  : BusOp
  z  : BusOp
  ux : OpUse
  uy : OpUse
  uz : OpUse
  deriving DecidableEq, Repr

/-- The operands of three nine-bit fields. -/
def ops3 (x y z : BitVec 9) (ax ay az : List Nat) : Ops3 :=
  ⟨busOp x, busOp y, busOp z, opUse 0 ax (busOp x), opUse 1 ay (busOp y), opUse 2 az (busOp z)⟩

/-- RESERVED_OP of operands that are suppressed (R89, R118). -/
def opsFault (o : Ops3) : List Nat := if o.ux = .suppressed ∨ o.uy = .suppressed ∨ o.uz = .suppressed then [0] else []

/-- The pointers of the operands move on. -/
def opsMods (o : Ops3) (f : FieldDie) : FieldDie := postMods [(o.ux, o.x), (o.uy, o.y), (o.uz, o.z)] [] f

/-- One format A instruction: `ok` is false for a reserved SUB or OFMT, which executes as with a false condition (R83, R119). -/
def issueA (i : FmtA) (ok : Bool) (ax ay az : List Nat) (eff : Ops3 → FieldDie → FieldDie) : FieldDie → FieldDie :=
  let o := ops3 i.xop i.yop i.zop ax ay az
  if ok then issue false 1 i.cond (opsFault o) (fun f => opsMods o (eff o f)) else issue false 1 i.cond [0] id

/-- A format A instruction without bus operands. -/
def issueR (i : FmtA) (ok : Bool) (eff : FieldDie → FieldDie) : FieldDie → FieldDie := issueA i ok [] [] [] (fun _ => eff)

/-- SUB as a number, SAT and F as Bools. -/
def subN (i : FmtA) : Nat := i.sub.toNat
def satB (i : FmtA) : Bool := i.sat = 1
def flagB (i : FmtA) : Bool := i.f = 1

end Sys2Proof.Machine
end

