-- ==== Sys2Proof/Machine/EngMul.lean ====
section
/-! DEFINITION. Multiplies, accumulator operations and extractions of the engine (R117, R120 to R123). -/

namespace Sys2Proof.Machine

/-- SUB of the multiply opcodes (R119): CLR, the rest reserved. -/
def clrOk (i : FmtA) : Bool := decide (subN i < 2)

/-- CLR. -/
def clrB (i : FmtA) : Bool := decide (subN i % 2 = 1)

/-- The aligned product of two words. -/
def prodA (i : FmtA) (x y : Int) : Int := alignP i.pf.toNat (x * y)

/-- An accumulation of `p` into AC[ACD] with latency 3 (R99, R100). -/
def accumulate (i : FmtA) (p : Int) (f : FieldDie) : FieldDie := pushFly 3 (.mac i.acd.toNat (clrB i) p (satB i) (flagB i)) f

/-- A raw product into PH[ACD[1:0]] with latency 3; V and Q clear (R81, R84). -/
def toPh (i : FmtA) (p : Int) (f : FieldDie) : FieldDie := pushFlags 3 (flagB i) (plainRes p) (pushReg 3 (0x48 + i.acd.toNat % 4) 64 p f)

/-- D[RA], D[RB] and the registers above them. -/
def ra (i : FmtA) (f : FieldDie) : Int := dI f.eng i.ra.toNat
def rb (i : FmtA) (f : FieldDie) : Int := dI f.eng i.rb.toNat
def ra1 (i : FmtA) (f : FieldDie) : Int := dI f.eng (i.ra.toNat + 1)
def rb1 (i : FmtA) (f : FieldDie) : Int := dI f.eng (i.rb.toNat + 1)

/-- The X and the Y read of an instruction, then `k` of the two words. -/
def withXY (o : Ops3) (k : Int → Int → FieldDie → FieldDie) (f : FieldDie) : FieldDie :=
  let x := opRead 0 o.ux o.x f
  let y := opRead 1 o.uy o.y x.1
  k x.2.1.toInt y.2.1.toInt y.1

def execMpy (i : FmtA) (s : State) := fieldCmd (issueR i (clrOk i) (fun f => toPh i (ra i f * rb i f) f)) s
def execMpyxy (i : FmtA) (s : State) := fieldCmd (issueA i (clrOk i) [1] [1] [] (fun o => withXY o (fun x y => toPh i (x * y)))) s
def execMac (i : FmtA) (s : State) := fieldCmd (issueR i (clrOk i) (fun f => accumulate i (prodA i (ra i f) (rb i f)) f)) s
def execMsu (i : FmtA) (s : State) := fieldCmd (issueR i (clrOk i) (fun f => accumulate i (-(prodA i (ra i f) (rb i f))) f)) s
def execMacxy (i : FmtA) (s : State) := fieldCmd (issueA i (clrOk i) [1] [1] [] (fun o => withXY o (fun x y => accumulate i (prodA i x y)))) s
def execMsuxy (i : FmtA) (s : State) := fieldCmd (issueA i (clrOk i) [1] [1] [] (fun o => withXY o (fun x y => accumulate i (-(prodA i x y))))) s

/-- MACL: the registers as visible at issue are multiplied while the reads load them. -/
def macl (i : FmtA) (o : Ops3) (f : FieldDie) : FieldDie :=
  let p := prodA i (ra i f) (rb i f)
  accumulate i p (withXY o (fun x y f => pushReg 2 i.rb.toNat 32 y (pushReg 2 i.ra.toNat 32 x f)) f)

def execMacl (i : FmtA) (s : State) := fieldCmd (issueA i (clrOk i) [1] [1] [] (macl i)) s
def execMac2 (i : FmtA) (s : State) :=
  fieldCmd (issueR i (clrOk i) (fun f => accumulate i (prodA i (ra i f) (rb i f) + prodA i (ra1 i f) (rb1 i f)) f)) s
def execMac2n (i : FmtA) (s : State) :=
  fieldCmd (issueR i (clrOk i) (fun f => accumulate i (prodA i (ra i f) (rb i f) - prodA i (ra1 i f) (rb1 i f)) f)) s

/-- TAP (R120): the word read moves one place up, unless that place lies in the half just read (R96). -/
def tapEff (i : FmtA) (o : Ops3) (f : FieldDie) : FieldDie :=
  let x := opRead 0 o.ux o.x f
  let y := opRead 1 o.uy o.y x.1
  let g := accumulate i (prodA i x.2.1.toInt y.2.1.toInt) y.1
  if o.ux = .live then
    let a := opOffset f.eng o.x
    let w := opAddr f.eng 0 o.x (modAdd f.eng true o.x.ptr a 1)
    if w % 2 = opAddr f.eng 0 o.x a % 2 then isaFault 2 g else pushBank 0 0 w x.2.1 g
  else g

def execTapOp (i : FmtA) (s : State) := fieldCmd (issueA i (clrOk i) [1] [1] [] (tapEff i)) s

/-- TAPC (R121); it has no CLR (R119). -/
def tapcEff (i : FmtA) (o : Ops3) (f : FieldDie) : FieldDie :=
  let x := opRead 0 o.ux o.x f
  let y := opRead 1 o.uy o.y x.1
  accumulate i (prodA i x.2.1.toInt y.2.1.toInt + prodA i x.2.2.toInt y.2.2.toInt) y.1

def execTapc (i : FmtA) (s : State) := fieldCmd (issueA i (decide (subN i = 0)) [3] [3] [] (tapcEff i)) s

/-- MACPH: an accumulation from PH with latency 1 on the accumulator visible at issue (R117). -/
def macphEff (i : FmtA) (f : FieldDie) : FieldDie :=
  let acc := if clrB i then 0 else acI f.eng i.acd.toNat
  let t := alignP i.pf.toNat (phI f.eng i.rb.toNat)
  let r := fitRes 72 (satB i) (if 2 ≤ subN i then acc - t else acc + t)
  pushFlags 1 (flagB i) r (pushReg 1 (0x30 + i.acd.toNat) 72 r.val f)

def execMacph (i : FmtA) (s : State) := fieldCmd (issueR i (decide (subN i < 4)) (macphEff i)) s

/-- A data register times a word read on one bus. -/
def macRead (i : FmtA) (bus : Nat) (u : OpUse) (o : BusOp) (f : FieldDie) : FieldDie :=
  let r := opRead bus u o f
  accumulate i (prodA i (ra i f) r.2.1.toInt) r.1

def execMacrz (i : FmtA) (s : State) := fieldCmd (issueA i (clrOk i) [] [] [1] (fun o => macRead i 2 o.uz o.z)) s
def execMacry (i : FmtA) (s : State) := fieldCmd (issueA i (clrOk i) [] [1] [] (fun o => macRead i 1 o.uy o.y)) s

/-- MACP: one product into each of two accumulators. -/
def macpEff (i : FmtA) (f : FieldDie) : FieldDie :=
  pushFly 3 (.macp i.acd.toNat ((i.acd.toNat + 1) % 8) (clrB i) (prodA i (ra i f) (rb i f)) (prodA i (ra1 i f) (rb i f)) (satB i) (flagB i)) f

def execMacp (i : FmtA) (s : State) := fieldCmd (issueR i (clrOk i) (macpEff i)) s

/-- EXT and EXTS (R122): the extraction, the clear of SUB[0], and the writes of EXTS in slot t + 1. -/
def extEff (i : FmtA) (o : Ops3) (f : FieldDie) : FieldDie :=
  let r := extractRes (acI f.eng i.acd.toNat) i.shift.toNat i.ofmt.toNat 0 (satB i)
  let g := pushReg 1 i.ra.toNat 32 r.val f
  let g := if clrB i then pushReg 1 (0x30 + i.acd.toNat) 72 0 g else g
  let g := pushFlags 1 (flagB i) r g
  opWrite 1 2 o.uz o.z (ofI r.val) (opWrite 1 1 o.uy o.y (ofI r.val) (opWrite 1 0 o.ux o.x (ofI r.val) g))

/-- SUB and OFMT of the extractions (R83, R119). -/
def extOk (i : FmtA) : Bool := clrOk i && decide (i.ofmt ≠ 3)

def execExtOp (i : FmtA) (s : State) := fieldCmd (issueA i (extOk i) [] [] [] (extEff i)) s
def execExtsOp (i : FmtA) (s : State) := fieldCmd (issueA i (extOk i) [2] [2] [2] (extEff i)) s

/-- ACC with the SUB of its row (R123). -/
def accEff (sub : Nat) (i : FmtA) (f : FieldDie) : FieldDie :=
  let r := accRes sub i.shift.toNat (satB i) (acI f.eng i.acd.toNat) (acI f.eng i.rb.toNat) (ra i f)
  pushFlags 1 (flagB i) r (pushReg 1 (0x30 + i.acd.toNat) 72 r.val f)

def execAccClr (i : FmtA) (s : State) := fieldCmd (issueR i true (accEff 0 i)) s
def execAccMov (i : FmtA) (s : State) := fieldCmd (issueR i true (accEff 1 i)) s
def execAccAdd (i : FmtA) (s : State) := fieldCmd (issueR i true (accEff 2 i)) s
def execAccSub (i : FmtA) (s : State) := fieldCmd (issueR i true (accEff 3 i)) s
def execAccNeg (i : FmtA) (s : State) := fieldCmd (issueR i true (accEff 4 i)) s
def execAccAbs (i : FmtA) (s : State) := fieldCmd (issueR i true (accEff 5 i)) s
def execAccShl (i : FmtA) (s : State) := fieldCmd (issueR i true (accEff 6 i)) s
def execAccShr (i : FmtA) (s : State) := fieldCmd (issueR i true (accEff 7 i)) s
def execAccLdf (i : FmtA) (s : State) := fieldCmd (issueR i true (accEff 8 i)) s
def execAccLdi (i : FmtA) (s : State) := fieldCmd (issueR i true (accEff 9 i)) s

end Sys2Proof.Machine
end

