-- ==== Sys2Proof/Machine/EngAlu.lean ====
section
/-! DEFINITION. Data operations of the engine: ALU, LOGIC, SHF, NORM, CVT, CLAMP, PEAK (R124, R125). -/

namespace Sys2Proof.Machine

/-- D[RA] := a result with latency 1, the flags with it where F is 1 (R84, R99). -/
def toRa (i : FmtA) (r : Res) (f : FieldDie) : FieldDie := pushFlags 1 (flagB i) r (pushReg 1 i.ra.toNat 32 r.val f)

/-- ALU with the SUB of its row; CMP writes no register and sets the flags whatever F holds. -/
def aluEff (sub : Nat) (i : FmtA) (f : FieldDie) : FieldDie :=
  let r := aluRes sub (satB i) (ra i f) (rb i f)
  if sub = 6 then pushFlags 1 true r f else toRa i r f

/-- LOGIC with the SUB of its row; TST writes no register and sets the flags whatever F holds. -/
def logicEff (sub : Nat) (i : FmtA) (f : FieldDie) : FieldDie :=
  let r := logicRes sub (dW f.eng i.ra.toNat) (dW f.eng i.rb.toNat)
  if sub = 5 then pushFlags 1 true r f else toRa i r f

/-- SHF by SHIFT, kind `k`. -/
def shfEff (k : Nat) (i : FmtA) (f : FieldDie) : FieldDie := toRa i (shiftRes k i.shift.toNat (satB i) (dW f.eng i.ra.toNat)) f

/-- SHF by D[RB][4:0], kind `k`. -/
def shfRegEff (k : Nat) (i : FmtA) (f : FieldDie) : FieldDie :=
  toRa i (shiftRes k ((dW f.eng i.rb.toNat).toNat % 32) (satB i) (dW f.eng i.ra.toNat)) f

/-- NORM of an accumulator, and of a data register. -/
def normAcEff (i : FmtA) (f : FieldDie) : FieldDie := toRa i (plainRes (normOf 72 (acI f.eng i.acd.toNat))) f
def normDEff (i : FmtA) (f : FieldDie) : FieldDie := toRa i (plainRes (normOf 32 (rb i f))) f

/-- CVT with the SUB of its row. -/
def cvtEff (sub : Nat) (i : FmtA) (f : FieldDie) : FieldDie := toRa i (cvtRes sub (dW f.eng i.rb.toNat)) f

/-- PEAK writes D[RB]. -/
def peakEff (i : FmtA) (f : FieldDie) : FieldDie :=
  let r := peakRes (ra i f) (rb i f)
  pushFlags 1 (flagB i) r (pushReg 1 i.rb.toNat 32 r.val f)

def execAluAdd (i : FmtA) (s : State) := fieldCmd (issueR i true (aluEff 0 i)) s
def execAluSub (i : FmtA) (s : State) := fieldCmd (issueR i true (aluEff 1 i)) s
def execAluNeg (i : FmtA) (s : State) := fieldCmd (issueR i true (aluEff 2 i)) s
def execAluAbs (i : FmtA) (s : State) := fieldCmd (issueR i true (aluEff 3 i)) s
def execAluMin (i : FmtA) (s : State) := fieldCmd (issueR i true (aluEff 4 i)) s
def execAluMax (i : FmtA) (s : State) := fieldCmd (issueR i true (aluEff 5 i)) s
def execAluCmp (i : FmtA) (s : State) := fieldCmd (issueR i true (aluEff 6 i)) s
def execAluMov (i : FmtA) (s : State) := fieldCmd (issueR i true (aluEff 7 i)) s
def execAluAvg (i : FmtA) (s : State) := fieldCmd (issueR i true (aluEff 8 i)) s
def execLogicAnd (i : FmtA) (s : State) := fieldCmd (issueR i true (logicEff 0 i)) s
def execLogicOr (i : FmtA) (s : State) := fieldCmd (issueR i true (logicEff 1 i)) s
def execLogicXor (i : FmtA) (s : State) := fieldCmd (issueR i true (logicEff 2 i)) s
def execLogicAndn (i : FmtA) (s : State) := fieldCmd (issueR i true (logicEff 3 i)) s
def execLogicNot (i : FmtA) (s : State) := fieldCmd (issueR i true (logicEff 4 i)) s
def execLogicTst (i : FmtA) (s : State) := fieldCmd (issueR i true (logicEff 5 i)) s
def execShfLsl (i : FmtA) (s : State) := fieldCmd (issueR i true (shfEff 0 i)) s
def execShfLsr (i : FmtA) (s : State) := fieldCmd (issueR i true (shfEff 1 i)) s
def execShfAsr (i : FmtA) (s : State) := fieldCmd (issueR i true (shfEff 2 i)) s
def execShfRor (i : FmtA) (s : State) := fieldCmd (issueR i true (shfEff 3 i)) s
def execShfLslReg (i : FmtA) (s : State) := fieldCmd (issueR i true (shfRegEff 0 i)) s
def execShfLsrReg (i : FmtA) (s : State) := fieldCmd (issueR i true (shfRegEff 1 i)) s
def execShfAsrReg (i : FmtA) (s : State) := fieldCmd (issueR i true (shfRegEff 2 i)) s
def execShfRorReg (i : FmtA) (s : State) := fieldCmd (issueR i true (shfRegEff 3 i)) s
def execNormAc (i : FmtA) (s : State) := fieldCmd (issueR i true (normAcEff i)) s
def execNormD (i : FmtA) (s : State) := fieldCmd (issueR i true (normDEff i)) s
def execCvtQ131ToQ329 (i : FmtA) (s : State) := fieldCmd (issueR i true (cvtEff 0 i)) s
def execCvtQ329ToQ131 (i : FmtA) (s : State) := fieldCmd (issueR i true (cvtEff 1 i)) s
def execCvtF32ToQ131 (i : FmtA) (s : State) := fieldCmd (issueR i true (cvtEff 2 i)) s
def execCvtQ131ToF32 (i : FmtA) (s : State) := fieldCmd (issueR i true (cvtEff 3 i)) s
def execClamp (i : FmtA) (s : State) := fieldCmd (issueR i (decide (subN i = 0)) (fun f => toRa i (clampRes (ra i f) (rb i f)) f)) s
def execPeak (i : FmtA) (s : State) := fieldCmd (issueR i (decide (subN i = 0)) (peakEff i)) s

end Sys2Proof.Machine
end

