-- ==== Sys2Proof/Machine/EngMove.lean ====
section
/-! DEFINITION. Moves, bus operations, strings, atomics, pointer loads and the immediate format of the engine (R90, R126 to R131). -/

namespace Sys2Proof.Machine

/-- A register code read as a source (R78): 0 for a reserved one. -/
def srcCode (f : FieldDie) (c : Nat) : W32 := w32 ((codeRead f c).getD 0)

/-- A write of a register code by a move or format B, with the latency of R99; an RPC write that no level takes is ignored with REG_CODE. -/
def toCode (c : Nat) (v : W32) (f : FieldDie) : FieldDie :=
  if codeWritable c = false then f
  else match codeTarget f.eng c v.toNat with
    | some ws => ws.foldl (fun f w => pushFly (codeLat c) (.reg w.1 w.2.1 w.2.2) f) f
    | none => isaFault 4 f

/-- REG_CODE of the codes that an encoding reads and writes (R78, R79, R86). -/
def codeFaults (rd wr : List Nat) : List Nat := if rd.all codeListed && wr.all codeWritable then [] else [4]

/-! ### MOVR -/

/-- Bits [hi:lo] of a MOVR word. -/
def movBits (i : FmtM) (hi lo : Nat) : Nat := nfld i.bits.toNat hi lo

/-- MOVR (R126): the reserved fields, the ACC of ZOP and SUB are 0 (R119). -/
def movOk (i : FmtM) : Bool :=
  decide (movBits i 30 29 = 0) && decide (movBits i 21 20 = 0) && decide (movBits i 19 18 = 0) && decide (movBits i 10 6 = 0)

/-- The copy, and the flags of the value copied where F is 1. -/
def movEff (i : FmtM) (f : FieldDie) : FieldDie :=
  let v := srcCode f (movBits i 37 31)
  pushFlags (codeLat (movBits i 28 22)) (decide (movBits i 53 53 = 1)) (plainRes v.toInt) (toCode (movBits i 28 22) v f)

def execMovr (i : FmtM) (s : State) :=
  let codes := codeFaults [movBits i 37 31] [movBits i 28 22]
  fieldCmd (if movOk i then issue false 1 i.cond codes (movEff i) else issue false 1 i.cond (0 :: codes) id) s

/-! ### BUS, SMOV, SFILL, LDP -/

/-- SUB must be 0 (R119). -/
def sub0 (i : FmtA) : Bool := decide (subN i = 0)

/-- A read operand loads a data register, a pair the one above it too, latency 2; a suppressed read loads 0 (R89, R127). -/
def busLoad (bus : Nat) (u : OpUse) (o : BusOp) (r : Nat) (f : FieldDie) : FieldDie :=
  if u = .absent ∨ o.acc = 2 then f
  else
    let v := opRead bus u o f
    let g := pushReg 2 (r % 16) 32 v.2.1.toInt v.1
    if o.acc = 3 then pushReg 2 ((r + 1) % 16) 32 v.2.2.toInt g else g

/-- BUS (R127): each operand with its register, the writes from the values read at issue. -/
def busEff (i : FmtA) (o : Ops3) (f : FieldDie) : FieldDie :=
  let one (bus : Nat) (u : OpUse) (p : BusOp) (r : Nat) (g : FieldDie) : FieldDie :=
    busLoad bus u p r (opWrite 0 bus u p (dW f.eng r) g)
  one 2 o.uz o.z (8 + i.acd.toNat) (one 1 o.uy o.y i.rb.toNat (one 0 o.ux o.x i.ra.toNat f))

def execBusOp (i : FmtA) (s : State) := fieldCmd (issueA i (sub0 i) [1, 2, 3] [1, 2, 3] [1, 2, 3] (busEff i)) s

/-- The operand of one bus, and its use. -/
def opOn (o : Ops3) (bus : Nat) : OpUse × BusOp := if bus = 0 then (o.ux, o.x) else if bus = 1 then (o.uy, o.y) else (o.uz, o.z)

/-- The source and the destination bus of SMOV (R128). -/
def smovSrc (i : FmtA) : Nat := subN i % 4
def smovDst (i : FmtA) : Nat := subN i / 4 % 4

/-- SUB of SMOV: two different buses (R114, R128). The rule names SUB[1:0] and SUB[3:2]; SUB[4] = 1 is taken as a reserved value (DESIGN CHOICE, log
entry 60). -/
def smovOk (i : FmtA) : Bool := decide (smovSrc i < 3) && decide (smovDst i < 3) && decide (smovSrc i ≠ smovDst i) && decide (subN i < 16)

/-- The accesses that SMOV allows on a bus. -/
def smovAcc (i : FmtA) (bus : Nat) : List Nat := if smovSrc i = bus then [1] else if smovDst i = bus then [2] else []

/-- SMOV: the write is made in slot t + 2. -/
def smovEff (i : FmtA) (o : Ops3) (f : FieldDie) : FieldDie :=
  let s := opOn o (smovSrc i)
  let d := opOn o (smovDst i)
  let v := opRead (smovSrc i) s.1 s.2 f
  opWrite 2 (smovDst i) d.1 d.2 v.2.1 v.1

def execSmov (i : FmtA) (s : State) := fieldCmd (issueA i (smovOk i) (smovAcc i 0) (smovAcc i 1) (smovAcc i 2) (smovEff i)) s

/-- SFILL: D[RA] on every bus with a write operand. -/
def sfillEff (i : FmtA) (o : Ops3) (f : FieldDie) : FieldDie :=
  let v := dW f.eng i.ra.toNat
  opWrite 0 2 o.uz o.z v (opWrite 0 1 o.uy o.y v (opWrite 0 0 o.ux o.x v f))

def execSfill (i : FmtA) (s : State) := fieldCmd (issueA i (sub0 i) [2] [2] [2] (sfillEff i)) s

/-- A read operand loads a pointer, a pair the next one too, modulo 8 (R130). An operand that is suppressed for its write access (ACC 10b) loads
nothing (DESIGN CHOICE, log entry 60). -/
def ptrLoad (bus : Nat) (u : OpUse) (o : BusOp) (r : Nat) (f : FieldDie) : FieldDie :=
  if u = .absent ∨ o.acc = 2 then f
  else
    let v := opRead bus u o f
    let g := pushReg 2 (0x10 + r % 8) 17 (v.2.1.toNat : Int) v.1
    if o.acc = 3 then pushReg 2 (0x10 + (r + 1) % 8) 17 (v.2.2.toNat : Int) g else g

/-- LDP (R130). -/
def ldpEff (i : FmtA) (o : Ops3) (f : FieldDie) : FieldDie :=
  ptrLoad 2 o.uz o.z i.acd.toNat (ptrLoad 1 o.uy o.y i.rb.toNat (ptrLoad 0 o.ux o.x i.ra.toNat f))

def execLdp (i : FmtA) (s : State) := fieldCmd (issueA i (sub0 i) [1, 3] [1, 3] [1, 3] (ldpEff i)) s

/-! ### Atomics (R129, R145) -/

/-- The bus of an atomic. The rule names SUB[1:0]; a non-zero SUB[4:2] is taken as a reserved value (DESIGN CHOICE, log entry 60). -/
def atBus (i : FmtA) : Nat := subN i % 4
def atOk (i : FmtA) : Bool := decide (subN i < 3)
def atAcc (i : FmtA) (bus : Nat) : List Nat := if atBus i = bus then [1] else []

/-- An atomic cannot act on the program store: a Y operand with SPECIAL 1 is suppressed (R129). -/
def atOps (i : FmtA) : Ops3 :=
  let o := ops3 i.xop i.yop i.zop (atAcc i 0) (atAcc i 1) (atAcc i 2)
  if atBus i = 1 ∧ o.y.special ∧ o.uy = .live then { o with uy := .suppressed } else o

/-- An atomic (R129): `new` of the word and D[RA] goes back to the bank, the old word to D[RB]. -/
def atEff (new : Int → Int → Int) (i : FmtA) (f : FieldDie) : FieldDie :=
  let o := atOps i
  let p := opOn o (atBus i)
  let g :=
    if p.1 = .live then
      let a := opAddr f.eng (atBus i) p.2 (opOffset f.eng p.2)
      let r := busRd f (atBus i) a
      pushReg 2 i.rb.toNat 32 r.2.toInt (pushBank 0 (atBus i) a (ofI (new r.2.toInt (ra i f))) r.1)
    else pushReg 2 i.rb.toNat 32 0 f
  opsMods o g

/-- The issue of an atomic. -/
def issueAt (i : FmtA) (new : Int → Int → Int) : FieldDie → FieldDie :=
  if atOk i then issue false 1 i.cond (opsFault (atOps i)) (atEff new i) else issue false 1 i.cond [0] id

def execAtadd (i : FmtA) (s : State) := fieldCmd (issueAt i (fun w d => (fitRes 32 (satB i) (w + d)).val)) s
def execAtswp (i : FmtA) (s : State) := fieldCmd (issueAt i (fun _ d => d)) s

/-! ### Format B (R90, R131) -/

/-- OPI with the IOP of its row: carried out at 32 bits. -/
def opiVal (iop : Nat) (r m : W32) : W32 :=
  match iop with
  | 0 => m
  | 1 => r + m
  | 2 => r &&& m
  | 3 => r ||| m
  | _ => r ^^^ m

/-- OPI: a non-zero value in bits [43:32] makes it a no-op. -/
def issueOpi (iop : Nat) (i : FmtB) : FieldDie → FieldDie :=
  let c := i.reg.toNat
  let codes := codeFaults (if iop = 0 then [] else [c]) [c]
  if i.rsv = 0 then issue false 1 i.cond codes (fun f => toCode c (opiVal iop (srcCode f c) i.imm) f)
  else issue false 1 i.cond (0 :: codes) id

def execOpiMov (i : FmtB) (s : State) := fieldCmd (issueOpi 0 i) s
def execOpiAdd (i : FmtB) (s : State) := fieldCmd (issueOpi 1 i) s
def execOpiAnd (i : FmtB) (s : State) := fieldCmd (issueOpi 2 i) s
def execOpiOr (i : FmtB) (s : State) := fieldCmd (issueOpi 3 i) s
def execOpiXor (i : FmtB) (s : State) := fieldCmd (issueOpi 4 i) s

/-- IOP 000b, bits [43:32] and IMM[31:18] 0 (R90, R131). -/
def immOk (i : FmtB) : Bool := decide (i.iop = 0) && decide (i.rsv = 0) && decide (i.imm.toNat < 2 ^ 18)

/-- LDX, LDY, LDZ: D[REG] takes the word with latency 2; a code beyond D15 is ignored with REG_CODE. -/
def issueLd (bus : Nat) (i : FmtB) : FieldDie → FieldDie :=
  let c := i.reg.toNat
  let codes := if c < 16 then [] else [4]
  if immOk i then
    issue false 1 i.cond codes (fun f =>
      if c < 16 then
        let r := busRd f bus (if bus = 2 then i.imm.toNat else i.imm.toNat % 2 ^ 17)
        pushReg 2 c 32 r.2.toInt r.1
      else f)
  else issue false 1 i.cond (0 :: codes) id

/-- STX, STY, STZ: the register as read by its code. -/
def issueSt (bus : Nat) (i : FmtB) : FieldDie → FieldDie :=
  let c := i.reg.toNat
  if immOk i then
    issue false 1 i.cond (codeFaults [c] []) (fun f => pushBank 0 bus (if bus = 2 then i.imm.toNat else i.imm.toNat % 2 ^ 17) (srcCode f c) f)
  else issue false 1 i.cond (0 :: codeFaults [c] []) id

def execLdx (i : FmtB) (s : State) := fieldCmd (issueLd 0 i) s
def execLdy (i : FmtB) (s : State) := fieldCmd (issueLd 1 i) s
def execLdz (i : FmtB) (s : State) := fieldCmd (issueLd 2 i) s
def execStx (i : FmtB) (s : State) := fieldCmd (issueSt 0 i) s
def execSty (i : FmtB) (s : State) := fieldCmd (issueSt 1 i) s
def execStz (i : FmtB) (s : State) := fieldCmd (issueSt 2 i) s

/-- OPIM (R131): AX ⊕ m for the pointer that REG names. -/
def issueOpim (i : FmtB) : FieldDie → FieldDie :=
  let c := i.reg.toNat
  let ok := decide (0x10 ≤ c) && decide (c < 0x18)
  let codes := if ok then [] else [4]
  if immOk i && decide (i.imm.toNat < 2 ^ 17) then
    issue false 1 i.cond codes (fun f =>
      if ok then pushReg 2 c 17 (modAdd f.eng true (c - 0x10) (engReg f.eng c) (sextN 17 i.imm.toNat)) f else f)
  else issue false 1 i.cond (0 :: codes) id

def execOpim (i : FmtB) (s : State) := fieldCmd (issueOpim i) s

end Sys2Proof.Machine
end

