-- ==== Sys2Proof/Machine/EngCtl.lean ====
section
/-! DEFINITION. Format C of the engine: repeats, context loads and stores, events, no-ops (R106 to R115, R131, R132). -/

namespace Sys2Proof.Machine

/-- RESERVED_OP for a field that an opcode does not use (R109, R131): each pair says whether the field is used, and its value. -/
def unusedFault (fs : List (Bool × Nat)) : List Nat := if fs.all (fun p => p.1 || decide (p.2 = 0)) then [] else [0]

/-- The fields of a format C word besides COUNT and BUDGET. -/
def ctlFields (i : FmtC) : List (Bool × Nat) :=
  [(false, i.blen.toNat), (false, i.cache.toNat), (false, i.span.toNat), (false, i.chan.toNat), (false, i.csrc.toNat), (false, i.creg.toNat),
   (false, i.cstep.toNat), (false, i.rsv.toNat)]

/-- The unused fields of a format C opcode other than RPT and REPI. -/
def ctlUnused (i : FmtC) (count budget : Bool) : List Nat := unusedFault (ctlFields i ++ [(count, i.count.toNat), (budget, i.budget.toNat)])

/-- A one-slot no-op with REPEAT in a SPAN body (R112), else the issue given. -/
def noSpan (i : FmtC) (enc : List Nat) (k : FieldDie → FieldDie) (f : FieldDie) : FieldDie :=
  if inSpan f.eng then issue true 1 i.cond (enc ++ [1]) id f else k f

/-! ### RPT (R106 to R112) -/

/-- Body length. -/
def bodyLen (i : FmtC) : Nat := i.blen.toNat + 1

/-- The count of CSRC; `pre` is the preload of R108. -/
def ctlCount (i : FmtC) (pre : Nat) (e : Eng) : Nat :=
  match i.csrc.toNat with
  | 0 => i.count.toNat
  | 1 => (dW e i.creg.toNat).toNat % 65536
  | _ => pre

/-- The level that an RPT takes: its RPC is the preload. -/
def takenRpc (e : Eng) : Nat := if lvlLive e.l0 then e.l1.rpc else e.l0.rpc

/-- An RPT is faulted (R109). -/
def rptFaulted (i : FmtC) (e : Eng) : Bool :=
  decide (liveLevels e = 2) || (innermost e).any (fun l => decide (l.stop < e.ip + bodyLen i)) || decide (i.csrc = 3) ||
    (decide (i.span = 1) && decide (liveLevels e = 1)) || (decide (i.span = 1) && decide (i.chan = 1))

/-- RESERVED_OP of an RPT (R109). -/
def rptUnused (i : FmtC) : List Nat :=
  unusedFault [(decide (i.csrc = 0), i.count.toNat), (decide (i.csrc = 1), i.creg.toNat), (decide (i.chan = 1), i.cstep.toNat),
    (decide (i.span = 1), i.budget.toNat), (false, i.rsv.toNat)]

/-- The body goes into the repeat cache: CACHE 1 and at most 16 instructions (R109, R111). -/
def cacheUse (i : FmtC) : Bool := decide (i.cache = 1) && decide (bodyLen i ≤ 16)

/-- The RPT lies inside a body held in the cache, at whatever level (R111); of a construct whose condition was false only the slots count. -/
def inCached (e : Eng) : Bool := (lvlLive e.l0 && e.l0.cached) || (lvlLive e.l1 && e.l1.cached)

/-- The slots of the RPT itself. -/
def rptSlots (i : FmtC) (e : Eng) : Nat := if cacheUse i && !inCached e then 1 + (bodyLen i + 1) / 2 else 1

/-- Instruction `j` of the active store, as a fetch finds it. -/
def progWord (f : FieldDie) (j : Nat) : W64 :=
  let b := if f.mer.store1 then f.bk.p1 else f.bk.p0
  BitVec.ofNat 64 (rdN b.mem (8 * (j % 32768)) 8)

/-- Instruction `j` of the active store fetched: its codewords are met as by any read (R403 to R405). The manual states no word for a fetch from
an uncorrectable codeword: its bits are free (log entry 4). What follows instruction 32,767 is open: the address counts on, the store is met again from
its first instruction, and RPS and RPE read the low 15 bits (DESIGN CHOICE, log entry 60). -/
def fetchProg (f : FieldDie) (j : Nat) : FieldDie × W64 :=
  let r := fieldReadBank f (if f.mer.store1 then .p1 else .p0) (8 * (j % 32768)) 8
  match r.2 with
  | some bs => (r.1, BitVec.ofNat 64 (ofBytesLE bs))
  | none =>
    let a := draw r.1.com 8
    let b := draw a.1 8
    ({ r.1 with com := b.1 }, b.2 ++ a.2)

/-- Instructions `j` on, `n` of them. -/
def fetchRun : Nat → Nat → FieldDie → FieldDie × List W64
  | 0, _, f => (f, [])
  | n + 1, j, f =>
    let a := fetchProg f j
    let b := fetchRun n (j + 1) a.1
    (b.1, a.2 :: b.2)

/-- The next instruction's word for the sequencer in state `e`: from the repeat cache inside a body that it holds (R111), else from the active store. -/
def nextFetch (e : Eng) (f : FieldDie) : FieldDie × W64 :=
  if ((e.l0.act && e.l0.cached) || (e.l1.act && e.l1.cached)) ∧ e.cacheAt ≤ e.ip ∧ e.ip < e.cacheAt + e.cache.length then
    (f, e.cache.getD (e.ip - e.cacheAt) 0)
  else fetchProg f e.ip

/-- The instructions up to address `upto - 1` have been passed without issue: the end test of a level whose last one is among them. -/
def skipTo (upto : Nat) (e : Eng) : Eng × Follow :=
  if (innermost e).any (fun l => decide (l.stop + 1 = upto)) then levelStep (upto - 1) e else ({ e with ip := upto }, .none)

/-- A SPAN construct (R112): the iterations of this pass, or its budget of no-ops. -/
def spanStart (i : FmtC) (n : Nat) (go : Bool) (f : FieldDie) : FieldDie :=
  let e := f.eng
  let b := bodyLen i
  let budget := i.budget.toNat
  if go = false then
    let r := skipTo (e.ip + 1 + b) e
    advance (n + budget) { f with eng := r.1 }
  else
    let e := f.eng
    let e := { e with rpb := budget }
    let e := if e.spanAct then e else { e with spanLeft := ctlCount i (takenRpc e) e, spanAct := true }
    let k := min (budget / b) e.spanLeft
    if k = 0 then
      let e := { e with spanAct := e.spanAct && decide (e.spanLeft ≠ 0), l0 := level0, ip := e.ip + 1 + b }
      advance (n + budget) { f with eng := e }
    else
      let l : Level := { level0 with act := true, span := true, cached := cacheUse i, start := e.ip + 1, stop := e.ip + b, rpc := e.spanLeft,
                                     spanK := k, spanPad := budget - k * b }
      advance n { f with eng := { e with l0 := l, ip := e.ip + 1 } }

/-- A block repeat that is not SPAN, with its count (R106, R107, R110); `ghost` where it issues no-ops. -/
def rptStart (i : FmtC) (n count : Nat) (ghost : Bool) (f : FieldDie) : FieldDie :=
  let e := f.eng
  let b := bodyLen i
  if count = 0 then
    let e := if ghost then e else if lvlLive e.l0 then { e with l1 := level0 } else { e with l0 := level0 }
    let r := skipTo (e.ip + 1 + b) e
    follow r.2 (advance n { f with eng := r.1 })
  else
    let old := if lvlLive e.l0 then e.l1 else e.l0
    let l : Level := { old with act := !ghost, ghost := ghost, chan := decide (i.chan = 1), span := false, cached := cacheUse i,
                                cstep := if i.chan = 1 then i.cstep.toNat else 0, start := e.ip + 1, stop := e.ip + b,
                                rpc := if ghost then old.rpc else count, gRpc := if ghost then count else 0 }
    let e := if lvlLive e.l0 then { e with l1 := l } else { e with l0 := l }
    let f := advance n { f with eng := { e with ip := e.ip + 1 } }
    if i.chan = 1 then (if ghost then advance 5 f else ctxLoad f) else f

/-- The cache takes the body (R111). -/
def loadCache (i : FmtC) (f : FieldDie) : FieldDie :=
  if cacheUse i && !inCached f.eng then
    let r := fetchRun (bodyLen i) (f.eng.ip + 1) f
    { r.1 with eng := { r.1.eng with cacheAt := f.eng.ip + 1, cache := r.2 } }
  else f

/-- RPT (R106 to R112). -/
def rptIssue (i : FmtC) : FieldDie → FieldDie :=
  atIssue true (fun f =>
    let outer := inGhost f.eng
    if inSpan f.eng then endIssue 1 (isaFault 1 (encFaults (rptUnused i) f))
    else
      let g := if outer then f else encFaults (rptUnused i) f
      if rptFaulted i g.eng then endIssue 1 (if outer then g else isaFault 1 g)
      else
        let g := if outer ∨ i.cache = 0 ∨ bodyLen i ≤ 16 then g else isaFault 1 g
        let g := if outer ∨ i.span = 0 ∨ bodyLen i ≤ i.budget.toNat then g else isaFault 1 g
        let go := !outer && condTrue g i.cond
        let n := rptSlots i g.eng
        let g := if go then loadCache i g else g
        if i.span = 1 then spanStart i n go g
        else rptStart i n (ctlCount i (takenRpc g.eng) g.eng) (!go) g)

def execRpt (i : FmtC) (s : State) := fieldCmd (rptIssue { i with span := 0, chan := 0 }) s
def execRptChan (i : FmtC) (s : State) := fieldCmd (rptIssue { i with chan := 1 }) s
def execRptSpan (i : FmtC) (s : State) := fieldCmd (rptIssue { i with span := 1 }) s

/-! ### REPI (R113) -/

/-- The major opcode of a program word, and whether its format is C (R87). -/
def majorOf (w : W64) : Nat := nfld w.toNat 59 54
def isFmtC (w : W64) : Bool := decide (0x28 ≤ majorOf w) && decide (majorOf w < 0x30)

/-- A REPI that its own fields or the levels make faulted. -/
def repiFaulted (i : FmtC) (e : Eng) : Bool :=
  !(decide (i.blen = 0) && decide (i.cache = 0) && decide (i.span = 0) && decide (i.chan = 0) && decide (i.cstep = 0) && decide (i.budget = 0)) ||
    decide (i.csrc = 3) || (decide (i.csrc = 2) && decide (liveLevels e = 2))

/-- RESERVED_OP of a REPI. -/
def repiUnused (i : FmtC) : List Nat :=
  unusedFault [(decide (i.csrc = 0), i.count.toNat), (decide (i.csrc = 1), i.creg.toNat), (false, i.rsv.toNat)]

/-- REPI: the count is latched, and the next instruction, fetched with it, issues that often; with count 0 it is passed over, and before a format C
instruction the REPI is faulted in its own slot. The instruction that follows a REPI at an RPE is the one that the level's end test makes next (DEDUCED,
log entry 24). -/
def repiIssue (i : FmtC) : FieldDie → FieldDie :=
  atIssue true (fun f =>
    let outer := inGhost f.eng
    if inSpan f.eng then endIssue 1 (isaFault 1 (encFaults (repiUnused i) f))
    else
      let g := if outer then f else encFaults (repiUnused i) f
      if repiFaulted i g.eng then endIssue 1 (if outer then g else isaFault 1 g)
      else
        let go := !outer && condTrue g i.cond
        let n := ctlCount i (takenRpc g.eng) g.eng
        let slot := g.mer.slot
        let q := levelStep g.eng.ip g.eng
        let x := nextFetch q.1 g
        let g := x.1
        if isFmtC x.2 then endIssue 1 (if outer then g else isaFault 1 g)
        else if n = 0 then
          let r := skipTo (q.1.ip + 1) q.1
          follow r.2 (follow q.2 (advance 1 { g with eng := r.1 }))
        else
          let h := endIssue 1 g
          { h with eng := { h.eng with repi := some ⟨n, !go, slot, false, x.2⟩ } })

def execRepi (i : FmtC) (s : State) := fieldCmd (repiIssue i) s

/-! ### Contexts, events, no-ops -/

def execNopOp (i : FmtC) (s : State) := fieldCmd (issue true 1 i.cond (ctlUnused i false false) id) s

/-- LDCTX (R110): the five slots of a context load. -/
def ldctxIssue (i : FmtC) (f : FieldDie) : FieldDie :=
  noSpan i (ctlUnused i false false) (atIssue true (fun f =>
    if inGhost f.eng then endIssue 5 f
    else
      let g := encFaults (ctlUnused i false false) f
      if condTrue g i.cond then
        let r := repStep g.eng
        follow r.2 (ctxLoadAt (engReg g.eng 0x52) { g with eng := r.1 })
      else endIssue 5 g)) f

def execLdctx (i : FmtC) (s : State) := fieldCmd (ldctxIssue i) s

/-- The nine words of a context store (R131). -/
def ctxWords (e : Eng) : List W32 := (List.range 8).map (fun k => w32 (engReg e (0x28 + k))) ++ [w32 (engReg e 0x54)]

/-- STCTX: two words in each of four slots, one in the fifth, of those that lie before the seam. -/
def stctxEff (f : FieldDie) : FieldDie :=
  let c := engReg f.eng 0x52
  (List.range 9).foldl (fun g k => if f.mer.slot + k / 2 < seamSlot f.mer then pushBank (k / 2) 0 ((c + k) % 2 ^ 17) (wAt (ctxWords f.eng) k) g else g) f

def execStctx (i : FmtC) (s : State) :=
  fieldCmd (noSpan i (ctlUnused i false false) (issue true 5 i.cond (ctlUnused i false false) stctxEff)) s

/-- EVT (R132, R183). -/
def evtEff (code : Nat) (f : FieldDie) : FieldDie :=
  let e := f.eng
  let g := { f with eng := if e.evtQ.length < 16 then { e with evtQ := e.evtQ ++ [(code, f.mer.pcnt % 2 ^ 14)] } else { e with evtOvf := true } }
  if bit g.silt.cap.ctl 3 ∧ code = fld g.silt.cap.ctl 31 16 then capTrigger 2 g else g

def execEvt (i : FmtC) (s : State) := fieldCmd (issue true 1 i.cond (ctlUnused i true false) (evtEff i.count.toNat)) s

/-- PHASE: PMASK and PMATCH with latency 1. -/
def phaseEff (i : FmtC) (f : FieldDie) : FieldDie :=
  pushReg 1 0x6A 64 ((i.count.toNat &&& i.budget.toNat : Nat) : Int) (pushReg 1 0x68 64 (i.budget.toNat : Int) f)

def execPhaseOp (i : FmtC) (s : State) := fieldCmd (issue true 1 i.cond (ctlUnused i true true) (phaseEff i)) s

def execNopn (i : FmtC) (s : State) :=
  fieldCmd (noSpan i (ctlUnused i true false) (issue true (max 1 i.count.toNat) i.cond (ctlUnused i true false) id)) s

/-- An instruction whose encoding is reserved takes one slot, does nothing and sets RESERVED_OP (R87, R90, R119). -/
def execReservedOpcode (_w : W64) (s : State) := fieldCmd (issue false 1 0 [0] id) s

/-- MER_EVT (R132): a read removes the oldest entry and clears OVF. -/
def evtRead (f : FieldDie) : FieldDie :=
  let e := f.eng
  let v := match e.evtQ with
    | p :: _ => w32 (2 ^ 31 + b2n e.evtOvf * 2 ^ 30 + p.2 % 2 ^ 14 * 2 ^ 16 + p.1 % 2 ^ 16)
    | [] => w32 (b2n e.evtOvf * 2 ^ 30)
  setRead { f with eng := { e with evtQ := e.evtQ.drop 1, evtOvf := false } } v

def execMerEvtRead (s : State) := fieldCmd evtRead s

end Sys2Proof.Machine
end

