-- ==== Sys2Proof/Machine/EngUser.lean ====
section
/-! DEFINITION. User instructions and the decode table (R133 to R137). -/

namespace Sys2Proof.Machine

/-- A control word as a number of 128 bits. -/
def ctlWord (t : Tbl W32) (u w : Nat) : Nat :=
  (List.range 4).foldl (fun n k => n + (tget 0 t (16 * u + 4 * w + k)).toNat * 2 ^ (32 * k)) 0

/-- The number of control words of user instruction `u` in a pair of ULEN registers. -/
def ulenOf (l : W64) (u : Nat) : Nat := l.toNat / 2 ^ (2 * u) % 4 + 1

/-- A register select that R135 lists. -/
def selOk (k : Nat) : Bool := decide (k ≤ 6) || decide (k = 8)

/-- The register key that a select names, moved `d` places up: none for 00h. -/
def selKey (i : FmtU) (k d : Nat) : Option Nat :=
  let ur := nfld i.uimm.toNat 13 10
  let up := nfld i.uimm.toNat 2 0
  match k with
  | 1 => some ((i.ra.toNat + d) % 16)
  | 2 => some ((i.ra.toNat + 1 + d) % 16)
  | 3 => some ((i.rb.toNat + d) % 16)
  | 4 => some ((i.rb.toNat + 1 + d) % 16)
  | 5 => some ((ur + d) % 16)
  | 6 => some ((ur + 1 + d) % 16)
  | 8 => some (0x10 + (up + d) % 8)
  | _ => none

/-- The value of a select as a source: a data register, AX zero-extended, or zero. -/
def selVal (i : FmtU) (k : Nat) (e : Eng) : W32 := match selKey i k 0 with | some r => w32 (engReg e r) | none => 0

/-- The accumulator of a select (R135). -/
def accSel (i : FmtU) (k : Nat) : Nat :=
  let ua := nfld i.uimm.toNat 9 7
  match k with
  | 0 => i.acd.toNat
  | 1 => (i.acd.toNat + 1) % 8
  | 2 => ua
  | _ => (ua + 1) % 8

/-- A control word with no reserved bit and no reserved code in any field (R134). -/
def ctlOk (w : Nat) : Bool :=
  let alu := nfld w 56 53
  decide (w < 2 ^ 82) && decide (nfld w 1 0 ≠ 3) && selOk (nfld w 6 2) && decide (nfld w 8 7 ≠ 3) && selOk (nfld w 13 9) && decide (nfld w 15 14 ≠ 3) &&
    selOk (nfld w 20 16) && decide (nfld w 23 21 ≤ 4) && selOk (nfld w 28 24) && selOk (nfld w 33 29) && decide (nfld w 38 36 ≤ 4) && selOk (nfld w 43 39) &&
    selOk (nfld w 48 44) && decide (alu ≤ 11) && selOk (nfld w 61 57) && (if 9 ≤ alu then decide (nfld w 66 64 = 0) else selOk (nfld w 66 62)) &&
    selOk (nfld w 71 67) && decide (nfld w 77 76 ≠ 3)

/-- A result of a bus read into the register of a select, latency 2; AX takes bits [16:0] (R136). -/
def selLoad (i : FmtU) (k d : Nat) (v : W32) (f : FieldDie) : FieldDie :=
  match selKey i k d with
  | some r => if r < 16 then pushReg 2 r 32 v.toInt f else pushReg 2 r 17 (v.toNat : Int) f
  | none => f

/-- One bus field of a control word: the access that the operand's ACC gives, with the select `sel` (R136). -/
def ctlBus (i : FmtU) (bus : Nat) (u : OpUse) (o : BusOp) (sel : Nat) (f : FieldDie) : FieldDie :=
  if u = .absent then f
  else if o.acc = 2 then opWrite 0 bus u o (selVal i sel f.eng) f
  else
    let v := opRead bus u o f
    let g := selLoad i sel 0 v.2.1 v.1
    if o.acc = 3 then selLoad i sel 1 v.2.2 g else g

/-- The signed product of a multiplier's operands by its selects. -/
def ctlProd (i : FmtU) (s1 s2 : Nat) (e : Eng) : Int := (selVal i s1 e).toInt * (selVal i s2 e).toInt

/-- Both multipliers (R134, R136): products into one accumulator are summed, onto zero when either unit accumulates onto zero. -/
def ctlMac (i : FmtU) (w : Nat) (f : FieldDie) : FieldDie :=
  let e := f.eng
  let sat := w.testBit 80
  let pf := nfld w 52 51
  let oa := nfld w 23 21
  let ob := nfld w 38 36
  let pa := ctlProd i (nfld w 28 24) (nfld w 33 29) e
  let pb := ctlProd i (nfld w 43 39) (nfld w 48 44) e
  let aa := accSel i (nfld w 35 34)
  let ab := accSel i (nfld w 50 49)
  let acc (o : Nat) : Bool := o = 1 || o = 2 || o = 4
  let al (o : Nat) (p : Int) : Int := if o = 2 then -(alignP pf p) else alignP pf p
  let g := if oa = 3 then pushReg 3 (0x48 + i.acd.toNat % 4) 64 pa f else f
  let g :=
    if acc oa ∧ acc ob ∧ aa = ab then pushFly 3 (.mac aa (oa = 4 || ob = 4) (al oa pa + al ob pb) sat false) g
    else if acc oa then pushFly 3 (.mac aa (oa = 4) (al oa pa) sat false) g
    else g
  let g := if ob = 3 then pushReg 3 (0x48 + (i.acd.toNat + 1) % 4) 64 pb g else g
  if acc ob ∧ (acc oa = false ∨ aa ≠ ab) then pushFly 3 (.mac ab (ob = 4) (al ob pb) sat false) g else g

/-- The result of the ALU of a control word (R134, R136). -/
def ctlAlu (i : FmtU) (w : Nat) (e : Eng) : Res :=
  let sat := w.testBit 80
  let exs := nfld w 79 78
  let a := (selVal i (nfld w 61 57) e)
  let b := (selVal i (nfld w 66 62) e)
  let acc := acI e (accSel i (nfld w 63 62))
  let ext (x : Int) := extractRes x (nfld w 75 72) (nfld w 77 76) exs sat
  match nfld w 56 53 with
  | 1 => fitRes 32 sat (roundUp (a.toInt + b.toInt) exs)
  | 2 => fitRes 32 sat (roundUp (a.toInt - b.toInt) exs)
  | 3 => logicRes 0 a b
  | 4 => logicRes 1 a b
  | 5 => logicRes 2 a b
  | 6 => plainRes (if a.toInt < b.toInt then a.toInt else b.toInt)
  | 7 => plainRes (if a.toInt < b.toInt then b.toInt else a.toInt)
  | 8 => plainRes b.toInt
  | 9 => ext acc
  | 10 => ext (a.toInt * 2147483648 + acc)
  | _ => ext (a.toInt * 2147483648 - acc)

/-- The ALU's destination and flags. -/
def ctlAluPut (i : FmtU) (w : Nat) (f : FieldDie) : FieldDie :=
  if nfld w 56 53 = 0 then f
  else
    let r := ctlAlu i w f.eng
    let g := match selKey i (nfld w 71 67) 0 with
      | some k => if k < 16 then pushReg 1 k 32 r.val f else pushReg 2 k 17 r.val f
      | none => f
    pushFlags 1 (w.testBit 81) r g

/-- The use of an operand by a control word: 00b none, 01b as encoded, 10b without post-modification. -/
def ctlUse (bus use : Nat) (o : BusOp) : OpUse := if use = 0 then .absent else opUse bus [1, 2, 3] o

/-- The operands of control word `w`. -/
def ctlOps (i : FmtU) (w : Nat) : Ops3 :=
  ⟨busOp i.xop, busOp i.yop, busOp i.zop, ctlUse 0 (nfld w 1 0) (busOp i.xop), ctlUse 1 (nfld w 8 7) (busOp i.yop), ctlUse 2 (nfld w 15 14) (busOp i.zop)⟩

/-- RESERVED_OP of a control word (R89, R134). -/
def ctlFaults (i : FmtU) (w : Nat) : List Nat := if ctlOk w then opsFault (ctlOps i w) else [0]

/-- One control word, its units in the order X, Y, Z, MAC-A, MAC-B, ALU (R133). Where a use without post-modification (10b) and one with it (01b) name
one pointer, the pointer takes the modification of the latter (DESIGN CHOICE, log entry 60). -/
def ctlEff (i : FmtU) (w : Nat) (f : FieldDie) : FieldDie :=
  if ctlOk w then
    let o := ctlOps i w
    let g := ctlBus i 2 o.uz o.z (nfld w 20 16) (ctlBus i 1 o.uy o.y (nfld w 13 9) (ctlBus i 0 o.ux o.x (nfld w 6 2) f))
    let h := ctlAluPut i w (ctlMac i w g)
    postMods [(if nfld w 1 0 = 1 then o.ux else .absent, o.x), (if nfld w 8 7 = 1 then o.uy else .absent, o.y),
      (if nfld w 15 14 = 1 then o.uz else .absent, o.z)] [] h
  else f

/-- What the control word in slot `now` began, as begun in the slot in which its instruction issued (R116): its results and the fault captured. -/
def stampIssue (issue now : Nat) (old : Option IsaFirst) (e : Eng) : Eng :=
  { e with fly := e.fly.map (fun x => if x.issued = now then { x with issued := issue } else x),
           first := if old.isNone then e.first.map (fun c => { c with slot := issue }) else e.first }

/-- Control words `k` on, `n` of them, of an instruction that issued in slot `at'`: each in its slot (R133); those at or beyond the seam are not
issued (R44). -/
def ctlRun (i : FmtU) (go : Bool) (at' : Nat) : Nat → Nat → FieldDie → FieldDie
  | 0, _, f => f
  | n + 1, k, f =>
    if seamSlot f.mer ≤ f.mer.slot then { f with mer := { f.mer with overran := true } }
    else
      let w := ctlWord f.eng.dtAct i.user.toNat k
      let g := encFaults (ctlFaults i w) f
      let g := if go then ctlEff i w g else g
      let g := { g with eng := stampIssue at' f.mer.slot f.eng.first g.eng }
      if n = 0 then endIssue 1 g else ctlRun i go at' n (k + 1) (advance 1 g)

/-- A user instruction; in a SPAN body only its first control word issues (R112, R133). -/
def userIssue (i : FmtU) : FieldDie → FieldDie :=
  atIssue false (fun f =>
    let len := ulenOf f.eng.ulenAct i.user.toNat
    if inGhost f.eng then endIssue len f
    else
      let one := inSpan f.eng && decide (1 < len)
      let g := if one then isaFault 1 f else f
      ctlRun i (condTrue g i.cond) g.mer.slot (if one then 1 else len) 0 g)

def execUserInstruction (i : FmtU) (s : State) := fieldCmd (userIssue i) s

/-! ### The decode table (R137) -/

/-- The shadow table and ULEN become active. -/
def uCopy (e : Eng) : Eng := { e with dtAct := e.dtSh, ulenAct := e.ulenSh, uApplied := true }

/-- A write of MER_UCTL: ARM, COPY, the W1C flags. A COPY that is made clears ARM, even where the same write sets it (R137's "clears when the copy is made" read
of every copy: DESIGN CHOICE, log entry 60). -/
def uctlWrite (v : W32) (f : FieldDie) : FieldDie :=
  let e := f.eng
  let e := { e with uArm := bit v 0, uApplied := e.uApplied && !bit v 3, uRefused := e.uRefused && !bit v 2 }
  if bit v 1 then
    { f with eng := if f.mer.running then { e with uRefused := true } else { uCopy e with uArm := false } }
  else { f with eng := e }

/-- MER_UCTL as read. -/
def uctlWord (e : Eng) : W32 := w32 (b2n e.uApplied * 8 + b2n e.uRefused * 4 + b2n e.uArm)

def execUctlCopy (v : W32) (s : State) := fieldCmd (uctlWrite v) s

end Sys2Proof.Machine
end

