-- ==== Sys2Proof/Machine/SiltOps.lean ====
section
/-! DEFINITION. Silt (R163 to R189): windows, lines, taps and their interpolation, capture, playback, the streamer's work of a pass. -/

namespace Sys2Proof.Machine

/-! ### The store and its code (R165, R181, R407, R408) -/

/-- A read meets codeword `c` of the store: corrections are counted, an uncorrectable codeword is counted, reported and makes its row a
repair candidate; the row of an address is not stated, so it is free (log entry 4). The Bool says uncorrectable. -/
def dramMeet (c : Nat) (f : FieldDie) : FieldDie × Bool :=
  let s := f.silt
  match tget 0 s.err c with
  | 0 => (f, false)
  | 1 => ({ f with silt := { s with ecc := ctrAdd s.ecc 0 1, eccLast := w32 (32 * c) } }, false)
  | _ =>
    let d := draw f.com 0x9200
    let com := { d.1 with integ := addCand d.1.integ ⟨11, d.2.toNat % 65536⟩ }
    let g := { f with com := com, silt := { s with ecc := ctrAdd s.ecc 1 1, eccLast := w32 (32 * c) } }
    let data := [w32 13, w32 (32 * c)]
    (fieldFault (fieldEvent g .uncorr data) 0x103 data, true)

/-- The codewords of `n` bytes of the store. -/
def dramCws (a n : Nat) : List Nat := ((List.range n).map (fun i => (a + i) % 2 ^ 32 / 32)).eraseDups

/-- A window read of `n` bytes: none where a codeword is uncorrectable or the store is not ready (R165, R166). -/
def silRead (a n : Nat) (f : FieldDie) : FieldDie × Option (List Byte) :=
  if f.silt.ready = false then (f, none)
  else
    let r := (dramCws a n).foldl (fun (p : FieldDie × Bool) c =>
      let q := dramMeet c p.1
      (q.1, p.2 || q.2)) (f, false)
    if r.2 then (modSilt r.1 (fun s => { s with winErr := true }), none)
    else (r.1, some ((List.range n).map (fun i => rd8 f.silt.dram ((a + i) % 2 ^ 32))))

/-- Bytes written to the store: the codewords written whole, or in part with a correctable error, hold no error afterwards. -/
def dramPut (s : Silt) (a : Nat) (b : List Byte) : Silt :=
  { s with err := (dramCws a b.length).foldl (fun t c => tput 0 t c 0) s.err,
           dram := (b.foldl (fun (p : Mem × Nat) v => (wr8 p.1 (p.2 % 2 ^ 32) v, p.2 + 1)) (s.dram, a)).1 }

/-- A window write (R165): not made where it covers a part of an uncorrectable codeword, or the store is not ready. -/
def silWrite (a : Nat) (b : List Byte) (f : FieldDie) : FieldDie × Bool :=
  let part (c : Nat) : Bool := !((List.range 32).all (fun i => (a ≤ 32 * c + i) && (32 * c + i < a + b.length)))
  if f.silt.ready = false then (f, false)
  else if (dramCws a b.length).any (fun c => decide (tget 0 f.silt.err c = 2) && part c) then (modSilt f (fun s => { s with winErr := true }), false)
  else (modSilt f (fun s => dramPut s a b), true)

/-- The Silt address of a field-bus address in the window (R164). -/
def winAddr (s : Silt) (a : Nat) : Nat := (fld s.win 31 20 * 2 ^ 20 + (a - 0x20000000)) % 2 ^ 32

/-- SILT_WINDOW_ACCESS: an access that is not served ends with an error response (R165, R166). -/
def winAccess (a : BusAcc) (f : FieldDie) : FieldDie :=
  if ¬ (a.size = 1 ∨ a.size = 2 ∨ a.size = 4) ∨ a.addr % a.size ≠ 0 ∨ a.addr < 0x20000000 ∨ 0x30000000 ≤ a.addr then f
  else
    match a.write with
    | some v =>
      let r := silWrite (winAddr f.silt a.addr) (bytesLE a.size v.toNat) f
      accEnd (!r.2) r.1
    | none =>
      match silRead (winAddr f.silt a.addr) a.size f with
      | (g, some b) => setRead g (w32 (ofBytesLE b))
      | (g, none) => accEnd true (setRead g 0)

/-- SILT_PATROL: the codeword is read, and written back where it is corrected. -/
def silPatrol (c : Nat) (f : FieldDie) : FieldDie :=
  if f.silt.ready = false ∨ 2 ^ 27 ≤ c then f
  else
    let r := dramMeet c f
    if tget 0 f.silt.err c = 1 then modSilt r.1 (fun s => { s with err := tput 0 s.err c 0 }) else r.1

/-! ### Regions (R169, R182) -/

/-- LEN or FRAMES in range: a multiple of 16 from 16 to 2^26. -/
def ringOk (n : Nat) : Bool := decide (n % 16 = 0) && decide (16 ≤ n) && decide (n ≤ 2 ^ 26)

/-- A region as its first byte and its size; the regions that a line holds: as enabled, and as in force. -/
def lineRegion (n : Line) : Nat × Nat := (n.base.toNat / 64 * 64, 4 * lineLen n)
def lineHolds (n : Line) : List (Nat × Nat) :=
  (if n.en then [lineRegion n] else []) ++ (if n.enUse then [(n.baseUse.toNat / 64 * 64, 4 * lenUse n)] else [])

/-- CHANS, FRAMES, POST of the capture ring, POST taken as at most FRAMES - 16. -/
def capChans (c : Capture) : Nat := fld c.ctl 14 8
def capFrames (c : Capture) : Nat := fld c.frames 26 0
def capPost (c : Capture) : Nat := min (fld c.post 26 0) (capFrames c - 16)

/-- The region of the capture ring. -/
def capRegion (c : Capture) : Nat × Nat := (c.base.toNat / 64 * 64, 4 * capChans c * capFrames c)

/-- Two regions share a byte. -/
def overlap (a b : Nat × Nat) : Bool := decide (0 < a.2) && decide (0 < b.2) && decide (a.1 < b.1 + b.2) && decide (b.1 < a.1 + a.2)

/-- Line `l` may be enabled (R169): the region of the capture ring counts whether or not the ring is enabled. -/
def lineOk (s : Silt) (l : Nat) : Bool :=
  let n := lineAt s l
  let r := lineRegion n
  s.ready && ringOk (lineLen n) && decide (r.1 + r.2 ≤ 2 ^ 32) && !overlap r (capRegion s.cap) &&
    s.lines.all (fun e => decide (e.1 = l) || !(lineHolds e.2).any (overlap r))

/-- The capture ring's region may be used (R182). -/
def capOk (s : Silt) (c : Capture) : Bool :=
  let r := capRegion c
  s.ready && ringOk (capFrames c) && decide (1 ≤ capChans c) && decide (capChans c ≤ 64) && decide (r.1 + r.2 ≤ 2 ^ 32) &&
    s.lines.all (fun e => !(lineHolds e.2).any (overlap r))

/-- A write of word `w` of a line's descriptor (R169). -/
def lineWrite (l w : Nat) (v : W32) (f : FieldDie) : FieldDie :=
  if 1024 ≤ l then f
  else
    let n := lineAt f.silt l
    let put (n : Line) := modSilt f (fun s => { s with lines := tput line0 s.lines l n })
    match w with
    | 0 => put (if n.en then { n with refused := true } else { n with base := v &&& 0xFFFFFFC0 })
    | 1 => put (if n.en then { n with refused := true } else { n with len := v &&& 0x07FFFFFF })
    | 2 =>
      let n := { n with uncorr := n.uncorr && !bit v 2, refused := n.refused && !bit v 1 }
      if bit v 0 ∧ !n.en then put (if lineOk f.silt l then { n with en := true } else { n with refused := true })
      else put { n with en := bit v 0, restart := n.restart || (n.en && !bit v 0) }
    | _ => f

/-! ### Taps (R171, R178, R179) -/

/-- A pending bundle names group `g`. -/
def cgPending (c : Cg) (g : Nat) : Bool := c.pending.any (fun b => b.mask.testBit g)

/-- A write of a tap configuration (R171): ignored with REFUSED in the cases of the rule. -/
def tapCfgWrite (e : Nat) (v : W32) (f : FieldDie) : FieldDie :=
  if 2048 ≤ e then f
  else
    let s := f.silt
    let t := tapAt s e
    let c := v &&& 0x01FF3FF7
    let dirty := t.staged.isSome
    let busy := tapLink t.cfg && (cgPending f.cg (tapCgrp t.cfg) || gliding f.cg (tapCgrp t.cfg))
    let sinc (k : Nat) : Bool := let t := tapAt s k; bit t.cfg 0 && decide (tapKind t.cfg = 3)
    let bad :=
      (bit t.cfg 0 && (decide (tapLine c ≠ tapLine t.cfg) || decide (tapKind c ≠ tapKind t.cfg))) ||
      (dirty && decide (tapCgrp c ≠ tapCgrp t.cfg)) ||
      (busy && (decide (tapCgrp c ≠ tapCgrp t.cfg) || tapLink c != tapLink t.cfg)) ||
      (bit c 0 && decide (tapKind c = 3) && (decide (e % 2 = 1) || bit (tapAt s (e + 1)).cfg 0)) ||
      (bit c 0 && decide (0 < e) && sinc (e - 1)) || !s.ready
    modSilt f (fun s => modTap s e (fun t =>
      if bad then { t with refused := true } else { t with cfg := c, restart := t.restart || (bit t.cfg 0 && !bit c 0), staged := if tapLink c then t.staged else none }))

/-- DELAY_HI. -/
def delayHi (e : Nat) (v : W32) (f : FieldDie) : FieldDie :=
  if 2048 ≤ e then f else modSilt f (fun s => modTap s e (fun t => { t with hi := v &&& 0x3F }))

/-- A delay formed for a tap (R178): staged with LINK 1 unless its group glides, else in force by itself. -/
def delayForm (e d : Nat) (f : FieldDie) : FieldDie :=
  let t := tapAt f.silt e
  if tapLink t.cfg then
    if gliding f.cg (tapCgrp t.cfg) then modSilt f (fun s => { s with cnt := ctrAdd s.cnt 3 1 })
    else modSilt f (fun s => modTap s e (fun t => { t with staged := some d }))
  else
    modSilt f (fun s => modTap s e (fun t => if f.mer.running then { t with waiting := some d } else { t with waiting := none, used := d }))

/-- DELAY_LO. -/
def delayLo (e : Nat) (v : W32) (f : FieldDie) : FieldDie :=
  if 2048 ≤ e then f else delayForm e ((tapAt f.silt e).hi.toNat * 2 ^ 32 + v.toNat) f

/-- The delay that a read of DELAY_LO and DELAY_HI shows (R178). -/
def delayShown (t : TapSt) : Nat := (t.staged.orElse (fun _ => t.waiting)).getD t.used

/-- The taps that follow group `g`. -/
def tapFollows (g : Nat) (t : TapSt) : Bool := tapLink t.cfg && decide (tapCgrp t.cfg = g)

/-- Every tap changed. -/
def mapTaps (h : TapSt → TapSt) (s : Silt) : Silt := { s with taps := (s.taps.map (fun e => (e.1, h e.2))).filter (fun e => decide (e.2 ≠ tap0)) }

/-- Group `g` commits at once (R179): staged delays come into force. -/
def tapsJump (g : Nat) (s : Silt) : Silt :=
  mapTaps (fun t => if tapFollows g t then { t with used := t.staged.getD t.used, staged := none, glideA := none } else t) s

/-- Step `k` of a glide of group `g` with exponent `x` (R179). -/
def tapsGlide (g k x : Nat) (s : Silt) : Silt :=
  mapTaps (fun t =>
    match tapFollows g t, t.staged with
    | true, some d =>
      let a := t.glideA.getD t.used
      { t with glideA := some a, used := (glideValue a d k x).toNat }
    | _, _ => t) s

/-- Group `g` is disabled (R147, R178): staged delays are discarded. -/
def tapsDiscard (g : Nat) (s : Silt) : Silt := mapTaps (fun t => if tapFollows g t then { t with staged := none } else t) s

/-- Delays formed with LINK 0 come into force at seam slot 7. -/
def tapsWaiting (s : Silt) : Silt := mapTaps (fun t => match t.waiting with | some d => { t with used := d, waiting := none } | none => t) s

/-! ### Interpolation (R175 to R177) -/

/-- Rounding half up of n / d, d above 0. -/
def roundDiv (n d : Int) : Int := (2 * n + d) / (2 * d)

/-- The cubic weights w_-1 to w_2 in Q2.30, each rounded on its own (R175, R176). -/
def cubicRaw (fr : Nat) : List Int :=
  let t : Int := fr
  let o : Int := 4096
  [roundDiv (-(t * (t - o) * (t - 2 * o))) (6 * 64), roundDiv ((t + o) * (t - o) * (t - 2 * o)) (2 * 64),
   roundDiv (-((t + o) * t * (t - 2 * o))) (2 * 64), roundDiv ((t + o) * t * (t - o)) (6 * 64)]

/-- The series of I0(2√y), y = num / den, in units of 2^-100: `n` terms from the `k`-th, whose value is `term`. -/
def besselSum (num den : Nat) : Nat → Nat → Nat → Nat
  | 0, _, _ => 0
  | n + 1, k, term => term + besselSum num den n (k + 1) (term * num / (den * (k + 1) * (k + 1)))

/-- The unscaled sinc weight of point `k` at fraction `fr` (R175): sin(πt) and I0(7) are common to all and cancel. -/
def sincRaw (fr : Nat) (k : Int) : Int :=
  let u : Int := (fr : Int) - 4096 * k
  let y := 49 * (16 * 4096 * 4096 - u.natAbs * u.natAbs)
  let b := besselSum y (64 * 4096 * 4096) 64 0 (2 ^ 100)
  let v := (b : Int) * 4096 / u
  if k % 2 = 0 then v else -v

/-- The sinc weights w_-3 to w_4 in Q2.30, each rounded on its own (R175, R176). -/
def sincWeights (fr : Nat) : List Int :=
  if fr = 0 then [0, 0, 0, 1073741824, 0, 0, 0, 0]
  else
    let v := [-3, -2, -1, 0, 1, 2, 3, 4].map (sincRaw fr)
    let s := v.foldl (· + ·) 0
    let p := if s < 0 then v.map (fun x => -x) else v
    let t := if s < 0 then -s else s
    p.map (fun x => roundDiv (x * 1073741824) t)

/-- The place of the weight of largest magnitude, the lower one on a tie. -/
def largestAt (l : List Int) : Nat :=
  ((List.range l.length).foldl (fun (b : Nat) i => if (l.getD b 0).natAbs < (l.getD i 0).natAbs then i else b) 0)

/-- The weights corrected so that they sum to exactly 1.0 (R176). -/
def fixWeights (l : List Int) : List Int :=
  let d := 1073741824 - l.foldl (· + ·) 0
  let i := largestAt l
  l.set i (l.getD i 0 + d)

/-- The weighted sum, exact, rounded half up to Q1.31 and saturated (R176). -/
def weighSum (ws : List Int) (xs : List Int) : Int := satN 32 (roundUp ((ws.zip xs).foldl (fun a p => a + p.1 * p.2) 0) 30)

/-- The interpolated sample (R175): `x k` is x_k, `fr` the fraction. -/
def interpolate (kind fr : Nat) (x : Int → Int) : Int :=
  match kind with
  | 0 => if fr < 2048 then x 0 else x 1
  | 1 => x 0 + ((x 1 - x 0) * fr + 2048) / 4096
  | 2 => weighSum (fixWeights (cubicRaw fr)) ([-1, 0, 1, 2].map x)
  | _ => weighSum (fixWeights (sincWeights fr)) ([-3, -2, -1, 0, 1, 2, 3, 4].map x)

/-! ### The streamer's pass (R172 to R181, R184) -/

/-- An uncorrectable codeword of the store met by the streamer for a line (R181). -/
def lineUncorr (l : Nat) (f : FieldDie) : FieldDie :=
  modSilt f (fun s => modLine { s with cnt := ctrAdd s.cnt 2 1 } l (fun n => { n with uncorr := true }))

/-- The codeword of position `p` of line `l` is read by the streamer (R181); nothing is read for a position before 0, or one that is still in the line's
staging. -/
def lineMeet (l : Nat) (p : Int) (f : FieldDie) : FieldDie :=
  let n := lineAt f.silt l
  if p < 0 ∨ lenUse n = 0 ∨ p.toNat / 16 = n.pos / 16 then f
  else
    let r := dramMeet (lineAddr n p.toNat % 2 ^ 32 / 32) f
    if r.2 then lineUncorr l r.1 else r.1

/-- The codewords that a tap's window takes in this pass: the one that its newest point `hi` enters from the newest point `was` of the pass before. -/
def windowMeet (l : Nat) (hi was : Int) (f : FieldDie) : FieldDie := if was / 8 < hi / 8 then lineMeet l hi f else f

/-- Those that a refill takes, for the points from `lo` to `hi`. -/
def refillMeet (l : Nat) (hi lo : Int) (f : FieldDie) : FieldDie :=
  let g := lineMeet l hi f
  if max lo 0 / 8 < hi / 8 then lineMeet l (max lo 0) g else g

/-- Tap entry `e` in the pass that prepares the result (R172): the result word and the tap. -/
def tapCompute (f : FieldDie) (e : Nat) : FieldDie × W32 :=
  let s := f.silt
  let t := tapAt s e
  let l := tapLine t.use
  let n := lineAt s l
  let kind := tapKind t.use
  let put (t : TapSt) (v : W32) : FieldDie × W32 := (modSilt f (fun s => { s with taps := tput tap0 s.taps e t }), v)
  if !bit t.use 0 then put { t with valid := false, defer := false, clamped := false, noline := false, rateOff := false } 0
  else if framesPer (rateOf f.mer) = 2 ∧ 1024 ≤ e then put { t with valid := false, rateOff := true, noline := false, clamped := false } 0
  else if !n.enUse then put { t with valid := false, noline := true, rateOff := false, clamped := false } 0
  else
    let used := delayClamp kind (lenUse n) t.used
    let t := { t with noline := false, rateOff := false, clamped := decide (used ≠ t.used) }
    match t.win with
    | none => put { t with valid := false } 0
    | some w =>
      let now := if (t.used : Int) - w ≤ 4096 ∧ (w : Int) - t.used ≤ 4096 then t.used else w
      let d := delayClamp kind (lenUse n) now
      let q : Int := (n.pos : Int) + 1
      let x (k : Int) : Int := (lineSample s l (q - (d / 4096 : Nat) - k)).toInt
      let v := ofI (interpolate kind (d % 4096) x)
      let pts := kindPoints kind
      let g := modSilt f (fun s => { s with taps := tput tap0 s.taps e { t with valid := true, win := some now, defer := t.defer && decide (now ≠ t.used) } })
      (windowMeet l (q - (d / 4096 : Nat) - pts.1) (q - 1 - (delayClamp kind (lenUse n) w / 4096 : Nat) - pts.1) g, v)

/-- The results that are not ready by seam slot 6 (R181): none while the retries of the pass fit into the 256 free slots of the schedule. Beyond that which
entries come late is not stated, so it is free (log entry 4): such an entry presents its previous word again. -/
def tapHeld (e : Nat) (r : FieldDie × W32) : FieldDie × W32 :=
  if r.1.silt.retries ≤ 256 ∨ bit (tapAt r.1.silt e).use 0 = false then r
  else
    let c := draw r.1.com 0x1C300
    let g := { r.1 with com := c.1 }
    if bit c.2 0 then (modSilt g (fun s => modTap { s with cnt := ctrAdd s.cnt 0 1 } e (fun t => { t with held := true })), tget 0 g.silt.tapFront e)
    else (g, r.2)

/-- The refills of one pass (R180), in ascending entry order, within the budget. -/
def refillBudget (rate : Nat) : Nat := if rate ≤ 1 then 512 else if rate ≤ 3 then 256 else 128

/-- The tap waits for a refill: it is enabled on an enabled line and its window serves no delay near the one in force. -/
def needsRefill (f : FieldDie) (e : Nat) : Bool :=
  let t := tapAt f.silt e
  let n := lineAt f.silt (tapLine t.use)
  bit t.use 0 && n.enUse && !(decide (framesPer (rateOf f.mer) = 2) && decide (1024 ≤ e)) &&
    (match t.win with
     | none => true
     | some w => decide (4096 < (t.used : Int) - w) || decide (4096 < (w : Int) - t.used))

/-- Refills made, and those deferred. -/
def refillPass (f : FieldDie) : FieldDie :=
  let want := (f.silt.taps.map (·.1)).filter (needsRefill f)
  let budget := refillBudget (rateOf f.mer)
  let g := (want.take budget).foldl (fun g e =>
    let t := tapAt g.silt e
    let n := lineAt g.silt (tapLine t.use)
    let d := delayClamp (tapKind t.use) (lenUse n) t.used
    let top : Int := (n.pos : Int) + 1 - (d / 4096 : Nat)
    let pts := kindPoints (tapKind t.use)
    refillMeet (tapLine t.use) (top - pts.1) (top - pts.2) (modSilt g (fun s => modTap s e (fun t => { t with win := some t.used, defer := false })))) f
  (want.drop budget).foldl (fun g e => modSilt g (fun s => modTap { s with cnt := ctrAdd s.cnt 1 1 } e (fun t => { t with defer := true }))) g

/-- The line's input word of the pass goes to its position (R170): through the staging, a full block of 16 to the store. -/
def lineStore (s : Silt) (l : Nat) : Silt :=
  let n := lineAt s l
  if n.enUse then
    let v := tget 0 s.lineFront l
    let s := { s with stage := tput 0 s.stage (16 * l + n.pos % 16) v }
    let s :=
      if n.pos % 16 = 15 then
        let b := (List.range 16).flatMap (fun k => bytesLE 4 (tget 0 s.stage (16 * l + k)).toNat)
        { dramPut s (lineAddr n (n.pos - 15)) b with stage := tclear s.stage (16 * l) (16 * l + 16) }
      else s
    modLine s l (fun n => { n with pos := n.pos + 1 })
  else s

/-- EN of a line comes into force at seam slot 6 (R169, R170): an enable takes BASE and LEN and starts at position 0. -/
def lineEnable (l : Nat) (s : Silt) : Silt :=
  let n := lineAt s l
  if n.en && (!n.enUse || n.restart) then
    { modLine s l (fun n => { n with enUse := true, restart := false, baseUse := n.base, lenUse := n.len, pos := 0 }) with
      stage := tclear s.stage (16 * l) (16 * l + 16) }
  else if n.enUse && !n.en then
    { modLine s l (fun n => { n with enUse := false, restart := false }) with stage := tclear s.stage (16 * l) (16 * l + 16) }
  else modLine s l (fun n => { n with restart := false })

/-- The configuration of a tap comes into force at seam slot 6: a newly enabled tap waits for its refill (R171, R180). -/
def tapEnable (t : TapSt) : TapSt :=
  if bit t.cfg 0 && (!bit t.use 0 || t.restart) then { t with use := t.cfg, restart := false, win := none, valid := false }
  else { t with use := t.cfg, restart := false }

/-- The enables of seam slot 6. -/
def siltEnables (s : Silt) : Silt := mapTaps tapEnable ((s.lines.map (·.1)).foldl (fun s l => lineEnable l s) s)

/-- The sample that clip `k` delivers to the next pass, and the clip (R184). -/
def clipNext (f : FieldDie) (k : Nat) : FieldDie × W32 :=
  let c := clipAt f.silt k
  let put (c : Clip) (v : W32) : FieldDie × W32 := (modSilt f (fun s => { s with clips := tput clip0 s.clips k c }), v)
  let len := fld c.len 26 0
  if !c.playing then (f, 0)
  else
    let pos := c.pos
    if len ≤ pos then put { c with playing := false, done := true } 0
    else
      let a := c.base.toNat / 64 * 64 + 4 * pos
      let v := dramWord f.silt a
      let g := modSilt f (fun s => { s with clips := tput clip0 s.clips k { c with pos := if pos + 1 = len ∧ c.loop then 0 else pos + 1 } })
      if pos % 8 = 0 then
        let r := dramMeet (a % 2 ^ 32 / 32) g
        if r.2 then (modSilt r.1 (fun s => modClip { s with cnt := ctrAdd s.cnt 2 1 } k (fun c => { c with uncorr := true })), 0) else (r.1, v)
      else (g, v)

/-- Starts and stops due for the pass numbered `n` (R185). A start that falls due while the streamer does not run starts nothing (R187). -/
def pbApply (n : Nat) (s : Silt) : Silt :=
  let due := s.pbPend.filter (fun r => decide (r.pass ≤ n))
  let s := due.foldl (fun s r =>
    let s := (List.range 64).foldl (fun s k =>
      if r.mask.testBit k then modClip s k (fun c => if r.start && s.active then { c with playing := true, pos := 0 } else { c with playing := false }) else s) s
    { s with pbResTag := r.tag, pbResult := 2 }) s
  { s with pbPend := s.pbPend.filter (fun r => decide (n < r.pass)) }

/-- The playback frame of the next pass. -/
def pbFrame (f : FieldDie) : FieldDie × Tbl W32 :=
  (f.silt.clips.map (·.1)).foldl (fun (p : FieldDie × Tbl W32) k =>
    let r := clipNext p.1 k
    (r.1, tput 0 p.2 k r.2)) (f, [])

/-! ### Capture (R182, R183, R187) -/

/-- A frame recorded at its slot. -/
def capStore (feeds : List W32) (s : Silt) : Silt :=
  let c := s.cap
  let r := c.count % capFrames c
  let n := capChans c
  (List.range n).foldl (fun s k =>
    dramPut s (c.base.toNat / 64 * 64 + 64 * (n * (r / 16) + k) + 4 * (r % 16)) (bytesLE 4 (wAt feeds k).toNat)) s

/-- The capture words of the OUT frame of pass `p` (R183): a frame recorded while the ring is armed and not past its POST frames; nothing is written
while the streamer does not run (R187). -/
def capRecord (p : Nat) (feeds : List W32) (s : Silt) : Silt :=
  let c := s.cap
  if s.active = false ∨ c.armed = false ∨ c.left = some 0 ∨ capFrames c = 0 then s
  else
    let s := capStore feeds s
    let c := { c with wrapped := c.wrapped || decide (c.count = capFrames c), count := c.count + 1 }
    let c := match c.trigWait with
      | some _ => { c with tpass := p, left := some (capPost c), trigWait := none }
      | none => { c with left := c.left.map (· - 1) }
    { s with cap := c }

/-- CAPTURE_POST_DONE: the POST frames have been recorded. -/
def capPostDone (f : FieldDie) : FieldDie :=
  let c := f.silt.cap
  if c.armed ∧ c.left = some 0 then modSilt f (fun s => { s with cap := { c with armed := false, frozen := true, left := none } }) else f

/-- The ring freezes at the last frame written (R183, R187): RUN 0, engine reset, EN 0. -/
def capFreeze (cause : Nat) (f : FieldDie) : FieldDie :=
  let c := f.silt.cap
  if c.armed then
    let c := if c.triggered then c else { c with triggered := true, cause := cause, tpass := if c.count = 0 then c.tpass else f.mer.lastPass }
    modSilt f (fun s => { s with cap := { c with armed := false, frozen := true, left := none, trigWait := none } })
  else f

/-- A write of the capture control register (R182, R183). -/
def capCtlWrite (v : W32) (f : FieldDie) : FieldDie :=
  let c := f.silt.cap
  let ctl := setFld c.ctl 31 16 (fld v 31 16)
  let ctl := setBit ctl 3 (bit v 3)
  let chg := decide (fld v 14 8 ≠ capChans c)
  let ctl := if c.armed then ctl else setFld ctl 14 8 (fld v 14 8)
  let c := { c with ctl := ctl, refused := c.refused || (c.armed && chg) }
  let f := modSilt f (fun s => { s with cap := c })
  let on := bit c.ctl 0
  let f :=
    if bit v 0 ∧ !on then
      modSilt f (fun s => { s with cap := if capOk s c then { c with ctl := setBit c.ctl 0 true } else { c with refused := true } })
    else if !bit v 0 ∧ on then
      let g := capFreeze 5 f
      modSilt g (fun s => { s with cap := { s.cap with ctl := setBit s.cap.ctl 0 false } })
    else f
  let f :=
    if bit v 1 then
      modSilt f (fun s =>
        if bit s.cap.ctl 0 && capOk s s.cap then
          { s with cap := { s.cap with armed := true, triggered := false, frozen := false, wrapped := false, count := 0, left := none, trigWait := none } }
        else { s with cap := { s.cap with refused := true } })
    else f
  if bit v 2 then capTrigger 1 f else f

/-- A write of BASE, FRAMES or POST of the ring (R182). -/
def capSet (put : Capture → Capture) (f : FieldDie) : FieldDie :=
  modSilt f (fun s => { s with cap := if s.cap.armed then { s.cap with refused := true } else put s.cap })

/-! ### Playback requests (R185) -/

/-- A channel that a request may name. -/
def clipOk (s : Silt) (k : Nat) : Bool :=
  let c := clipAt s k
  ringOk (fld c.len 26 0) && decide (c.base.toNat / 64 * 64 + 4 * fld c.len 26 0 ≤ 2 ^ 32)

/-- The verdict on a start or stop of the channels of `mask` for pass `p`. -/
def pbVerdict (f : FieldDie) (mask p : Nat) : Nat :=
  let named := (List.range 64).filter (fun k => mask.testBit k)
  if 4 ≤ f.silt.pbPend.length then 5
  else if named = [] ∨ named.any (fun k => !clipOk f.silt k) then 4
  else if f.silt.pbPend.any (fun r => named.any (fun k => r.mask.testBit k)) then 5
  else if p < 2 ∨ isLate f.mer (p - 2) then 3
  else 1

/-- A start or stop asked for (R185): the state and the verdict. -/
def pbAsk (start : Bool) (mask p tag : Nat) (f : FieldDie) : FieldDie × Nat :=
  let r := pbVerdict f mask p
  (modSilt f (fun s =>
    { s with pbResTag := tag, pbResult := r, pbPend := if r = 1 then s.pbPend ++ [PbReq.mk start mask p tag] else s.pbPend,
             cnt := if r = 3 then ctrAdd s.cnt 4 1 else s.cnt }), r)

/-- A write of SILT_PB_CMD. -/
def pbCmdWrite (v : W32) (f : FieldDie) : FieldDie :=
  let s := f.silt
  let f := modSilt f (fun s => { s with pbTag := fld v 31 16 })
  let mask := (w64of s.pbMaskLo s.pbMaskHi).toNat
  let p := (w64of s.pbPassLo s.pbPassHi).toNat
  let f := if bit v 0 then (pbAsk true mask p (fld v 31 16) f).1 else f
  if bit v 1 then (pbAsk false mask p (fld v 31 16) f).1 else f

/-- A write of word `w` of a clip's descriptor (R184): ignored with REFUSED while the clip plays. -/
def clipWrite (k w : Nat) (v : W32) (f : FieldDie) : FieldDie :=
  if 64 ≤ k ∨ 4 ≤ w then f
  else
    modSilt f (fun s => modClip s k (fun c =>
      if c.playing then { c with refused := true }
      else match w with
        | 0 => { c with base := v &&& 0xFFFFFFC0 }
        | 1 => { c with len := v &&& 0x07FFFFFF }
        | 2 => { c with loop := bit v 0, uncorr := c.uncorr && !bit v 4, refused := c.refused && !bit v 3, done := c.done && !bit v 2 }
        | _ => c))

/-! ### Stops, resets, the seam (R53, R168, R187) -/

/-- Lines restart at position 0 and taps are refilled, playback stops (R187). -/
def siltRestart (s : Silt) : Silt :=
  let s := { s with lines := (s.lines.map (fun e => (e.1, { e.2 with pos := 0 }))).filter (fun e => decide (e.2 ≠ line0)), stage := [],
                    tapFront := [], lineFront := [], pbFront := [],
                    clips := (s.clips.map (fun e => (e.1, { e.2 with playing := false }))).filter (fun e => decide (e.2 ≠ clip0)) }
  mapTaps (fun t => { t with win := none, valid := false, defer := false }) s

/-- The streamer stops at EN 0 (R187): every result reads 0, playback stops; positions stay until EN 1. -/
def siltStop (s : Silt) : Silt :=
  mapTaps (fun t => { t with valid := false, defer := false })
    { s with active := false, tapFront := [], pbFront := [],
             clips := (s.clips.map (fun e => (e.1, { e.2 with playing := false }))).filter (fun e => decide (e.2 ≠ clip0)) }

/-- An engine reset (R187): pending requests are discarded too, and the ring freezes. -/
def siltReset (f : FieldDie) : FieldDie := modSilt (capFreeze 4 f) (fun s => { siltRestart s with pbPend := [] })

/-- The streamer stops or starts as EN says (R187). -/
def siltActive (f : FieldDie) : FieldDie :=
  let s := f.silt
  if s.active = s.en then f
  else if s.en then modSilt f (fun s => { siltRestart s with active := true })
  else modSilt (capFreeze 5 f) siltStop

/-- A write of SILT_CTRL (R166, R187). -/
def siltCtrlWrite (v : W32) (f : FieldDie) : FieldDie :=
  if f.silt.ready = false then modSilt f (fun s => { s with refused := true })
  else
    let g := modSilt f (fun s => { s with en := bit v 0 })
    if g.mer.running then g else siltActive g

/-- Seam slot 6: the results, the line inputs and the playback samples of the next pass, numbered `n`; the frames swap; enables and EN come
into force. -/
def siltSeam6 (n : Nat) (f : FieldDie) : FieldDie :=
  let f :=
    if f.silt.active then
      let r := (f.silt.taps.map (·.1)).foldl (fun (p : FieldDie × Tbl W32) e =>
        let q := tapHeld e (tapCompute p.1 e)
        (q.1, tput 0 p.2 e q.2)) (f, [])
      let g := modSilt r.1 (fun s => (s.lines.map (·.1)).foldl lineStore s)
      let g := refillPass g
      let g := modSilt g (pbApply n)
      let b := pbFrame g
      modSilt b.1 (fun s => { s with tapFront := r.2, lineFront := [], pbFront := b.2, retries := 0 })
    else modSilt f (fun s => { pbApply n s with tapFront := [], lineFront := [], pbFront := [] })
  siltActive (modSilt f siltEnables)

/-- SILT_READY (R166). -/
def siltReady (f : FieldDie) : FieldDie := modSilt f (fun s => { s with ready := true })

def execSiltReady (s : State) := fieldCmd siltReady s
def execSiltWindowAccess (a : BusAcc) (s : State) := fieldCmd (winAccess a) s
def execSiltLineWrite (l word : Nat) (v : W32) (s : State) := fieldCmd (lineWrite l word v) s
def execSiltTapConfigWrite (e : Nat) (v : W32) (s : State) := fieldCmd (tapCfgWrite e v) s
def execDelayLoWrite (e : Nat) (v : W32) (s : State) := fieldCmd (delayLo e v) s
def execDelayHiWrite (e : Nat) (v : W32) (s : State) := fieldCmd (delayHi e v) s
def execCaptureArm (v : W32) (s : State) := fieldCmd (capCtlWrite v) s
def execCaptureFreeze (v : W32) (s : State) := fieldCmd (capCtlWrite v) s
def execCapturePostDone (s : State) := fieldCmd capPostDone s
def execCaptureEnWrite (v : W32) (s : State) := fieldCmd (capCtlWrite v) s
def execPlaybackStart (v : W32) (s : State) := fieldCmd (pbCmdWrite v) s
def execPlaybackStop (v : W32) (s : State) := fieldCmd (pbCmdWrite v) s
def execSiltCtrlEnWrite (v : W32) (s : State) := fieldCmd (siltCtrlWrite v) s
def execSiltPatrol (cw : Nat) (s : State) := fieldCmd (silPatrol cw) s

end Sys2Proof.Machine
end

