-- ==== Sys2Proof/Machine/CommitOps.lean ====
section
/-! DEFINITION. The commit unit (R147 to R161): requests, cancels, descriptors, the binding table, and what a commit or a glide step does
to coefficient words and to tap delays. -/

namespace Sys2Proof.Machine

/-- A change of the commit unit. -/
def modCg (f : FieldDie) (g : Cg → Cg) : FieldDie := { f with cg := g f.cg }

/-- The descriptor of a group. -/
def cgDesc (c : Cg) (g : Nat) : W32 := tget 0 c.desc g

/-- Coefficient words of a group, first word and one past the last. -/
def cgLo (d : W32) : Nat := 128 * cgFirst d
def cgHi (d : W32) : Nat := 128 * (cgFirst d + cgCount d + 1)

/-- The mask of set `m` as 256 bits, bit g for group g. -/
def cgMask (c : Cg) (m : Nat) : Nat := (List.range 8).foldl (fun n w => n + (tget 0 c.masks (8 * m + w)).toNat * 2 ^ (32 * w)) 0

/-- The groups of a mask. -/
def maskGroups (mask : Nat) : List Nat := (List.range 256).filter (fun g => mask.testBit g)

/-! ### Requests (R149, R150, R152) -/

/-- The verdict on a request (R150) in the order of its table. -/
def bundleVerdict (f : FieldDie) (mask p : Nat) (glide : Bool) (g : Nat) (tagOk : Bool) : Nat :=
  let c := f.cg
  if 8 ≤ c.pending.length then 5
  else if mask = 0 ∨ tagOk = false ∨ (maskGroups mask).any (fun k => !cgEn (cgDesc c k)) then 4
  else if glide ∧ 12 < g then 4
  else if (maskGroups mask).any (fun k => cgPending c k || gliding c k) then 5
  else if isLate f.mer p then 3
  else 1

/-- A bundle asked for: the state, and the verdict. -/
def bundleAsk (mask p : Nat) (glide : Bool) (g tag : Nat) (tagOk : Bool) (by' : Asker) (f : FieldDie) : FieldDie × Nat :=
  let r := bundleVerdict f mask p glide g tagOk
  (modCg f (fun c =>
    { c with resTag := tag, result := r, pending := if r = 1 then c.pending ++ [Bundle.mk p glide g tag mask by'] else c.pending,
             cnt := if r = 3 then ctrAdd c.cnt 0 1 else c.cnt }), r)

/-- CANCEL by tag (R152): the bundles that it reaches in time. -/
def bundleCancel (tag : Nat) (f : FieldDie) : FieldDie :=
  let hit (b : Bundle) : Bool := decide (b.tag = tag) && !isLate f.mer b.pass
  if f.cg.pending.any hit then
    modCg f (fun c => { c with pending := c.pending.filter (fun b => !hit b), resTag := tag, result := 6 })
  else f

/-- A write of CG_CMD: the fields, then CANCEL, then REQ. -/
def cgCmdWrite (v : W32) (f : FieldDie) : FieldDie :=
  let f := modCg f (fun c => { c with cmd := v &&& 0xFFFFF310 })
  let tag := fld v 31 16
  let f := if bit v 1 then bundleCancel tag f else f
  if bit v 0 then
    (bundleAsk (cgMask f.cg (fld v 9 8)) (w64of f.cg.passLo f.cg.passHi).toNat (bit v 4) (fld v 15 12) tag true .register f).1
  else f

/-- The Legend code of a verdict (R69, R150, R185). -/
def verdictCode (r : Nat) : Nat := if r = 5 then 7 else if r = 4 ∨ r = 6 then 5 else if r = 3 then 12 else 0

/-- A PARAM_RESP (R18). -/
def paramRespMsg (rid rseq idx sub code typ : Nat) (data : List Byte) : WMsg :=
  ⟨4, 0, 0, [w32 (rid * 65536 + rseq), w32 (idx * 65536 + sub % 256 * 256 + code), w32 data.length] ++ packWords typ data⟩

/-- The payload of a BUNDLE_COMMIT (R18, R149): the pass, the mode, g, the bundle tag. -/
def bundleWords (ws : List W32) (by' : Asker) (f : FieldDie) : FieldDie × Nat :=
  let t := wAt ws 4
  bundleAsk (cgMask f.cg (fld t 1 0)) (w64of (wAt ws 1) (wAt ws 2)).toNat (bit (wAt ws 3) 0) (fld (wAt ws 3) 7 4) (fld t 31 16)
    (decide (fld t 15 2 = 0)) by' f

/-- BUNDLE_COMMIT received (R149, R150): judged, and answered. -/
def bundleRx (m : WRx) (f : FieldDie) : FieldDie :=
  let w0 := wAt m.payload 0
  let r := bundleWords m.payload (.legend (fld w0 31 16) (fld w0 15 0)) f
  { r.1 with com := weirQueue r.1.com (paramRespMsg (fld w0 31 16) (fld w0 15 0) 0x4002 5 (verdictCode r.2) 1 []) }

/-- Passes resume at number `n` (R51, R159): bundles whose pass has gone by are refused as late. -/
def bundlesRejudge (n : Nat) (f : FieldDie) : FieldDie :=
  let late := f.cg.pending.filter (fun b => decide (b.pass < n))
  modCg f (fun c =>
    late.foldl (fun c b => { c with resTag := b.tag, result := 3, cnt := ctrAdd c.cnt 0 1 })
      { c with pending := c.pending.filter (fun b => decide (n ≤ b.pass)) })

/-! ### Commits and glides (R153 to R156, R179) -/

/-- A group commits at once: its dirty words change copies, CSEQ advances, its taps take their staged delays. -/
def groupJump (g : Nat) (f : FieldDie) : FieldDie :=
  let d := cgDesc f.cg g
  let hit := tslice f.bk.dirty (cgLo d) (cgHi d)
  let bk := { f.bk with page := hit.foldl (fun t e => tmod false t e.1 (fun b => !b)) f.bk.page, dirty := tclear f.bk.dirty (cgLo d) (cgHi d) }
  modSilt { f with bk := bk, cg := { f.cg with cseq := tmod 0 f.cg.cseq g (fun n => (n + 1) % 256), glide := tput 0 f.cg.glide g 0 } } (tapsJump g)

/-- A glide of a group is at step `k` with exponent `x`. -/
def groupStep (g k x : Nat) (f : FieldDie) : FieldDie :=
  modSilt (modCg f (fun c => { c with glide := tput 0 c.glide g (x * 65536 + k) })) (tapsGlide g k x)

/-- A glide advances by one step; at 2^g it commits (R154). -/
def glideStepOn (g : Nat) (f : FieldDie) : FieldDie :=
  let x := glideG f.cg g
  let k := glideStep f.cg g + 1
  if 2 ^ x ≤ k then groupJump g f else groupStep g k x f

/-- The groups that commit, or begin to glide, at the seam whose last named pass is `last` (R153, R154). -/
def dueBundles (last : Nat) (c : Cg) : List Bundle := c.pending.filter (fun b => decide (b.pass ≤ last))

/-- One bundle at its seam. -/
def bundleApply (b : Bundle) (f : FieldDie) : FieldDie :=
  let f := (maskGroups b.mask).foldl (fun f g =>
    if b.glide = false ∨ b.g = 0 ∨ bit (cgDesc f.cg g) 17 then groupJump g f else groupStep g 1 b.g f) f
  modCg f (fun c => { c with resTag := b.tag, result := 2 })

/-- The groups of the bundles due at this seam: settings linked to them come into force with the named pass in every commit mode, a GLIDE as a JUMP
(R37, R191, R228, R230). -/
def committedGroups (last : Nat) (c : Cg) : List Nat := (dueBundles last c).flatMap (fun b => maskGroups b.mask)

/-- Seam slot 7 of the commit unit: glides in progress advance, the bundles named for the pass take effect. -/
def commitSeam (last : Nat) (f : FieldDie) : FieldDie :=
  let due := dueBundles last f.cg
  let f := (f.cg.glide.map (·.1)).foldl (fun f g => glideStepOn g f) f
  let f := modCg f (fun c => { c with pending := c.pending.filter (fun b => decide (last < b.pass)) })
  modSilt (due.foldl (fun f b => bundleApply b f) f) tapsWaiting

/-! ### Descriptors (R147) -/

/-- A write of CG_DESCg that the rule refuses. -/
def descBad (c : Cg) (g : Nat) (v : W32) : Bool :=
  let old := cgDesc c g
  let hi := cgFirst v + cgCount v
  decide (255 < hi) ||
    (cgEn v && c.desc.any (fun e => decide (e.1 ≠ g) && cgEn e.2 && decide (cgFirst e.2 ≤ hi) && decide (cgFirst v ≤ cgFirst e.2 + cgCount e.2))) ||
    (cgEn old && cgEn v && (decide (cgFirst v ≠ cgFirst old) || decide (cgCount v ≠ cgCount old))) || cgPending c g || gliding c g

/-- The write made: a group disabled loses its dirty bits and its taps' staged delays. -/
def descPut (g : Nat) (v : W32) (f : FieldDie) : FieldDie :=
  let old := cgDesc f.cg g
  let f1 := modCg f (fun c => { c with desc := tput 0 c.desc g (v &&& 0x0003FFFF) })
  if cgEn old ∧ !cgEn v then
    modSilt { f1 with bk := { f1.bk with dirty := tclear f1.bk.dirty (cgLo old) (cgHi old) } } (tapsDiscard g)
  else f1

/-- CG_STATg (R147, R154). -/
def cgStat (f : FieldDie) (g : Nat) : W32 :=
  let d := cgDesc f.cg g
  let dirty := !(tslice f.bk.dirty (cgLo d) (cgHi d)).isEmpty
  w32 (tget 0 f.cg.cseq g * 2 ^ 24 + b2n (tget false f.cg.refused g) * 2 ^ 20 + b2n dirty * 2 ^ 19 + b2n (cgPending f.cg g) * 2 ^ 18 +
    b2n (gliding f.cg g) * 2 ^ 17 + glideG f.cg g * 2 ^ 13 + glideStep f.cg g)

/-- CG_RESULT. -/
def cgResult (c : Cg) : W32 := w32 (c.resTag * 2 ^ 16 + c.pending.length * 2 ^ 8 + c.result)

/-! ### The binding table (R160, R161) -/

/-- Word `k` of the shadow table written: [15] and [31:23] of an entry's second word are reserved (R160). -/
def bindPut (k : Nat) (v : W32) (c : Cg) : Cg := { c with bindSh := tput 0 c.bindSh k (if k % 2 = 1 then v &&& 0x007F7FFF else v) }

/-- The shadow table and NENT become active. -/
def bindTake (c : Cg) : Cg := { c with bindAct := c.bindSh, nentAct := c.nent, bindApplied := true }

/-- COPY of CG_BIND_CTL. A copy that is made clears ARM, as one of the decode table does (DESIGN CHOICE, log entry 60). -/
def bindCopy (f : FieldDie) : FieldDie :=
  modCg f (fun c => if f.mer.running then { c with bindRefused := true } else { bindTake c with bindArm := false })

/-- A write of CG_BIND_CTL. -/
def bindCtlWrite (v : W32) (f : FieldDie) : FieldDie :=
  let f := modCg f (fun c =>
    let c := { c with bindArm := bit v 0, bindApplied := c.bindApplied && !bit v 3, bindRefused := c.bindRefused && !bit v 2 }
    if fld v 26 16 ≤ 1024 then { c with nent := fld v 26 16 } else { c with bindRefused := true })
  if bit v 1 then bindCopy f else f

/-- CG_BIND_CTL as read. -/
def bindCtlWord (c : Cg) : W32 := w32 (c.nent * 2 ^ 16 + b2n c.bindApplied * 8 + b2n c.bindRefused * 4 + b2n c.bindArm)

def execBundleReq (v : W32) (s : State) := fieldCmd (cgCmdWrite v) s
def execBundleCancel (v : W32) (s : State) := fieldCmd (cgCmdWrite v) s
def execBindCopy (v : W32) (s : State) := fieldCmd (bindCtlWrite v) s

end Sys2Proof.Machine
end

