-- ==== Sys2Proof/Machine/AudioOps.lean ====
section
/-! DEFINITION. The serial audio ports, the clock groups, the master clocks, the oscillator and the resampler (R190 to R216). -/

namespace Sys2Proof.Machine

/-- A change of the audio block. -/
def modAud (f : FieldDie) (g : Audio → Audio) : FieldDie := { f with aud := g f.aud }

/-- A port, a slave group (1 to 4), a resampler channel. -/
def sapAt (a : Audio) (p : Nat) : SapPort := tget sapPort0 a.ports p
def grpAt (a : Audio) (g : Nat) : SapGroup := tget sapGroup0 a.groups g
def rsmpAt (a : Audio) (j : Nat) : RsmpCh := tget rsmpCh0 a.rsmp j

/-- A change of one of them. -/
def modSap (p : Nat) (h : SapPort → SapPort) (f : FieldDie) : FieldDie := modAud f (fun a => { a with ports := tmod sapPort0 a.ports p h })
def modGrp (g : Nat) (h : SapGroup → SapGroup) (f : FieldDie) : FieldDie := modAud f (fun a => { a with groups := tmod sapGroup0 a.groups g h })
def modRsmp (j : Nat) (h : RsmpCh → RsmpCh) (f : FieldDie) : FieldDie := modAud f (fun a => { a with rsmp := tmod rsmpCh0 a.rsmp j h })
def modOsc (h : Osc → Osc) (f : FieldDie) : FieldDie := modAud f (fun a => { a with osc := h a.osc })

/-! ### Configurations (R190 to R194) -/

/-- Fields of a port configuration: direction (true output), group, RATIO, W, M. -/
def saDir (c : W32) : Bool := bit c 12
def saGroup (c : W32) : Nat := fld c 18 16
def saRatio (c : W32) : Nat := fld c 9 8
def saW (c : W32) : Nat := fld c 6 2 + 1
def saM (c : W32) : Nat := if saRatio c = 0 then 32 else if saRatio c = 1 then 48 else 64

/-- A configuration that R191 refuses for its value: a reserved code, or W greater than M/2. -/
def saBad (v : W32) : Bool := decide (fld v 1 0 = 3) || decide (saW v < 16) || decide (saRatio v = 3) || decide (4 < saGroup v) || decide (saM v / 2 < saW v)

/-- A word of W bits in its place (R194). -/
def topBits (c : W32) (v : W32) : W32 := v &&& fmask 31 (32 - saW c)

/-- The port runs: it is enabled, or its last frame is not yet complete. -/
def sapRuns (s : SapPort) : Bool := (s.en && !s.enWait) || s.stopWait

/-- FADING (R212): an input of a slave group delivers less than its full level. -/
def sapFading (s : SapPort) : Bool := sapRuns s && !saDir s.used && decide (saGroup s.used ≠ 0) && decide (s.fade ≠ .full)

/-! ### Groups (R198 to R200) -/

/-- REFLOST (R200). -/
def refLost (a : Audio) (g : Nat) : Bool :=
  let r := (grpAt a g).refUsed
  !(decide (r < 24) && sapRuns (sapAt a r) && decide (saGroup (sapAt a r).used = g))

/-- The group writes and reads: its reference port is valid and its clock runs. -/
def groupActive (a : Audio) (g : Nat) : Bool := !refLost a g && !(sapAt a (grpAt a g).refUsed).lost

/-- The buffers of a group are centred (R199). -/
def centre (g : Nat) (f : FieldDie) : FieldDie :=
  modGrp g (fun q => { q with fill := 32, ofill := 32, rd := (q.wr + 32) % 64, ord := (q.owr + 32) % 64 }) f

/-- The output ports of a group without a reference port drive SD low (R200). -/
def refLostLow (g : Nat) (f : FieldDie) : FieldDie :=
  if refLost f.aud g then
    modAud f (fun a => { a with ports := a.ports.map (fun e => if saGroup e.2.used = g ∧ saDir e.2.used = true then (e.1, { e.2 with outL := 0, outR := 0 }) else e) })
  else f

/-- A change after which the groups that start, or whose reference port recovers, are centred (R199), and the outputs of those without one are low. -/
def regroup (h : FieldDie → FieldDie) (f : FieldDie) : FieldDie :=
  [1, 2, 3, 4].foldl (fun g k => if !groupActive f.aud k && groupActive g.aud k then centre k g else refLostLow k g) (h f)

/-- The place of position `k` of group `g` in a ring. -/
def ringKey (g k : Nat) : Nat := (64 * g + k) * 128

/-- The running ports of group `g` in direction `dir`. -/
def groupPorts (a : Audio) (g : Nat) (dir : Bool) : List Nat :=
  (a.ports.filter (fun e => sapRuns e.2 && decide (saGroup e.2.used = g) && (saDir e.2.used == dir))).map (·.1)

/-! ### The oscillator (R201 to R206) -/

/-- MODE of OSC_CTL. -/
def oscMode (o : Osc) : Nat := fld o.ctl 1 0

/-- The group that steers in local mode. -/
def oscGroup (o : Osc) : Nat := fld o.ctl 9 8 + 1

/-- MISMATCH (R205): the reference rate code differs from RATE. -/
def oscMismatch (f : FieldDie) : Bool :=
  decide (oscMode f.aud.osc = 2) && !refLost f.aud (oscGroup f.aud.osc) &&
    decide ((sapAt f.aud (grpAt f.aud (oscGroup f.aud.osc)).refUsed).code ≠ rateOf f.mer)

/-- The steering source fails (R205). -/
def oscFails (f : FieldDie) : Bool :=
  (decide (oscMode f.aud.osc = 1) && (f.mer.coast || f.aud.osc.chainGone)) ||
    (decide (oscMode f.aud.osc = 2) && (!groupActive f.aud (oscGroup f.aud.osc) || oscMismatch f))

/-- A frequency within ±1,000 ppm. -/
def oscClamp (v : W32) : W32 := ofI (clampI (-1000000) 1000000 v.toInt)

/-- Hold is entered or left as the steering source says. The frequency goes to the integrator's value, which is free (log entry 4); a loop that has
only just begun, `new`, holds the frequency it began with (R201). -/
def oscJudge (new : Bool) (f : FieldDie) : FieldDie :=
  let bad := oscFails f
  let f := modOsc (fun o => { o with mismatch := oscMismatch f }) f
  if bad = f.aud.osc.hold then f
  else if bad then
    let d := draw f.com 0x205
    fieldEvent (modOsc (fun o => { o with hold := true, lock := false, near := 0, limit := false, freq := if new then o.freq else oscClamp d.2 }) { f with com := d.1 })
      .oscLock [w32 1]
  else modOsc (fun o => { o with hold := false }) f

/-- The steering source is judged after any change of it (R205). -/
def oscHold (f : FieldDie) : FieldDie := oscJudge false f

/-- A tick of the chain steers the oscillator (R203): `ph` is the phase in 12.5 ps; the loop's step is free (log entry 4). -/
def oscTick (ph : Int) (f : FieldDie) : FieldDie :=
  let o := f.aud.osc
  if oscMode o = 1 ∧ o.hold = false then
    let d := draw f.com 0x203
    let n := if -8 ≤ ph ∧ ph ≤ 8 then min 256 (o.near + 1) else 0
    modOsc (fun o => { o with err := BitVec.ofInt 16 ph, freq := oscClamp d.2, near := n, lock := o.lock || decide (n = 256) }) { f with com := d.1 }
  else f

/-- The local loop at a capture boundary (R204): ERR counts the frames and a free fraction; the frequency that the loop would take is free. -/
def oscCapture (f : FieldDie) : FieldDie :=
  let o := f.aud.osc
  if oscMode o = 2 ∧ o.hold = false then
    let d := draw f.com 0x204
    let e := draw d.1 0x205
    let fill : Int := (grpAt f.aud (oscGroup o)).fill
    modOsc (fun o => { o with err := BitVec.ofInt 16 ((fill - 32) * 256 + (d.2.toNat % 256 : Nat)), freq := oscClamp e.2, limit := oscClamp e.2 ≠ e.2 }) { f with com := e.1 }
  else f

/-! ### The resampler (R208 to R210) -/

/-- The channel runs. -/
def rsmpRuns (c : RsmpCh) : Bool := c.en && !c.enWait

/-- NOSRC (R208): the source is no running input of a slave group. -/
def noSrc (a : Audio) (c : RsmpCh) : Bool :=
  let s := sapAt a (c.srcUsed / 2)
  !(sapRuns s && !saDir s.used && decide (saGroup s.used ≠ 0))

/-- fs of a rate code in Hz (R43). -/
def fsHz (rate : Nat) : Nat := if rate = 0 then 44100 else if rate = 1 then 48000 else if rate = 2 then 88200 else if rate = 3 then 96000 else if rate = 4 then 176400 else 192000

/-- RANGE (R208), by the source's measured rate. -/
def rsmpRange (f : FieldDie) (c : RsmpCh) : Bool :=
  let s := sapAt f.aud (c.srcUsed / 2)
  let r := s.rate.toNat
  let fs := fsHz (rateOf f.mer) * 16384
  decide (s.code ≠ 15) && (decide (8 * fs < r) || decide (8 * r < fs) || decide (r < 8000 * 16384) || decide (216000 * 16384 < r))

/-- NOSRC and RANGE brought up to date. -/
def rsmpCheck (j : Nat) (f : FieldDie) : FieldDie :=
  modRsmp j (fun c => { c with nosrc := rsmpRuns c && noSrc f.aud c, range := rsmpRuns c && !noSrc f.aud c && rsmpRange f c }) f

/-- A channel relocks behind a fade (R210). -/
def rsmpRelock (j : Nat) (f : FieldDie) : FieldDie :=
  rsmpCheck j (modRsmp j (fun c =>
    if rsmpRuns c then
      { c with lock := false, fade := match c.fade with
        | .full => .out 1
        | .into _ => .out 1
        | x => x }
    else c) f)

/-- The channels whose source is port `p` relock. -/
def rsmpRelockPort (p : Nat) (f : FieldDie) : FieldDie :=
  (f.aud.rsmp.filter (fun e => decide (e.2.srcUsed / 2 = p))).foldl (fun f e => rsmpRelock e.1 f) f

/-- Every channel relocks: fs changes. -/
def rsmpRelockAll (f : FieldDie) : FieldDie := f.aud.rsmp.foldl (fun f e => rsmpRelock e.1 f) f

/-- A ratio fs/fin from 1/8 to 8 in Q4.28: which one the channel estimates is free (R208, R210; log entry 4). -/
def rsmpRatio (d : W32) : W32 := w32 (2 ^ 25 + d.toNat % (2 ^ 31 - 2 ^ 25 + 1))

/-- The delay in 1/4096 output periods: 48 input periods, and up to one output period more or less (R209). -/
def rsmpDelay (ratio d : W32) : W32 := w32 (48 * ratio.toNat / 2 ^ 16 + d.toNat % 8193 - 4096)

/-- The taps of an output sample (R209): 64 when fin ≤ fs, else ceil(64 × fin/fs), at most 512. -/
def rsmpTaps (ratio : W32) : Nat :=
  if 2 ^ 28 ≤ ratio.toNat then 64 else min 512 ((64 * 2 ^ 28 + ratio.toNat - 1) / ratio.toNat)

/-- An output sample (R209): phase `ph` of 256, with the part `mu` / 2^16 of the way to the next phase; exact sums, rounded half up, saturated. -/
def rsmpSample (ratio : W32) (ph mu : Nat) (h : List W32) : W32 :=
  let n := rsmpTaps ratio
  let v := (List.range n).foldl (fun (a : Int) t =>
    a + (h.getD t 0).toInt * (Config.rsmpTap n ph t * (65536 - mu) + Config.rsmpTap n (ph + 1) t * mu)) 0
  ofI (satN 32 (roundUp v (Config.rsmpPlaces + 16)))

/-- RSMP_LOCK: the estimate of a valid source locks; where RATIO and DELAY lie in their ranges is free (log entry 4). -/
def rsmpLocks (j : Nat) (f : FieldDie) : FieldDie :=
  let f := rsmpCheck j f
  let c := rsmpAt f.aud j
  if rsmpRuns c ∧ c.nosrc = false ∧ c.range = false ∧ c.lock = false ∧ c.fade = .silent ∧ (sapAt f.aud (c.srcUsed / 2)).lost = false then
    let d := draw f.com 0x210
    let e := draw d.1 0x209
    modRsmp j (fun c => { c with lock := true, fade := .into 1, ratio := rsmpRatio d.2, delay := rsmpDelay (rsmpRatio d.2) e.2 }) { f with com := e.1 }
  else f

/-- VALID and FADING of a channel. -/
def rsmpValid (c : RsmpCh) : Bool := rsmpRuns c && c.lock && decide (c.fade = .full) && !c.nosrc && !c.range
def rsmpFading (c : RsmpCh) : Bool := rsmpRuns c && decide (c.fade ≠ .full)

/-- A word of port `p` as it crosses into ECLK: the channels that it feeds take it into their histories (R208, R209). -/
def rsmpFeed (p : Nat) (f : FieldDie) : FieldDie :=
  let s := sapAt f.aud p
  (f.aud.rsmp.filter (fun e => rsmpRuns e.2 && decide (e.2.srcUsed / 2 = p))).foldl (fun f e =>
    modRsmp e.1 (fun c => { c with hist := ((if c.srcUsed % 2 = 0 then s.curL else s.curR) :: c.hist).take 512 }) f) f

/-- The word of channel `j` for an IN frame, whether it is valid, and the fade moved on. The instant of a sample among the source's, and so its phase,
is free, and so is a word under the fade, for which R210 gives no gains (log entry 4). -/
def rsmpWord (j : Nat) (f : FieldDie) : FieldDie × W32 × Bool :=
  let f := rsmpCheck j f
  let c := rsmpAt f.aud j
  if !rsmpRuns c then (f, 0, false)
  else if c.nosrc ∨ c.range then (modRsmp j (fun c => { c with lock := false, fade := .silent }) f, 0, false)
  else
    let next := match c.fade with
      | .out i => if 64 ≤ i then .silent else .out (i + 1)
      | .into i => if 63 ≤ i then .full else .into (i + 1)
      | x => x
    let g := modRsmp j (fun c => { c with fade := next }) f
    if c.fade = .silent then (g, 0, false)
    else
      let d := draw g.com 0x208
      let y := if c.fade = .full then rsmpSample c.ratio (d.2.toNat % 256) (d.2.toNat / 2 ^ 16) c.hist else d.2
      ({ g with com := d.1 }, y, rsmpValid c)

/-! ### Ports: configurations, enables, stops (R191, R192, R213) -/

/-- A port restarts (R192): two frames of silence; a slave port starts as one whose clock returns. A port that is lost stays so until its clock
returns, in G0 with the first frame after those two (R213). -/
def sapRestart (p : Nat) (f : FieldDie) : FieldDie :=
  rsmpRelockPort p (modSap p (fun s =>
    { s with restart := 2, cur := none, curRst := false, badL := false, badR := false, recover := false, lost := s.lost || decide (saGroup s.used ≠ 0),
             fade := if saGroup s.used = 0 then .full else .silent }) f)

/-- The staged configuration of a port comes into force. -/
def sapApply (p : Nat) (f : FieldDie) : FieldDie :=
  let s := sapAt f.aud p
  if s.dirty then
    let hard := (saDir s.cfg != saDir s.used) || decide (saGroup s.cfg ≠ saGroup s.used) || decide (saRatio s.cfg ≠ saRatio s.used)
    let g := modSap p (fun s => { s with used := s.cfg, dirty := false }) f
    if hard ∧ sapRuns s then
      let h := sapRestart p g
      if saGroup s.cfg = 0 ∧ saGroup s.used = 0 then modSap p (fun t => { t with cur := s.cur, curRst := s.curRst }) h else h
    else g
  else f

/-- A port enabled starts, with its staged configuration. -/
def sapStart (p : Nat) (f : FieldDie) : FieldDie :=
  let s := sapAt f.aud p
  if s.enWait then
    let g := sapRestart p (sapApply p (modSap p (fun s => { s with enWait := false, stopWait := false }) f))
    if saGroup s.used = 0 ∧ saGroup (sapAt g.aud p).used = 0 then modSap p (fun t => { t with cur := s.cur, curRst := s.curRst }) g else g
  else f

/-- A port disabled is idle: its inputs read 0, SD is low. -/
def sapStop (p : Nat) (f : FieldDie) : FieldDie :=
  modSap p (fun s => { s with stopWait := false, outL := 0, outR := 0, tailR := 0, curL := 0, curR := 0, lastL := 0, lastR := 0, rep := false, cur := none, curRst := false, lost := false,
                              fade := .full, recover := false, restart := 0, badL := false, badR := false }) f

/-- A write of SAP_CTLp: CGRP, LINK, REFUSED, EN. -/
def sapCtlWrite (p : Nat) (v : W32) (f : FieldDie) : FieldDie :=
  if 24 ≤ p then f
  else
    let s := sapAt f.aud p
    let f := modSap p (fun s => { s with link := bit v 1, cgrp := fld v 15 8, refused := s.refused && !bit v 17, en := bit v 0 }) f
    oscHold (regroup (fun f =>
      if bit v 0 ∧ !s.en then
        let f := modSap p (fun s => { s with enWait := true }) f
        if f.mer.running then f else sapStart p f
      else if !bit v 0 ∧ s.en then
        if s.enWait then modSap p (fun s => { s with enWait := false }) f
        else
          let f := modSap p (fun s => { s with stopWait := true }) f
          if s.lost || (decide (saGroup s.used = 0) && !f.aud.osc.pllLock) then rsmpRelockPort p (sapStop p f) else f
      else f) f)

/-- A write of SAP_CFGp (R191). -/
def sapCfgPut (p : Nat) (v : W32) (f : FieldDie) : FieldDie :=
  if 24 ≤ p then f
  else
    let s := sapAt f.aud p
    if saBad v || (s.link && gliding f.cg s.cgrp) then modSap p (fun s => { s with refused := true }) f
    else
      let f := modSap p (fun s => { s with cfg := v &&& 0x0007137F, dirty := true }) f
      if f.mer.running then f else oscHold (regroup (sapApply p) f)

/-- A frame begins (R192): the configuration that governs it, SD low in a restart; a port that waits to stop stops here, and a port of G0 that was lost
has its clock again (R213). -/
def frameBegin (p : Nat) (f : FieldDie) : FieldDie :=
  let s := sapAt f.aud p
  if s.stopWait then
    let f := rsmpRelockPort p (regroup (sapStop p) (modSap p (fun s => { s with prev := s.cur, prevRst := s.curRst }) f))
    if saGroup s.used = 0 then f else modSap p (fun s => { s with prev := none, prevRst := false }) f
  else
    let normal := decide (sapRuns s ∧ s.restart = 0)
    let back := s.lost && normal && decide (saGroup s.used = 0)
    let f := modSap p (fun s =>
      { s with prev := s.cur, prevRst := s.curRst, cur := if normal then some s.used else none, curRst := sapRuns s && !normal, restart := s.restart - 1,
               tailR := s.outR, outL := if normal then s.outL else 0, outR := if normal then s.outR else 0, lost := s.lost && !back }) f
    if back then fieldEvent f .sapLost [w32 p, 0] else f

/-! ### Frames at the balls (R193 to R196, R211, R212) -/

/-- The format FMT, and the bit periods H of a half frame. -/
def saFmt (c : W32) : Nat := fld c 1 0
def saH (c : W32) : Nat := saM c / 2

/-- The bit period of a word's MSB by the table of R193: the LSB lies W − 1 later. -/
def sdFirst (c : W32) (right : Bool) : Nat :=
  (if right then saH c else 0) + (if saFmt c = 0 then 1 else if saFmt c = 1 then 0 else saH c - saW c)

/-- A word taken from the bits `sd` sampled in bit periods 0 to 2H − 1 and then in bit period 0 of the next frame (R193), in its place (R194). -/
def sdWord (c : W32) (sd : List Bool) (right : Bool) : W32 :=
  w32 ((List.range (saW c)).foldl (fun n k => 2 * n + b2n (sd.getD (sdFirst c right + k) false)) 0 * 2 ^ (32 - saW c))

/-- The bit that an output port drives in bit period `j` (R193, R194): of the left word, of the right one, in I2S with W = H the last bit of the right
word before, else low. -/
def sdBit (c : W32) (l r tail : W32) (j : Nat) : Bool :=
  let at' (v : W32) (first : Nat) : Option Bool := if first ≤ j ∧ j < first + saW c then some (bit v (31 - (j - first))) else none
  ((at' l (sdFirst c false)).orElse (fun _ => at' r (sdFirst c true))).getD (decide (j + 2 * saH c < sdFirst c true + saW c) && bit tail (32 - saW c))

/-- WS in bit period `j` of a frame (R193). -/
def wsBit (c : W32) (j : Nat) : Bool := if saFmt c = 0 then decide (saH c ≤ j) else decide (j < saH c)

/-- SD of port `p` in bit period `j` of the frame in progress: an input drives nothing, a port that is idle, lost, in a restart or without a reference
port drives low (R192, R194, R200, R211, R213). -/
def sapSd (f : FieldDie) (p j : Nat) : Bool :=
  let s := sapAt f.aud p
  let dead := s.lost || (decide (saGroup s.used = 0) && !f.aud.osc.pllLock) || (decide (saGroup s.used ≠ 0) && refLost f.aud (saGroup s.used))
  match s.cur with
  | some c => saDir c && !dead && sdBit c s.outL s.outR s.tailR j
  | none => false

/-- The slot after the sample edge at which bit-clock edge `i` of a G0 frame falls: floor(iN/(2M) + 1/2) (R195). -/
def bckEdge (c : W32) (n i : Nat) : Nat := (i * n + saM c) / (2 * saM c)

/-- Bit-clock edges of the frame up to slot `t` after the sample edge. -/
def bckEdges (c : W32) (n t : Nat) : Nat := ((List.range (2 * saM c)).filter (fun i => decide (bckEdge c n i ≤ t))).length

/-- The configuration by which a G0 port's clocks run in the frame in progress: none where the balls are held low (R206, R213). -/
def g0Clocks (f : FieldDie) (p : Nat) : Option W32 :=
  let s := sapAt f.aud p
  if saGroup s.used = 0 ∧ f.aud.osc.pllLock then (if s.curRst then some s.used else s.cur) else none

/-- BCK and WS of a G0 port in slot `t` after the sample edge: even edges fall, and each falling edge opens a bit period (R193, R195). -/
def sapBck (f : FieldDie) (p t : Nat) : Bool :=
  match g0Clocks f p with
  | some c => decide (bckEdges c (merN f.mer) t % 2 = 0)
  | none => false
def sapWs (f : FieldDie) (p t : Nat) : Bool :=
  match g0Clocks f p with
  | some c => wsBit c ((bckEdges c (merN f.mer) t - 1) / 2)
  | none => false

/-- The divisor of ECLK by a DIV field, and whether ball MCLKk runs (R197, R206). -/
def mclkDiv (k : Nat) (v : W32) : Nat := [200, 100, 50, 25].getD (fld v (8 * k + 1) (8 * k)) 200
def mclkOn (a : Audio) (k : Nat) : Bool := bit a.mclkUse (8 * k + 2) && a.osc.pllLock

/-- MCLKk rises in slot `t` after the sample edge; a ball that does not run is low. -/
def mclkRises (a : Audio) (k t : Nat) : Bool := mclkOn a k && decide (t % mclkDiv k a.mclkUse = 0)

/-- One half frame: the word taken, and whether it repeats the word before. -/
def halfWord (c : W32) (slave bad : Bool) (edges : Nat) (v old : W32) : W32 × Bool :=
  if bad ∨ (slave ∧ edges ≠ saH c) then (old, true) else (v, false)

/-- SAP_BALL_FRAME: the bits `sd` as sampled in the bit periods, with the rising edges of each half. -/
def ballFrame (p : Nat) (sd : List Bool) (edgesL edgesR : Nat) (f : FieldDie) : FieldDie :=
  let s := sapAt f.aud p
  let slave := decide (saGroup s.used ≠ 0)
  let took : SapPort := match (if slave then s.cur else s.prev) with
    | none => { s with curL := 0, curR := 0, rep := true, badL := false, badR := false }
    | some c =>
      let a := halfWord c slave s.badL edgesL (sdWord c sd false) s.curL
      let b := halfWord c slave s.badR edgesR (sdWord c sd true) s.curR
      let bad := b2n (slave && decide (edgesL ≠ saH c)) + b2n (slave && decide (edgesR ≠ saH c))
      let s := { s with framing := (s.framing + bad) % 65536, badL := false, badR := false }
      if saDir c then s else { s with curL := a.1, curR := b.1, rep := a.2 || b.2 }
  if 24 ≤ p then f
  else if slave then
    if !sapRuns s then f
    else
      let f := if s.lost then f else rsmpFeed p (modSap p (fun _ => took) f)
      if s.stopWait then oscHold (frameBegin p f) else frameBegin p f
  else if f.aud.osc.pllLock ∧ (s.prev.isSome ∨ sapRuns s) then modSap p (fun _ => took) f
  else f

/-- SAP_GLITCH (R211). -/
def sapGlitch (p : Nat) (right : Bool) (f : FieldDie) : FieldDie :=
  let s := sapAt f.aud p
  if p < 24 ∧ sapRuns s ∧ saGroup s.used ≠ 0 ∧ s.lost = false then
    modSap p (fun s => { s with badL := s.badL || !right, badR := s.badR || right, glitch := (s.glitch + 1) % 65536 }) f
  else f

/-- SAP_CLOCK_LOST (R211). -/
def sapLoss (p : Nat) (f : FieldDie) : FieldDie :=
  let s := sapAt f.aud p
  if p < 24 ∧ sapRuns s ∧ saGroup s.used ≠ 0 ∧ s.lost = false then
    let f := modSap p (fun s =>
      { s with lost := true, recover := false, badL := false, badR := false, outL := 0, outR := 0,
               fade := match s.fade with
                 | .full => .out 1
                 | .into _ => .out 1
                 | x => x }) f
    let f := fieldEvent f .sapLost [w32 p, 1]
    let f := if s.stopWait then sapStop p f else f
    oscHold (rsmpRelockPort p f)
  else f

/-- SAP_CLOCK_RETURN (R211, R212): the second whole frame with H edges in each half has passed. -/
def sapReturn (p : Nat) (f : FieldDie) : FieldDie :=
  let s := sapAt f.aud p
  if p < 24 ∧ sapRuns s ∧ saGroup s.used ≠ 0 ∧ s.lost then
    let f := regroup (modSap p (fun s =>
      { s with lost := false, recover := match s.fade with
                 | .out _ => true
                 | _ => false,
               fade := match s.fade with
                 | .silent => .into 1
                 | x => x })) f
    oscHold (fieldEvent f .sapLost [w32 p, 0])
  else f

/-- A wrapping 8-bit sequence counter. -/
def seq8 (n : Nat) : Nat := (n + 1) % 256

/-- GROUP_FRAME (R198, R199): the input side writes, the output side reads and shifts out. -/
def groupFrame (g : Nat) (f : FieldDie) : FieldDie :=
  if g < 1 ∨ 4 < g ∨ !groupActive f.aud g then f
  else
    let q := grpAt f.aud g
    let f :=
      if q.fill = 64 then modGrp g (fun q => { q with inOver := seq8 q.inOver }) f
      else
        let key := ringKey g q.wr
        let f := (groupPorts f.aud g false).foldl (fun f p =>
          let s := sapAt f.aud p
          modAud f (fun a => { a with inRing := tput 0 (tput 0 (tput 0 a.inRing (key + 2 * p) s.curL) (key + 2 * p + 1) s.curR) (key + 48 + p) (bitAt 0 s.rep) })) f
        modGrp g (fun q => { q with wr := (q.wr + 1) % 64, fill := q.fill + 1 }) f
    let outs := groupPorts f.aud g true
    if q.ofill = 0 then
      let f := modGrp g (fun q => { q with outUnder := seq8 q.outUnder }) f
      if f.mer.running then f else outs.foldl (fun f p => modSap p (fun s => { s with outL := 0, outR := 0 }) f) f
    else
      let key := ringKey g q.ord
      let f := outs.foldl (fun f p =>
        modSap p (fun s =>
          let shown := f.mer.running && s.cur.isSome && !s.lost
          { s with outL := if shown then topBits s.used (tget 0 f.aud.outRing (key + 2 * p)) else 0,
                   outR := if shown then topBits s.used (tget 0 f.aud.outRing (key + 2 * p + 1)) else 0 }) f) f
      modGrp g (fun q => { q with ord := (q.ord + 1) % 64, ofill := q.ofill - 1 }) f

/-! ### Rates (R207) -/

/-- The nominal rates by code. -/
def nominalRates : List Nat := [44100, 48000, 88200, 96000, 176400, 192000, 8000, 11025, 16000, 22050, 24000, 32000]

/-- The code of a rate in Q18.14: within ±2,000 ppm of a nominal rate, else Eh. -/
def rateCode (r : Nat) : Nat :=
  ((List.range 12).find? (fun i =>
    let n := nominalRates.getD i 0 * 16384
    decide (((r : Int) - n).natAbs * 1000 ≤ 2 * n))).getD 14

/-- DEV of a rate from the nominal of its code, in 1/16 ppm; 0 at codes Eh and Fh. -/
def rateDev (r code : Nat) : Int :=
  if 12 ≤ code then 0
  else
    let n : Int := (nominalRates.getD code 0 * 16384 : Nat)
    ((r : Int) - n) * 16000000 / n

/-- RATE_WINDOW: `frames` starts were counted, the first and the last `ticks8` units of 8 ns apart. The rate of a window with fewer than two
starts is not stated: it is free (log entry 4). -/
def rateWindow (p frames ticks8 : Nat) (f : FieldDie) : FieldDie :=
  let s := sapAt f.aud p
  if 24 ≤ p ∨ !sapRuns s ∨ (2 ≤ frames ∧ ticks8 = 0) then f
  else
    let d := draw f.com 0x207
    let f := if frames < 2 then { f with com := d.1 } else f
    let r := if frames < 2 then d.2.toNat else (frames - 1) * 125000000 * 16384 / ticks8
    let win := if frames < 2 then 15 else rateCode r
    let code := if win = s.cand then win else s.code
    let dev := rateDev r win
    let hi := decide (8000 < dev.natAbs)
    let f := modSap p (fun s => { s with rate := w32 r, dev := BitVec.ofInt 16 dev, cand := win, code := code, devHi := hi }) f
    let f := if code ≠ s.code ∨ hi ≠ s.devHi then rsmpRelockPort p (fieldEvent f .sapRate [w32 p, w32 (code * 2 + b2n hi)]) else f
    let f := if code ≠ s.code then
        [1, 2, 3, 4].foldl (fun f g => if !refLost f.aud g && decide ((grpAt f.aud g).refUsed = p) then centre g f else f) f
      else f
    oscHold f

/-! ### The pass (R195 to R199, R214) -/

/-- The sample edge (R195 to R197): every G0 port begins a frame with the words of the presented OUT frame; MCLK takes its settings. There is none
while the PLL is not locked (R206). -/
def audioEdge (out : Tbl W32) (f : FieldDie) : FieldDie :=
  if f.aud.osc.pllLock = false then f
  else
    let f := modAud f (fun a => { a with mclkUse := a.mclk })
    oscHold ((f.aud.ports.filter (fun e => decide (saGroup e.2.used = 0))).foldl (fun f e =>
      let p := e.1
      modSap p (fun s =>
        match s.cur with
        | some c =>
          if saDir c then { s with outL := topBits c (tget 0 out (2 * p)), outR := topBits c (tget 0 out (2 * p + 1)) } else { s with outL := 0, outR := 0 }
        | none => { s with outL := 0, outR := 0 }) (frameBegin p f)) f)

/-- floor((w × g + 32) / 64) of a fade (R212). -/
def fadeWord (w : W32) (g : Nat) : W32 := ofI ((w.toInt * g + 32) / 64)

/-- What an input delivers of the pair `l`, `r`: the words, the bit of word 228, and the port afterwards. -/
def sapDeliver (s : SapPort) (l r : W32) (rep : Bool) : W32 × W32 × Bool × SapPort :=
  match s.fade with
  | .full => (l, r, rep, { s with lastL := l, lastR := r })
  | .out i =>
    (fadeWord s.lastL (64 - i), fadeWord s.lastR (64 - i), true,
      { s with fade := if i < 64 then .out (i + 1) else if s.recover then .into 1 else .silent, recover := s.recover && decide (i < 64) })
  | .silent => (0, 0, true, s)
  | .into i =>
    let a := fadeWord l i
    let b := fadeWord r i
    (a, b, true, { s with fade := if i < 63 then .into (i + 1) else .full, lastL := a, lastR := b })

/-- The words of port `p` put into the frame under capture. -/
def capturePut (p : Nat) (l r : W32) (b : Bool) (f : FieldDie) : FieldDie :=
  { f with io := { f.io with inBack := tput 0 (tput 0 f.io.inBack (128 + 2 * p) l) (129 + 2 * p) r, w228 := if b then f.io.w228 ||| 2 ^ p else f.io.w228 } }

/-- A slave group at a capture boundary: one frame is read, or the previous pairs repeat (R198, R199). -/
def groupCapture (g : Nat) (f : FieldDie) : FieldDie :=
  let q := grpAt f.aud g
  let on := groupActive f.aud g
  let under := decide (q.fill = 0)
  let key := ringKey g (if under then (q.rd + 63) % 64 else q.rd)
  let f := (groupPorts f.aud g false).foldl (fun f p =>
    let s := sapAt f.aud p
    let t := f.aud.inRing
    if refLost f.aud g then
      capturePut p 0 0 true (modSap p (fun _ => { (sapDeliver s 0 0 true).2.2.2 with lastL := 0, lastR := 0 }) f)
    else if on ∨ s.lost then
      let d := sapDeliver s (tget 0 t (key + 2 * p)) (tget 0 t (key + 2 * p + 1)) (under || decide (tget 0 t (key + 48 + p) ≠ 0))
      capturePut p d.1 d.2.1 d.2.2.1 (modSap p (fun _ => d.2.2.2) f)
    else capturePut p 0 0 true f) f
  if !on then f
  else if under then modGrp g (fun q => { q with inUnder := seq8 q.inUnder }) f
  else modGrp g (fun q => { q with rd := (q.rd + 1) % 64, fill := q.fill - 1 }) f

/-- A G0 input at a capture boundary: the frame that ended at the last sample edge (R196). -/
def g0Capture (p : Nat) (f : FieldDie) : FieldDie :=
  let s := sapAt f.aud p
  match s.prev with
  | some c => if saDir c then f else capturePut p s.curL s.curR s.rep f
  | none => if s.prevRst ∧ saDir s.used = false then capturePut p 0 0 true f else f

/-- The words of the ports of G0, and of the resampler, for the next IN frame. -/
def g0All (f : FieldDie) : FieldDie := (f.aud.ports.filter (fun e => decide (saGroup e.2.used = 0))).foldl (fun f e => g0Capture e.1 f) f
def rsmpAll (f : FieldDie) : FieldDie :=
  (f.aud.rsmp.map (·.1)).foldl (fun f j =>
    let r := rsmpWord j f
    { r.1 with io := { r.1.io with inBack := tput 0 r.1.io.inBack (208 + j) r.2.1, w230 := if r.2.2 then r.1.io.w230 ||| 2 ^ j else r.1.io.w230 } }) f

/-- A tick with no pass (R214): the resampler runs on. What it and the ports of G0 give stands ready for a first pass that starts late in the tick. -/
def audioIdle (f : FieldDie) : FieldDie := rsmpAll (g0All { f with io := { f.io with inBack := [], w228 := 0, w230 := 0 } })

/-- The slave groups are read and the local loop measures: what only a pass brings about. -/
def audioLate (f : FieldDie) : FieldDie := oscCapture ([1, 2, 3, 4].foldl (fun f g => groupCapture g f) f)

/-- The capture boundary of the ports, the resampler and the local loop: words 128 to 175, 208 to 223, 228 and 230 of the next IN frame. -/
def audioCapture (f : FieldDie) : FieldDie := audioLate (rsmpAll (g0All f))

/-- The OUT swap on the slave groups' output sides (R198, R199). -/
def audioOut (out : Tbl W32) (f : FieldDie) : FieldDie :=
  [1, 2, 3, 4].foldl (fun f g =>
    let q := grpAt f.aud g
    if !groupActive f.aud g then f
    else if q.ofill = 64 then modGrp g (fun q => { q with outOver := seq8 q.outOver }) f
    else
      let key := ringKey g q.owr
      let f := (groupPorts f.aud g true).foldl (fun f p =>
        modAud f (fun a => { a with outRing := tput 0 (tput 0 a.outRing (key + 2 * p) (tget 0 out (2 * p))) (key + 2 * p + 1) (tget 0 out (2 * p + 1)) })) f
      modGrp g (fun q => { q with owr := (q.owr + 1) % 64, ofill := q.ofill + 1 }) f) f

/-! ### Groups and channels: staged settings -/

/-- A staged reference port comes into force. -/
def grpApply (g : Nat) (f : FieldDie) : FieldDie := modGrp g (fun q => if q.dirty then { q with refUsed := q.ref, dirty := false } else q) f

/-- A write of word `k` (0, 2, 4) of slave group `g`. -/
def grpWrite (g k : Nat) (v : W32) (f : FieldDie) : FieldDie :=
  if g < 1 ∨ 4 < g then f
  else
    let q := grpAt f.aud g
    match k with
    | 0 =>
      if q.link ∧ gliding f.cg q.cgrp then modGrp g (fun q => { q with refused := true }) f
      else
        let f := modGrp g (fun q => { q with ref := fld v 4 0, dirty := true }) f
        if f.mer.running then f else oscHold (regroup (grpApply g) f)
    | 2 => modGrp g (fun q => { q with link := bit v 1, cgrp := fld v 15 8, refused := q.refused && !bit v 17 }) f
    | 4 => modGrp g (fun q => { q with inUnder := fld v 7 0, inOver := fld v 15 8, outUnder := fld v 23 16, outOver := fld v 31 24 }) f
    | _ => f

/-- A staged source comes into force. -/
def rsmpApply (j : Nat) (f : FieldDie) : FieldDie :=
  let c := rsmpAt f.aud j
  if c.dirty then
    let f := modRsmp j (fun c => { c with srcUsed := c.src, dirty := false, hist := if c.src = c.srcUsed then c.hist else [] }) f
    if c.src ≠ c.srcUsed then rsmpRelock j f else f
  else f

/-- A channel enabled starts. -/
def rsmpStart (j : Nat) (f : FieldDie) : FieldDie :=
  if (rsmpAt f.aud j).enWait then
    rsmpCheck j (modRsmp j (fun c => { c with lock := false, fade := .silent, hist := [] }) (rsmpApply j (modRsmp j (fun c => { c with enWait := false }) f)))
  else f

/-- A write of word `k` (0, 2) of resampler channel `j`. -/
def rsmpWrite (j k : Nat) (v : W32) (f : FieldDie) : FieldDie :=
  if 16 ≤ j then f
  else
    let c := rsmpAt f.aud j
    match k with
    | 0 =>
      if 48 ≤ fld v 5 0 ∨ (bit f.aud.rsmpLink 0 ∧ gliding f.cg (fld f.aud.rsmpLink 15 8)) then modRsmp j (fun c => { c with refused := true }) f
      else
        let f := modRsmp j (fun c => { c with src := fld v 5 0, dirty := true }) f
        if f.mer.running then f else rsmpApply j f
    | 2 =>
      let f := modRsmp j (fun c => { c with refused := c.refused && !bit v 17, en := bit v 0 }) f
      if bit v 0 ∧ !c.en then
        let f := modRsmp j (fun c => { c with enWait := true }) f
        if f.mer.running then f else rsmpStart j f
      else if !bit v 0 then modRsmp j (fun c => { c with enWait := false, lock := false, fade := .silent, nosrc := false, range := false }) f
      else f
    | _ => f

/-- Staged settings linked to the groups that commit at a seam come into force (R37, R191). -/
def audioCommit (gs : List Nat) (f : FieldDie) : FieldDie :=
  oscHold (regroup (fun f =>
    let f := (f.aud.ports.filter (fun e => e.2.link && gs.contains e.2.cgrp)).foldl (fun f e => sapApply e.1 f) f
    let f := (f.aud.groups.filter (fun e => e.2.link && gs.contains e.2.cgrp)).foldl (fun f e => grpApply e.1 f) f
    if bit f.aud.rsmpLink 0 ∧ gs.contains (fld f.aud.rsmpLink 15 8) then f.aud.rsmp.foldl (fun f e => rsmpApply e.1 f) f else f) f)

/-- Enables come into force at seam slot 7. -/
def audioEnables (f : FieldDie) : FieldDie :=
  oscHold (regroup (fun f =>
    let f := f.aud.ports.foldl (fun f e => sapStart e.1 f) f
    f.aud.rsmp.foldl (fun f e => rsmpStart e.1 f) f) f)

/-- RUNNING becomes 0 (R191): everything staged comes into force. -/
def audioStopped (f : FieldDie) : FieldDie :=
  oscHold (regroup (fun f =>
    let f := f.aud.ports.foldl (fun f e => sapApply e.1 f) f
    let f := f.aud.groups.foldl (fun f e => grpApply e.1 f) f
    f.aud.rsmp.foldl (fun f e => rsmpApply e.1 f) f) (audioEnables f))

/-- Every slave group is centred. -/
def centreAll (f : FieldDie) : FieldDie := [1, 2, 3, 4].foldl (fun f g => centre g f) f

/-- A rate change at a seam (R214). -/
def audioRate (f : FieldDie) : FieldDie := oscHold (rsmpRelockAll (centreAll f))

/-- A write of OSC_CTL (R201, R204, R206). -/
def oscCtlWrite (v : W32) (f : FieldDie) : FieldDie :=
  let o := f.aud.osc
  let chg := bit v 12 != bit o.ctl 12
  let o := { o with refused := (o.refused && !bit v 16) || (chg && f.mer.running), ctl := setFld o.ctl 9 8 (fld v 9 8) }
  let o := if fld v 6 4 = 7 then o else { o with ctl := setFld o.ctl 6 4 (fld v 6 4) }
  let o :=
    if fld v 1 0 = 3 ∨ fld v 1 0 = oscMode o then o
    else { o with ctl := setFld o.ctl 1 0 (fld v 1 0), lock := false, near := 0, limit := false, chainGone := false, slewing := decide (fld v 1 0 = 0) && decide (o.freq ≠ o.trim) }
  let retune := chg && !f.mer.running
  let o := if retune then { o with ctl := setBit o.ctl 12 (bit v 12), pllLock := false } else o
  let g := modOsc (fun _ => o) f
  oscJudge (decide (oscMode o ≠ oscMode f.aud.osc)) (if retune then rsmpRelockAll g else g)

/-- A write of OSC_TRIM (R202). -/
def oscTrimPut (v : W32) (f : FieldDie) : FieldDie :=
  if v.toInt < -1000000 ∨ 1000000 < v.toInt then f
  else modOsc (fun o => { o with trim := v, slewing := decide (oscMode o = 0) && decide (o.freq ≠ v) }) f

/-- OSC_SLEW_END: the frequency reaches TRIM. -/
def oscSlewDone (f : FieldDie) : FieldDie :=
  modOsc (fun o => if oscMode o = 0 ∧ o.slewing then { o with freq := o.trim, slewing := false } else o) f

/-- PLL_LOCK: the engine PLL locks. -/
def pllLocks (f : FieldDie) : FieldDie := modOsc (fun o => { o with pllLock := true }) f

/-- OSC_LOCAL_LOCK. -/
def oscLocks (f : FieldDie) : FieldDie := modOsc (fun o => if oscMode o = 2 ∧ o.hold = false then { o with lock := true } else o) f

/-- A write of MCLK_CTL. -/
def mclkPut (v : W32) (f : FieldDie) : FieldDie := modAud f (fun a => { a with mclk := v &&& 0x00000707 })

/-! ### Registers as read -/

def sapCtlWord (s : SapPort) : W32 := w32 (b2n s.refused * 2 ^ 17 + b2n s.dirty * 2 ^ 16 + s.cgrp * 256 + b2n s.link * 2 + b2n s.en)
def sapStatWord (s : SapPort) : W32 := w32 (s.code * 16 + b2n s.devHi * 8 + b2n s.curRst * 4 + b2n (sapFading s) * 2 + b2n s.lost)
def sapCntWord (s : SapPort) : W32 := w32 (s.framing * 65536 + s.glitch)
def grpCtlWord (q : SapGroup) : W32 := w32 (b2n q.refused * 2 ^ 17 + b2n q.dirty * 2 ^ 16 + q.cgrp * 256 + b2n q.link * 2)
def grpStatWord (a : Audio) (g : Nat) : W32 := w32 (b2n (refLost a g) * 65536 + (grpAt a g).ofill * 256 + (grpAt a g).fill)
def grpCntWord (q : SapGroup) : W32 := w32 (q.outOver * 2 ^ 24 + q.outUnder * 2 ^ 16 + q.inOver * 256 + q.inUnder)
def oscCtlWord (o : Osc) : W32 := setBit o.ctl 16 o.refused
def oscStatWord (o : Osc) : W32 := w32 (b2n o.mismatch * 32 + b2n o.slewing * 16 + b2n o.pllLock * 8 + b2n o.limit * 4 + b2n o.hold * 2 + b2n o.lock)
def rsmpCtlWord (c : RsmpCh) : W32 := w32 (b2n c.refused * 2 ^ 17 + b2n c.dirty * 2 ^ 16 + b2n c.en)
def rsmpStatWord (c : RsmpCh) : W32 := w32 (b2n c.nosrc * 16 + b2n c.range * 8 + b2n (rsmpFading c) * 4 + b2n c.lock * 2 + b2n (rsmpValid c))

def execSapCfgWrite (p : Nat) (v : W32) (s : State) := fieldHeard (sapCfgPut p v) s
def execSapEnableWrite (p : Nat) (v : W32) (s : State) := fieldHeard (sapCtlWrite p v) s
def execSapBallFrame (p : Nat) (l r : List Bool) (edgesL edgesR : Nat) (s : State) := fieldHeard (ballFrame p (l ++ r) edgesL edgesR) s
def execSapGlitch (p : Nat) (right : Bool) (s : State) := fieldCmd (sapGlitch p right) s
def execSapClockLost (p : Nat) (s : State) := fieldHeard (sapLoss p) s
def execSapClockReturn (p : Nat) (s : State) := fieldHeard (sapReturn p) s
def execGroupFrame (g : Nat) (s : State) := fieldHeard (groupFrame g) s
def execRateWindow (p frames ticks8 : Nat) (s : State) := fieldHeard (rateWindow p frames ticks8) s
def execMclkCtlWrite (v : W32) (s : State) := fieldCmd (mclkPut v) s
def execOscModeWrite (v : W32) (s : State) := fieldHeard (oscCtlWrite v) s
def execOscTrimWrite (v : W32) (s : State) := fieldCmd (oscTrimPut v) s
def execOscSlewEnd (s : State) := fieldCmd oscSlewDone s
def execOscLocalLock (s : State) := fieldHeard oscLocks s
def execRsmpLock (j : Nat) (s : State) := fieldCmd (rsmpLocks j) s

end Sys2Proof.Machine
end

