-- ==== Sys2Proof/Machine/DmaOps.lean ====
section
/-! DEFINITION. DMA queues (R377 to R388) over the bus of either die. -/

namespace Sys2Proof.Machine

/-- A bus read: the bytes, or the STATUS code of its failure (R380, R386): 2 BUS_ERR, 3 ECC; or not yet, behind a KEEP chain (R394). -/
inductive BusRes where
  | ok (bs : List Byte)
  | err (code : Nat)
  | wait
  deriving DecidableEq, Repr

/-- What a DMA engine needs of its die: the engine, the bus, which addresses a ring may take, and whether SPP runs there. -/
structure DmaBus (σ : Type) where
  get  : σ → Dma
  set  : σ → Dma → σ
  rd   : σ → Nat → Nat → σ × BusRes
  wr   : σ → Nat → List Byte → σ × Bool
  ring : Nat → Bool
  /-- The queues of the engine. -/
  count : Nat
  /-- The return of a descriptor at an address whose fetch met an uncorrectable codeword (R386): the bytes before STATUS that the engine
  writes as zero with it, so that whole codewords are written. -/
  zeros : Nat → Nat
  /-- SPP descriptors may run in a queue (R389). -/
  spp  : σ → Nat → Bool

/-- Entries of a ring (R378). -/
def ringLen (q : DmaQ) : Nat := 2 ^ (q.size + 2)

/-- The address of descriptor `i` of a queue (R378). -/
def descAddr (q : DmaQ) (i : Nat) : Nat := q.base.toNat + 32 * (i % ringLen q)

/-- STATUS (R380). -/
def dmaStatus (code bytes : Nat) : W32 := w32 (2 ^ 31 + code * 2 ^ 24 + bytes % 2 ^ 24)

/-- A change of one queue. -/
def modQ {σ : Type} (B : DmaBus σ) (s : σ) (n : Nat) (f : DmaQ → DmaQ) : σ :=
  B.set s (dmaSetQ (B.get s) n (f (dmaQ (B.get s) n)))

/-- A queue is ready (R384). -/
def dmaReady (q : DmaQ) : Bool := q.en && !q.halted && (q.cur.isSome || decide ((q.pidx + 65536 - q.cidx) % 65536 ≠ 0))

/-- The queue that the engine serves at the next beat (R384): the highest priority with a ready queue; within it the queue in service
until its descriptor returns or it has had 64 beats, then the next in ascending order. -/
def dmaGranted (e : Dma) (count : Nat) : Option Nat :=
  let rs := (List.range count).filter (fun n => dmaReady (dmaQ e n))
  let top := rs.foldl (fun m n => max m (dmaQ e n).prio) 0
  let cs := rs.filter (fun n => decide ((dmaQ e n).prio = top))
  if cs.contains e.serving ∧ e.row < 64 then some e.serving
  else match cs.find? (fun n => decide (e.serving < n)) with
    | some n => some n
    | none => cs.head?

/-- One more beat of a queue; a turn that ended begins again (R384). -/
def dmaBeatCount (e : Dma) (n k : Nat) : Dma :=
  if e.serving = n ∧ e.row < 64 then { e with row := e.row + k } else { e with serving := n, row := k }

/-- A descriptor returned (R381): STATUS is written, with `z` bytes of zeros before it, then DIDX advances and the interrupt is raised. -/
def dmaReturnZ {σ : Type} (B : DmaBus σ) (s : σ) (n i : Nat) (irq : Bool) (z code bytes : Nat) : σ :=
  let q := dmaQ (B.get s) n
  let s := (B.wr s (descAddr q i + 28 - z) (List.replicate z 0 ++ bytesLE 4 (dmaStatus code bytes).toNat)).1
  modQ B s n (fun q => { q with didx := (q.didx + 1) % 65536, irq := q.irq || (irq && q.irqEn) })

/-- A descriptor returned by its STATUS alone. -/
def dmaReturn {σ : Type} (B : DmaBus σ) (s : σ) (n i : Nat) (irq : Bool) (code bytes : Nat) : σ := dmaReturnZ B s n i irq 0 code bytes

/-- The descriptor in progress ends: returned, and the queue halts on an error of R386 that halts. -/
def dmaEnd {σ : Type} (B : DmaBus σ) (s : σ) (n code bytes : Nat) : σ :=
  let q := dmaQ (B.get s) n
  match q.cur with
  | none => s
  | some c =>
    let s := dmaReturn B s n c.at' (bit (wAt c.words 0) 8) code bytes
    let s := modQ B s n (fun q => { q with cur := none, halted := q.halted || code = 2 || code = 3 || code = 5 })
    B.set s { B.get s with row := 64 }

/-- An address range written as naturally aligned accesses, the largest that fits first (R382). -/
def splitAcc : Nat → Nat → List Byte → List (Nat × List Byte)
  | 0, _, _ => []
  | f + 1, a, bs =>
    let n := bs.length
    if n = 0 then []
    else
      let k := if a % 8 = 0 ∧ 8 ≤ n then 8 else if a % 4 = 0 ∧ 4 ≤ n then 4 else if a % 2 = 0 ∧ 2 ≤ n then 2 else 1
      (a, bs.take k) :: splitAcc f (a + k) (bs.drop k)

/-- Source bytes fetched in aligned 16-byte blocks until the funnel covers a beat (R382); a read that waits leaves it as it stands. -/
def dmaFill {σ : Type} (B : DmaBus σ) (src len want : Nat) : Nat → σ → DmaCur → σ × DmaCur × Option Nat
  | 0, s, c => (s, c, none)
  | f + 1, s, c =>
    if want ≤ c.read then (s, c, none)
    else
      let a := src + c.read
      let n := min ((a / 16 + 1) * 16 - a) (len - c.read)
      match B.rd s a n with
      | (s, .ok bs) => dmaFill B src len want f s { c with funnel := c.funnel ++ bs, read := c.read + n }
      | (s, .err k) => (s, c, some k)
      | (s, .wait) => (s, c, none)

/-- One beat of a COPY or FILL (R382, R385, R386). -/
def dmaBeat {σ : Type} (B : DmaBus σ) (s : σ) (n : Nat) : σ :=
  match (dmaQ (B.get s) n).cur with
  | none => s
  | some c =>
    let op := fld (wAt c.words 0) 7 0
    let len := fld (wAt c.words 1) 23 0
    let d := (wAt c.words 3).toNat + c.done
    let k := min ((d / 16 + 1) * 16 - d) (len - c.done)
    let r := if op = 1 then dmaFill B (wAt c.words 2).toNat len (c.done + k) 3 s c
      else (s, { c with funnel := (List.range k).map (fun i => byteN (wAt c.words 4).toNat ((d + i) % 4)) }, none)
    match r with
    | (s, _, some code) => dmaEnd B s n code c.done
    | (s, c, none) =>
      if op = 1 ∧ c.read < c.done + k then modQ B s n (fun q => { q with cur := some c })
      else
      let bs := c.funnel.take k
      let w := (if k = 16 then [(d, bs)] else splitAcc 16 d bs).foldl (fun (p : σ × Nat × Bool) a =>
        if p.2.2 then
          let x := B.wr p.1 a.1 a.2
          (x.1, if x.2 then p.2.1 + a.2.length else p.2.1, x.2)
        else p) (s, 0, true)
      let s := modQ B w.1 n (fun q => { q with cur := some { c with done := c.done + w.2.1, funnel := c.funnel.drop k } })
      let s := B.set s (dmaBeatCount (B.get s) n 1)
      if w.2.2 = false then dmaEnd B s n 2 (c.done + w.2.1)
      else if len ≤ c.done + k then dmaEnd B s n 0 len
      else s

/-- Up to `beats` beats of queue `n`, each granted in its turn. -/
def dmaRun {σ : Type} (B : DmaBus σ) (n : Nat) : Nat → σ → σ
  | 0, s => s
  | k + 1, s => if dmaGranted (B.get s) B.count = some n ∧ (dmaQ (B.get s) n).cur.isSome then dmaRun B n k (dmaBeat B s n) else s

/-- DMA_COPY and DMA_FILL: the descriptor in progress is of that operation; LEN 0 moves nothing. -/
def dmaMove {σ : Type} (B : DmaBus σ) (op n beats : Nat) (s : σ) : σ :=
  match (dmaQ (B.get s) n).cur with
  | none => s
  | some c =>
    if n < B.count ∧ fld (wAt c.words 0) 7 0 = op ∧ dmaGranted (B.get s) B.count = some n then
      if fld (wAt c.words 1) 23 0 = 0 then dmaEnd B s n 0 0 else dmaRun B n beats s
    else s

/-- DMA_NOP. -/
def dmaNop {σ : Type} (B : DmaBus σ) (n : Nat) (s : σ) : σ :=
  match (dmaQ (B.get s) n).cur with
  | none => s
  | some c => if n < B.count ∧ fld (wAt c.words 0) 7 0 = 0 ∧ dmaGranted (B.get s) B.count = some n then dmaEnd B s n 0 0 else s

/-- A reserved operation, bit or field value, or SPP where it cannot run (R379, R386, R391). -/
def dmaBadop (ws : List W32) (spp : Bool) : Bool :=
  let op := fld (wAt ws 0) 7 0
  let f := wAt ws 6
  decide (3 < op) || decide (fld (wAt ws 0) 15 9 ≠ 0) || decide (fld (wAt ws 1) 31 24 ≠ 0) ||
    (if op = 3 then
      !spp || decide (fld (wAt ws 4) 31 24 ≠ 0) || decide (fld f 3 2 = 3) || decide (4 < fld f 8 6) || decide (fld f 31 27 ≠ 0) ||
        (bit f 18 && (decide (fld f 1 0 ≠ 0) || decide (fld f 5 4 ≠ 0) || decide (fld f 16 15 ≠ 0))) || (bit f 24 && !bit f 23) ||
        (!bit f 23 && decide (fld (wAt ws 1) 23 0 % (fld f 26 25 + 1) ≠ 0))
     else decide (f ≠ 0))

/-- DMA_DESC_FETCH (R379, R384, R386). -/
def dmaFetch {σ : Type} (B : DmaBus σ) (n : Nat) (s : σ) : σ :=
  let q := dmaQ (B.get s) n
  if B.count ≤ n ∨ q.cur.isSome ∨ dmaGranted (B.get s) B.count ≠ some n then s
  else
    let a := descAddr q q.cidx
    let i := q.cidx
    match B.rd s a 28 with
    | (s, .wait) => s
    | (s, r) =>
      let s := modQ B s n (fun q => { q with cidx := (q.cidx + 1) % 65536 })
      let s := B.set s (dmaBeatCount (B.get s) n 2)
      match r with
      | .ok bs =>
        let ws := wordsOfBytes bs
        let s := modQ B s n (fun q => { q with cur := some { words := ws, at' := i, done := 0, funnel := [], read := 0 } })
        if dmaBadop ws (B.spp s n) then dmaEnd B s n 4 0 else s
      | .wait => s
      | .err code =>
        let s := dmaReturnZ B s n i false (if code = 3 then B.zeros a else 0) code 0
        modQ B s n (fun q => { q with halted := true })

/-- The IRQ bit of descriptor `i` (R379, R381): as fetched for the one in progress, else as its word 0 stands in the ring. -/
def dmaIrqBit {σ : Type} (B : DmaBus σ) (s : σ) (q : DmaQ) (i : Nat) : σ × Bool :=
  let here := match q.cur with | some c => if c.at' = i then some (bit (wAt c.words 0) 8) else none | none => none
  match here with
  | some b => (s, b)
  | none =>
    match B.rd s (descAddr q i) 4 with
    | (s, .ok bs) => (s, bit (w32 (ofBytesLE bs)) 8)
    | (s, _) => (s, false)

/-- Every posted descriptor from DIDX on returned ABORTED (R387, R388): the one in progress with the bytes it has written. -/
def dmaAbortAll {σ : Type} (B : DmaBus σ) (n : Nat) : Nat → σ → σ
  | 0, s => s
  | k + 1, s =>
    let q := dmaQ (B.get s) n
    if q.didx = q.pidx then s
    else
      let bytes := match q.cur with | some c => if c.at' = q.didx then c.done else 0 | none => 0
      let r := dmaIrqBit B s q q.didx
      dmaAbortAll B n k (dmaReturn B r.1 n q.didx r.2 1 bytes)

/-- The audit of R388: with a mismatch every descriptor returns ABORTED, the indices become equal, RESYNC sets. -/
def dmaAudit {σ : Type} (B : DmaBus σ) (n : Nat) (s : σ) : σ :=
  let q := dmaQ (B.get s) n
  let heldByIdx := (q.cidx + 65536 - q.didx) % 65536
  let posted := (q.pidx + 65536 - q.didx) % 65536
  if heldByIdx = b2n q.cur.isSome ∧ heldByIdx ≤ posted ∧ posted ≤ ringLen q then s
  else
    let s := dmaAbortAll B n 65536 s
    modQ B s n (fun q => { q with cur := none, cidx := q.pidx, didx := q.pidx, resync := true, resyncs := q.resyncs + 1 })

/-- EN written 0 (R387). -/
def dmaDisable {σ : Type} (B : DmaBus σ) (n : Nat) (s : σ) : σ :=
  let s := dmaAudit B n s
  let s := dmaAbortAll B n 65536 s
  modQ B s n (fun q => { q with en := false, cur := none, cidx := q.pidx, didx := q.pidx, halted := false })

/-- A write of a queue's control word (R378, R384, R386 to R388). -/
def dmaCtlWrite {σ : Type} (B : DmaBus σ) (n : Nat) (v : W32) (s : σ) : σ :=
  if B.count ≤ n then s
  else
    let q := dmaQ (B.get s) n
    let size := if 10 < fld v 7 4 then q.size else fld v 7 4
    let refuse := q.en && decide (size ≠ q.size)
    let s := modQ B s n (fun q => { q with prio := fld v 2 1, irqEn := bit v 8, size := if q.en then q.size else size,
                                           refused := q.refused || refuse, halted := if bit v 9 then false else q.halted })
    let s := if bit v 10 then dmaAudit B n s else s
    if bit v 0 then modQ B s n (fun q => { q with en := true }) else if q.en then dmaDisable B n s else s

/-- A write of PIDX (R378). -/
def dmaPidx {σ : Type} (B : DmaBus σ) (n : Nat) (v : W32) (s : σ) : σ :=
  if B.count ≤ n then s
  else modQ B s n (fun q =>
    if ringLen q < (fld v 15 0 + 65536 - q.didx) % 65536 then { q with overpost := true } else { q with pidx := fld v 15 0 })

/-- A write of BASE (R378). -/
def dmaBase {σ : Type} (B : DmaBus σ) (n : Nat) (v : W32) (s : σ) : σ :=
  let a := v &&& 0xFFFFFFE0
  modQ B s n (fun q => if q.en ∨ B.ring a.toNat = false then { q with refused := true } else { q with base := a })

/-- Every queue of an engine disabled (R32, R40, R52, R387): what was posted to a queue not enabled returns too. -/
def dmaDisableAll {σ : Type} (B : DmaBus σ) (s : σ) : σ :=
  ((B.get s).qs.map (·.1)).foldl (fun s n =>
    let q := dmaQ (B.get s) n
    if q.en ∨ q.pidx ≠ q.didx then dmaDisable B n s else s) s

/-! ### The host bus -/

/-- The bank and the offset of a host-bus address (R377). -/
def hostAddr (a : Nat) : Option (BankId × Nat) :=
  if 0x08000000 ≤ a ∧ a < 0x08080000 then some (.h0, a - 0x08000000)
  else if 0x08080000 ≤ a ∧ a < 0x08100000 then some (.h1, a - 0x08080000)
  else if 0x08100000 ≤ a ∧ a < 0x08180000 then some (.h2, a - 0x08100000)
  else if 0x08180000 ≤ a ∧ a < 0x08200000 then some (.h3, a - 0x08180000)
  else if 0x09000000 ≤ a ∧ a < 0x09100000 then some (.n, a - 0x09000000)
  else if 0x0A000000 ≤ a ∧ a < 0x0A010000 then some (.e, a - 0x0A000000)
  else none

/-- An EVENT of the host die: recorded, and delivered as a NOTIFY to each subscriber of 0300h sub 01h (R324). -/
def hostEvent (h : HostDie) (k : EvKind) (data : List W32) : HostDie := hostEventRaw h k data

/-- A read of host-bank bytes. -/
def hostReadBank (h : HostDie) (id : BankId) (a n : Nat) : HostDie × Option (List Byte) :=
  let r := eccRead id h.com.integ (hostBank h id) a n
  let g := hostSetBank { h with com := { h.com with integ := r.1 } } id r.2.1
  let g := r.2.2.foldl (fun g c => hostFault (hostEvent g .uncorr (uncorrData id c)) 0x103 (uncorrData id c)) g
  (g, if r.2.2 = [] then some (bankBytes (hostBank h id) a n) else none)

/-- A write of host-bank bytes. -/
def hostWriteBank (h : HostDie) (id : BankId) (a : Nat) (v : List Byte) : HostDie :=
  hostSetBank h id (bankWrite id (hostBank h id) a v)

/-- XIP_EN. -/
def xipOn (h : HostDie) : Bool := bit h.spp.xipMode 31

/-- A byte of the flash on SPP0 (R369); an unlisted one reads FFh. -/
def flashByte (b : Boot) (a : Nat) : Byte := tget 0xFF b.flash a

/-- Bytes of the flash. -/
def flashBytes (b : Boot) (a n : Nat) : List Byte := (List.range n).map (fun i => flashByte b (a + i))

/-- A master port by its number. -/
def sppPort (h : HostDie) (x : Nat) : Spp := if x = 0 then h.spp.p0 else h.spp.p1

/-- The host die with a port replaced. -/
def setSpp (h : HostDie) (x : Nat) (p : Spp) : HostDie :=
  if x = 0 then { h with spp := { h.spp with p0 := p } } else { h with spp := { h.spp with p1 := p } }

/-- The port is in slave mode (R396). -/
def sppSlave (h : HostDie) (x : Nat) : Bool := decide (x = 1) && bit h.spp.p1.ctl 1

/-- The slave of SPP1 is set up (R396). -/
def slaveOn (h : HostDie) : Bool := bit h.spp.p1.ctl 1 && bit h.spp.p1.ctl 0

/-- A frame put on record. -/
def sppFrame (h : HostDie) (x : Nat) (f : SppFrame) : HostDie :=
  let p := sppPort h x
  setSpp h x { p with frames := f :: p.frames }

/-- XCS of XIP_MODE. -/
def xipCs (h : HostDie) : Nat := fld h.spp.xipMode 25 24

/-- The exit frame of R395, where the flash is in the mode that omits the command. -/
def xipExit (h : HostDie) : HostDie :=
  if h.spp.p0.modeOn then
    let h := sppFrame h 0 ⟨xipCs h, h.spp.xipCfg, 0, 0, fld h.spp.xipMode 15 8, []⟩
    { h with spp := { h.spp with p0 := { h.spp.p0 with modeOn := false } } }
  else h

/-- A line of the flash window, 64 bytes. -/
def xipLine (h : HostDie) (k : Nat) : Nat × List Byte := (k, flashBytes h.boot (64 * k) 64)

/-- A miss frame (R394, R395): the command is omitted once MODE_ON has been sent. -/
def xipMiss (h : HostDie) (k : Nat) : HostDie :=
  let cont := bit h.spp.xipCfg 6
  let c := fld h.spp.xipCfg 31 16
  let h := sppFrame h 0 ⟨xipCs h, h.spp.xipCfg, if cont && h.spp.p0.modeOn then 0 else if bit h.spp.xipCfg 7 then c else c / 256, w32 (64 * k),
    if cont then fld h.spp.xipMode 7 0 else 0, []⟩
  { h with spp := { h.spp with p0 := { h.spp.p0 with modeOn := cont } } }

/-- A line of the window served (R394): from the buffer of four lines, or by a miss, which fetches the next line too where it follows the
line of the last miss; a KEEP chain delays a miss, with MM 1 it waits for an idle select (R393), and a port that stopped answers with a bus error. -/
def xipServe (k : Nat) (h : HostDie) : HostDie × BusRes :=
  match h.spp.lines.find? (fun l => decide (l.1 = k)) with
  | some l => ({ h with spp := { h.spp with lines := l :: h.spp.lines.filter (fun m => decide (m.1 ≠ k)) } }, .ok l.2)
  | none =>
    if h.spp.p0.keep.isSome then (h, .wait)
    else if h.spp.p0.stopped then (h, .err 2)
    else if bit h.spp.p0.ctl 2 ∧ h.spp.p0.active = false then ({ h with spp := { h.spp with p0 := { h.spp.p0 with waitSel := true } } }, .wait)
    else
      let next := decide (h.spp.lastMiss.isSome) && decide (h.spp.lastMiss.map (· + 1) = some k) && decide (k + 1 < 2 ^ 22)
      let new := xipLine h k :: (if next then [xipLine h (k + 1)] else [])
      let h := xipMiss h k
      let h := if next then xipMiss h (k + 1) else h
      let old := h.spp.lines.filter (fun l => !new.any (fun n => decide (n.1 = l.1)))
      ({ h with spp := { h.spp with lines := (new ++ old).take 4, lastMiss := some k, p0 := { h.spp.p0 with active := false } } }, .ok (xipLine h k).2)

/-- Bytes of the window, line by line. -/
def xipBytes : Nat → Nat → Nat → HostDie → HostDie × BusRes
  | 0, _, _, h => (h, .ok [])
  | f + 1, o, n, h =>
    if n = 0 then (h, .ok [])
    else
      let m := min n (64 - o % 64)
      match xipServe (o / 64) h with
      | (h, .ok l) =>
        match xipBytes f (o + m) (n - m) h with
        | (h, .ok r) => (h, .ok ((l.drop (o % 64)).take m ++ r))
        | x => x
      | x => x

/-- A read on the host bus (R377, R386, R394). -/
def hostBusRd (h : HostDie) (a n : Nat) : HostDie × BusRes :=
  if 0x20000000 ≤ a ∧ a + n ≤ 0x30000000 then
    if xipOn h then xipBytes (n / 64 + 2) (a - 0x20000000) n h else (h, .err 2)
  else
    match hostAddr a with
    | none => (h, .err 2)
    | some (id, o) =>
      match hostReadBank h id o n with
      | (h, some bs) => (h, .ok bs)
      | (h, none) => (h, .err 3)

/-- A write on the host bus. -/
def hostBusWr (h : HostDie) (a : Nat) (bs : List Byte) : HostDie × Bool :=
  match hostAddr a with
  | none => (h, false)
  | some (id, o) => (hostWriteBank h id o bs, true)

/-- The master port bound to a host queue (R389). -/
def sppBound (h : HostDie) (n : Nat) : Option Nat :=
  if fld h.spp.p0.ctl 21 16 = n ∧ n < 48 then some 0 else if fld h.spp.p1.ctl 21 16 = n ∧ n < 48 then some 1 else none

/-- The host DMA. -/
def hostDma : DmaBus HostDie :=
  { get := fun h => h.com.dma, set := fun h e => { h with com := { h.com with dma := e } }, rd := hostBusRd, wr := hostBusWr,
    ring := fun a => (hostAddr a).isSome, count := 48, zeros := fun _ => 4, spp := fun h n => (sppBound h n).isSome }

end Sys2Proof.Machine
end

