-- ==== Sys2Proof/Machine/IntegOps.lean ====
section
/-! DEFINITION. Memory integrity of either die (R403 to R423): write-backs, march tests, row repairs, the reserve ledger. -/

namespace Sys2Proof.Machine

/-- What the integrity operations need of their die. -/
structure DieOps (σ : Type) where
  com     : σ → Common
  setCom  : σ → Common → σ
  event   : σ → EvKind → List W32 → σ
  fault   : σ → Nat → List W32 → σ
  bank    : σ → BankId → Bank
  setBank : σ → BankId → Bank → σ
  /-- The bank that a BANK field names (MEM_CTRL). -/
  bankAt  : Nat → Option BankId
  /-- A destructive march of the bank is accepted now (R412). -/
  destrOk : σ → BankId → Bool
  /-- A row moves to its spare at once rather than at seam slot 9 (R416). -/
  atOnce  : Nat → Bool
  /-- The repair of a row is recorded in the configuration store (R419). -/
  record  : σ → RowId → Nat → σ
  side    : Side

/-- A change of the integrity record of a die. -/
def modInteg {σ : Type} (D : DieOps σ) (s : σ) (f : Integ → Integ) : σ :=
  let c := D.com s
  D.setCom s { c with integ := f c.integ }

/-- The default threshold of a resource (R423). -/
def threshDefault (r : Nat) : Nat :=
  if 1 ≤ r ∧ r ≤ 10 then sparesOf r / 4 else if r = 11 ∨ r = 15 ∨ r = 16 then 1 else 0

/-- The threshold in force. -/
def ledThresh (i : Integ) (r : Nat) : Nat :=
  match tget 0 i.thresh r with
  | 0 => threshDefault r
  | k + 1 => k

/-- Key slots of a die programmed (R348). -/
def slotsUsed (f : Fuses) : Nat := ((List.range 4).filter (fun k => f.programmed.testBit k)).length

/-- Spares used of a resource (R420). -/
def ledUsed (c : Common) (r : Nat) : Nat :=
  if r = 15 ∨ r = 16 then slotsUsed c.fuses
  else if r = 11 then (List.range 32).foldl (fun n b => n + tget 0 c.integ.dramUsed b) 0
  else tget 0 c.integ.used r

/-- Spares that remain. -/
def ledLeft (c : Common) (r : Nat) : Nat := sparesOf r - ledUsed c r

/-- Spares that remain for a repair of a row: those of its DRAM bank for a DRAM row (R414). -/
def rowLeft (c : Common) (r : RowId) : Nat :=
  if r.res = 11 then 4 - tget 0 c.integ.dramUsed (r.row / 2048) else ledLeft c r.res

/-- The mark of a low resource: one for each DRAM bank (R421). -/
def lowMark (r : RowId) : Nat := if r.res = 11 then 32 + r.row / 2048 else r.res

/-- RESERVE_LOW (R421), once. -/
def ledCheck {σ : Type} (D : DieOps σ) (s : σ) (r : RowId) : σ :=
  let c := D.com s
  if rowLeft c r ≤ ledThresh c.integ r.res ∧ c.integ.low.testBit (lowMark r) = false then
    let data := [w32 r.res, w32 (rowLeft c r)]
    let s := modInteg D s (fun i => { i with low := i.low ||| 2 ^ lowMark r ||| 2 ^ r.res })
    D.fault (D.event s .reserveLow data) 0x104 data
  else s

/-- A spare of a resource taken (R420, R421). -/
def takeSpare {σ : Type} (D : DieOps σ) (s : σ) (r : RowId) : σ :=
  ledCheck D (modInteg D s (fun i =>
    if r.res = 11 then { i with dramUsed := tmod 0 i.dramUsed (r.row / 2048) (· + 1) }
    else { i with used := tmod 0 i.used r.res (· + 1) })) r

/-- RESERVE_OUT (R421). -/
def ledOut {σ : Type} (D : DieOps σ) (s : σ) (r : RowId) : σ :=
  let data := [w32 r.res]
  D.fault (D.event (modInteg D s (fun i => { i with out := i.out ||| 2 ^ r.res })) .reserveOut data) 0x105 data

/-- A march test ended by ABORT: a destructive one leaves the codewords as the element under way had written them (R410); which element
it was and how far it had come is not stated, so both are free values. -/
def marchCut (id : BankId) (b : Bank) (e p : Nat) : Bank :=
  let n := bankSize id / 8
  let e := e % 6
  let p := p % (n + 1)
  let ones := fun (k : Nat) =>
    if e = 1 then decide (k < p) else if e = 2 then decide (p ≤ k) else if e = 3 then decide (n ≤ k + p)
    else if e = 4 then decide (k + p < n) else false
  let kept := fun (k : Nat) => decide (e = 0) && decide (p ≤ k)
  let mem := (List.range n).foldl (fun m k =>
    (cwBytes (layoutOf id) k).foldl (fun m a => if kept k then m else wr8 m a (if ones k then 0xFF else 0)) m) b.mem
  { b with mem := mem, err := b.err.filter (fun x => kept x.1), wb := b.wb.filter kept }

/-- One march stopped: bank number and kind. -/
def marchStopOne {σ : Type} (D : DieOps σ) (s : σ) (e : Nat × Bool) : σ :=
  match D.bankAt e.1, e.2 with
  | some id, true =>
    let d1 := draw (D.com s) 100
    let d2 := draw d1.1 101
    let s := D.setCom s d2.1
    D.setBank s id (marchCut id (D.bank s id) d1.2.toNat d2.2.toNat)
  | _, _ => s

/-- The marches under way stopped. -/
def marchStop {σ : Type} (D : DieOps σ) (s : σ) : σ :=
  let l := (D.com s).integ.march
  if l = [] then s else l.foldl (marchStopOne D) (modInteg D s (fun i => { i with march := [], result := 0 }))

/-- A march of the bank with that number is under way. -/
def marching (i : Integ) (k : Nat) : Bool := i.march.any (fun e => e.1 == k)

/-- A march test asked for (R412): the codes of R423 for the result. -/
def marchStart {σ : Type} (D : DieOps σ) (s : σ) (k mode : Nat) : σ :=
  let no := modInteg D s (fun i => { i with refused := true, result := 4 })
  match D.bankAt k with
  | none => no
  | some id =>
    if marching (D.com s).integ k = true ∨ (mode ≠ 1 ∧ mode ≠ 2) ∨ (mode = 2 ∧ D.destrOk s id = false) then no
    else modInteg D s (fun i => { i with march := i.march ++ [(k, decide (mode = 2))], result := 1, progress := 0 })

/-- A write of MEM_CTRL. -/
def memCtrlWrite {σ : Type} (D : DieOps σ) (v : W32) (s : σ) : σ :=
  let s := modInteg D s (fun i => { i with ctrl := v &&& 0x00FF003F })
  let s := if bit v 9 then marchStop D s else s
  if bit v 8 then marchStart D s (fld v 3 0) (fld v 5 4) else s

/-- MARCH_DONE of the bank with that number (R410, R413): the rows that failed; a destructive test leaves every codeword zero. -/
def marchDone {σ : Type} (D : DieOps σ) (k : Nat) (rows : List Nat) (s : σ) : σ :=
  match (D.com s).integ.march.find? (fun e => e.1 == k), D.bankAt k with
  | some (_, destr), some id =>
    let bad := rows.filter (fun r => decide (r < bankRows id))
    let s := modInteg D s (fun i =>
      let rest := i.march.filter (fun e => e.1 != k)
      { i with march := rest, result := if rest ≠ [] then 1 else if bad = [] then 2 else 3, fail := i.fail || decide (bad ≠ []) })
    let s := bad.foldl (fun s r =>
      D.fault (modInteg D s (fun i => addCand i ⟨resOf id, r⟩)) 0x106 [w32 (bankNo id), w32 r]) s
    if destr then D.setBank s id { D.bank s id with mem := [], err := [], wb := [] } else s
  | _, _ => s

/-- The row that a repair request names (R415); none out of range. Bank code 6 of the field die is Silt. -/
def repairRow {σ : Type} (D : DieOps σ) (k row : Nat) : Option RowId :=
  match D.bankAt k with
  | some id => if row < bankRows id then some ⟨resOf id, row⟩ else none
  | none => if D.side = .field ∧ k = 6 then some ⟨11, row⟩ else none

/-- A row named for repair (R415). -/
def repairAsk {σ : Type} (D : DieOps σ) (k row : Nat) (s : σ) : σ :=
  match repairRow D k row with
  | some r => modInteg D s (fun i => addCand i r)
  | none => modInteg D s (fun i => { i with refused := true })

/-- A write of MEM_REPAIR. -/
def memRepairWrite {σ : Type} (D : DieOps σ) (v : W32) (s : σ) : σ :=
  let s := modInteg D s (fun i => { i with repair := v &&& 0x000FFFFF })
  if bit v 31 then repairAsk D (fld v 19 16) (fld v 15 0) s else s

/-- The copy of a row begun on its next spare, or RESERVE_OUT (R416, R417, R421). -/
def repairOn {σ : Type} (D : DieOps σ) (s : σ) (r : RowId) : σ :=
  let c := D.com s
  if rowLeft c r = 0 then ledOut D (modInteg D s (fun i => { i with copying := none })) r
  else
    let spare := if r.res = 11 then tget 0 c.integ.dramUsed (r.row / 2048) else ledUsed c r.res
    takeSpare D (modInteg D s (fun i => { i with copying := some (r, spare) })) r

/-- REPAIR_START: the candidate of that bank number (R423) and row. -/
def repairStart {σ : Type} (D : DieOps σ) (bank row : Nat) (s : σ) : σ :=
  let i := (D.com s).integ
  let res := if bank = 13 then 11 else if 7 ≤ bank ∧ bank ≤ 8 then bank - 3 else if 9 ≤ bank ∧ bank ≤ 11 then bank - 8
    else if bank = 12 then 6 else if 1 ≤ bank ∧ bank ≤ 4 then bank + 6 else 0
  let r : RowId := ⟨res, row⟩
  if i.copying.isSome ∨ r ∉ i.cand then s
  else repairOn D (modInteg D s (fun i => { i with cand := i.cand.filter (· ≠ r) })) r

/-- A row moved to its spare (R416, R417, R419): every access reaches the spare, which holds the same content. -/
def rowMoved {σ : Type} (D : DieOps σ) (s : σ) (r : RowId) (spare : Nat) : σ :=
  let s := modInteg D s (fun i => { i with remap := i.remap ++ [(r, spare)] })
  D.record (D.fault s (if r.res = 11 then 0x101 else 0x100) [w32 r.res, w32 r.row, w32 spare]) r spare

/-- REPAIR_COPY_DONE (R416): a bad spare counts as used and the copy starts again on the next. -/
def repairCopyDone {σ : Type} (D : DieOps σ) (spareBad : Bool) (s : σ) : σ :=
  match (D.com s).integ.copying with
  | none => s
  | some (r, spare) =>
    if spareBad then repairOn D s r
    else
      let s := modInteg D s (fun i => { i with copying := none })
      if D.atOnce r.res then rowMoved D s r spare
      else modInteg D s (fun i => { i with copied := i.copied ++ [(r, spare)] })

/-- The rows that waited for seam slot 9 move (R53, R416). -/
def repairSeam {σ : Type} (D : DieOps σ) (s : σ) : σ :=
  let l := (D.com s).integ.copied
  l.foldl (fun s e => rowMoved D s e.1 e.2) (modInteg D s (fun i => { i with copied := [] }))

/-- ECC_WRITEBACK (R405): the corrected codeword is written, unless a master wrote it first. -/
def eccWriteback {σ : Type} (D : DieOps σ) (id : BankId) (c : Nat) (s : σ) : σ :=
  let b := D.bank s id
  if b.wb.contains c then D.setBank s id { b with err := tput 0 b.err c 0, wb := b.wb.filter (· ≠ c) } else s

/-- The spares a repair of the row can take. -/
def spareCount (r : RowId) : Nat := if r.res = 11 then 4 else sparesOf r.res

/-- The spare that the next repair of the row takes. -/
def nextSpare (c : Common) (r : RowId) : Nat := spareCount r - rowLeft c r

/-- The spare fails its own check. -/
def spareFails (i : Integ) (r : RowId) (k : Nat) : Bool := i.badSpares.contains (lowMark r, k)

/-- A recorded spare and those before it count as used (R420: a used spare is never counted as free again). -/
def takeSpareAt {σ : Type} (D : DieOps σ) (s : σ) (r : RowId) (k : Nat) : σ :=
  ledCheck D (modInteg D s (fun i =>
    if r.res = 11 then { i with dramUsed := tmod 0 i.dramUsed (r.row / 2048) (fun n => max n (k + 1)) }
    else { i with used := tmod 0 i.used r.res (fun n => max n (k + 1)) })) r

/-- A record applied as it stands: its spare counts as used, and the row moves unless the spare fails its check. -/
def restoreOne {σ : Type} (D : DieOps σ) (s : σ) (e : RowId × Nat) : σ :=
  let i := (D.com s).integ
  if i.remap.contains e ∨ e.1.res = 0 ∨ 11 < e.1.res ∨ spareCount e.1 ≤ e.2 then s
  else
    let s := takeSpareAt D s e.1 e.2
    if spareFails i e.1 e.2 then s else modInteg D s (fun i => { i with remap := i.remap ++ [e] })

/-- A record whose spare fails its check is moved to the next spare that passes (R419), if one is left (R421). -/
def restoreNext {σ : Type} (D : DieOps σ) : Nat → σ → RowId → σ
  | 0, s, r => ledOut D s r
  | n + 1, s, r =>
    let c := D.com s
    if rowLeft c r = 0 then ledOut D s r
    else
      let k := nextSpare c r
      let s := takeSpare D s r
      if spareFails c.integ r k then restoreNext D n s r
      else
        D.record (D.fault (modInteg D s (fun i => { i with remap := i.remap ++ [(r, k)] })) 0x107 [w32 r.res, w32 r.row, w32 k]) r k

/-- Repair records applied at boot (R419): those whose spare passes, then those whose spare fails. -/
def repairRestore {σ : Type} (D : DieOps σ) (l : List (RowId × Nat)) (s : σ) : σ :=
  let bad := l.filter (fun e => decide (1 ≤ e.1.res) && decide (e.1.res ≤ 11) && decide (e.2 < spareCount e.1) && spareFails (D.com s).integ e.1 e.2)
  bad.foldl (fun s e => if (D.com s).integ.remap.any (fun x => x.1 == e.1) then s else restoreNext D 65 s e.1) (l.foldl (restoreOne D) s)

/-- Spares found bad when the records are applied (R419). -/
def spareReport {σ : Type} (D : DieOps σ) (bad : List (Nat × Nat)) (s : σ) : σ := modInteg D s (fun i => { i with badSpares := bad })

/-- THRESHOLD of a resource written (R421, R423). -/
def threshWrite {σ : Type} (D : DieOps σ) (r v : Nat) (s : σ) : σ :=
  ledCheck D (modInteg D s (fun i => { i with thresh := tput 0 i.thresh r (if v = threshDefault r then 0 else v + 1) })) ⟨r, 0⟩

/-- RECORD of a resource (R423). -/
def ledRecord (c : Common) (r : Nat) : List Byte :=
  bytesBE 2 (sparesOf r) ++ bytesBE 2 (ledUsed c r) ++ bytesBE 2 (ledLeft c r) ++ bytesBE 1 (ledThresh c.integ r) ++
    bytesBE 1 (b2n (c.integ.low.testBit r) + 2 * b2n (c.integ.out.testBit r))

/-- MEM_STAT (R412 to R416). -/
def memStat (i : Integ) : W32 :=
  w32 (i.progress % 65536 * 65536 + 8 * b2n i.copying.isSome + 4 * b2n i.refused + 2 * b2n i.fail + b2n (!i.march.isEmpty))

/-- A write of MEM_STAT. -/
def memStatWrite {σ : Type} (D : DieOps σ) (v : W32) (s : σ) : σ :=
  modInteg D s (fun i => { i with refused := i.refused && !bit v 2, fail := i.fail && !bit v 1 })

/-- The start-up march that the fuse MARCH_BOOT selects (R412): destructive, on all SRAM banks of the die at once. -/
def marchBoot (f : Fuses) : List (Nat × Bool) := if f.marchBoot.testBit 0 then (List.range 6).map (fun k => (k, true)) else []

/-- It runs: the ROM of the die loads no image yet. -/
def romTests (c : Common) : Bool := c.integ.march.any (fun e => e.2)

/-- The ECC record of a bank (R423). -/
def eccRecord (b : Bank) : List Byte :=
  bytesBE 4 (ctrGet b.cnt 0).toNat ++ bytesBE 4 (ctrGet b.cnt 1).toNat ++ bytesBE 4 (ctrGet b.cnt 2).toNat ++ bytesBE 4 b.last.toNat

/-- The host die. -/
def hostOps : DieOps HostDie :=
  { com := fun h => h.com, setCom := fun h c => { h with com := c }, event := hostEvent, fault := hostFault, bank := hostBank,
    setBank := hostSetBank, destrOk := fun _ _ => false, atOnce := fun _ => true, side := .host,
    record := fun h r k => { h with boot := { h.boot with repairs := h.boot.repairs.filter (fun e => e.1 != r) ++ [(r, k)] } },
    bankAt := fun k => if k = 0 then some .h0 else if k = 1 then some .h1 else if k = 2 then some .h2 else if k = 3 then some .h3
      else if k = 4 then some .n else if k = 5 then some .e else none }

/-- The field die. -/
def fieldOps : DieOps FieldDie :=
  { com := fun f => f.com, setCom := fun f c => { f with com := c }, event := fieldEvent, fault := fieldFault, bank := fieldBank,
    setBank := fieldSetBank, atOnce := fun r => r = 6, side := .field, record := fun f _ _ => f,
    destrOk := fun f id => match id with
      | .p0 => f.mer.store1 || !f.mer.running
      | .p1 => !f.mer.store1 || !f.mer.running
      | .x | .y | .z => !f.mer.running
      | _ => false,
    bankAt := fun k => if k = 0 then some .p0 else if k = 1 then some .p1 else if k = 2 then some .x else if k = 3 then some .y
      else if k = 4 then some .z else if k = 5 then some .f else none }

/-- A command on the integrity unit of one die. -/
def integCmd (d : Side) (fh : HostDie → HostDie) (ff : FieldDie → FieldDie) (s : State) : Host.Outcome State Fault Refusal :=
  match d with
  | .host => hostCmd fh s
  | .field => fieldCmd ff s

def execMarchGo (d : Side) (v : W32) (s : State) := integCmd d (memCtrlWrite hostOps v) (memCtrlWrite fieldOps v) s
def execMarchAbort (d : Side) (v : W32) (s : State) := integCmd d (memCtrlWrite hostOps v) (memCtrlWrite fieldOps v) s
def execMarchDone (d : Side) (bank : Nat) (rows : List Nat) (s : State) := integCmd d (marchDone hostOps bank rows) (marchDone fieldOps bank rows) s
def execRepairRequest (d : Side) (v : W32) (s : State) := integCmd d (memRepairWrite hostOps v) (memRepairWrite fieldOps v) s
def execRepairStart (d : Side) (bank row : Nat) (s : State) := integCmd d (repairStart hostOps bank row) (repairStart fieldOps bank row) s
def execRepairCopyDone (d : Side) (bad : Bool) (s : State) := integCmd d (repairCopyDone hostOps bad) (repairCopyDone fieldOps bad) s
def execEccWriteback (b : BankId) (c : Nat) (s : State) :=
  match b with
  | .h0 | .h1 | .h2 | .h3 | .n | .e => hostCmd (eccWriteback hostOps b c) s
  | .f | .p0 | .p1 | .x | .y | .z => fieldCmd (eccWriteback fieldOps b c) s

end Sys2Proof.Machine
end

