-- ==== Sys2Proof/Machine/WeirOps.lean ====
section
/-! DEFINITION. The Weir (R9 to R29): messages sent and received, credits, audits, lanes, bring-up, on both sides. -/

namespace Sys2Proof.Machine

/-- A change of the Weir bridge of one die that runs. -/
def onWeir (d : Side) (f : Weir → Weir) (ds : Dies) : Dies := onCom d (fun c => { c with weir := f c.weir }) ds

/-- The Weir bridge of one die. -/
def weirOf (d : Side) (ds : Dies) : Weir := (comOf d ds).weir

/-- A message put on the lanes in use, whole and uninterrupted (R15). -/
def wEmit (w : Weir) (m : WMsg) : Weir := { w with out := m :: w.out, line := wFrame (wLanes w.txLaneOk w.txSpareFor) m }

/-- A message whose start character goes out now (R15, R16, R20): its SEQ, and its credit where the class is credited. -/
def wSend (w : Weir) (m : WMsg) : Weir :=
  match wClassOf m.type with
  | none => wEmit { w with seqNone := (w.seqNone + 1) % 256 } { m with seq := w.seqNone }
  | some k =>
    wEmit { w with seq := w.seq.set k ((w.seq.get k + 1) % 256), sent := w.sent.set k ((w.sent.get k + 1) % 65536) } { m with seq := w.seq.get k }

/-- The place of a type in the order of transmission (R20). -/
def wPrio (type : Nat) : Nat :=
  match wClassOf type with
  | none => 0
  | some k => wClassNo k + 1

/-- A message that may start now (R21, R25): a credited one needs a credit and a class that no RESYNC has stopped. -/
def wReadyMsg (w : Weir) (m : WMsg) : Bool :=
  match wClassOf m.type with
  | none => true
  | some k => decide (0 < wFree w k) && !w.stopped.contains k

/-- The message that starts at a message boundary (R21): the highest priority, the oldest first. -/
def wNext (w : Weir) : Option WMsg :=
  let rs := w.queue.filter (wReadyMsg w)
  match (List.range 5).find? (fun p => rs.any (fun m => decide (wPrio m.type = p))) with
  | some p => rs.find? (fun m => decide (wPrio m.type = p))
  | none => none

/-- A queue without its first entry equal to `m`. -/
def wTake (q : List WMsg) (m : WMsg) : List WMsg :=
  match q with
  | [] => []
  | x :: xs => if x = m then xs else x :: wTake xs m

/-- WEIR_MESSAGE_SENT (R21). -/
def messageSent (w : Weir) : Weir :=
  if wEnabled w && w.linkUp then
    match wNext w with
    | some m => wSend { w with queue := wTake w.queue m } m
    | none => w
  else w

/-- HEARTBEAT_SEND (R23, R26): sent while ENABLE is 1 and the lanes are trained; each failed lane is reported once, one in a message. -/
def heartbeatSend (w : Weir) : Weir :=
  if wEnabled w && (w.linkUp || w.bringUp) then { wSend w (heartbeatMsg w) with laneReports := w.laneReports.drop 1 } else w

/-- AUDIT_SEND (R24). -/
def auditSend (w : Weir) : Weir := if wEnabled w && w.linkUp then wSend w (auditMsg w 0 0) else w

/-- A write of WEIR_CTRL (R24, R41): ENABLE 0 returns the queue ABORTED and stops HEARTBEATs. -/
def weirCtrlWrite (v : W32) (w : Weir) : Weir :=
  let p := fld v 11 8
  let v' := if 4 ≤ p ∧ p ≤ 12 then v else setFld v 11 8 (fld w.ctrl 11 8)
  let w := { w with ctrl := v' &&& 0x00000F03 }
  let w := if bit v 2 ∧ w.linkUp then { w with queue := w.queue ++ [auditMsg w 0 0] } else w
  if bit v 0 then w
  else { w with queue := [], aborted := w.queue.reverse ++ w.aborted, linkUp := false, bringUp := false }

/-- The credits lost on the way to this receiver return (R24), or the class is to be resynchronised (R25). The manual does not say what an AUDIT does
to a class that is being resynchronised, nor that a lost RESYNC or RESYNC_ACK is repeated: the model leaves the class alone until its RESYNC_ACK
comes, and sends no second RESYNC (the model's choice, log entry 59). -/
def auditClass (w : Weir) (sent : PerClass) (k : WClass) : Weir :=
  let d := (sent.get k + 65536 - w.acct.get k) % 65536
  if d = 0 ∨ w.syncing.contains k then w
  else if d < 32768 then
    { w with acct := w.acct.set k (sent.get k), rel := w.rel.set k ((w.rel.get k + d) % 65536), cnt := ctrAdd w.cnt 4 d }
  else
    { w with syncing := w.syncing ++ [k], cnt := ctrAdd w.cnt 5 1, queue := w.queue ++ [auditMsg w 1 (wClassNo k)] }

/-- AUDIT, RESYNC and RESYNC_ACK as received (R24, R25), by the operation of word 0. -/
def auditTake (w : Weir) (ws : List W32) : Weir :=
  let op := fld (wAt ws 0) 1 0
  let k := wClassAt (fld (wAt ws 0) 5 4)
  let sent := countsOf (wAt ws 1) (wAt ws 2)
  if op = 0 then [WClass.s, .c, .m, .i].foldl (fun w k => auditClass w sent k) w
  else if op = 1 then
    if w.stopped.contains k then w else { w with stopped := w.stopped ++ [k], cnt := ctrAdd w.cnt 5 1 }
  else if op = 2 then
    if w.syncing.contains k then
      { w with held := w.held.set k 0, acct := w.acct.set k (sent.get k), rel := w.rel.set k (sent.get k),
               syncing := w.syncing.filter (· ≠ k) }
    else w
  else w

/-- RESYNC_ACK_SEND (R25 step 2): the last message of the class has finished. -/
def resyncAckSend (k : WClass) (w : Weir) : Weir :=
  if w.stopped.contains k ∧ w.acked.contains k = false then
    { wSend w (auditMsg w 2 (wClassNo k)) with acked := w.acked ++ [k] }
  else w

/-- A reception by one side that runs with its Weir enabled (R19, R24); `act` follows an accepted message. -/
def rxCom (d : Side) (type : Nat) (m : WRx) (formOk : Bool) (act : Dies → Dies) (ds : Dies) : Dies :=
  let c := comOf d ds
  if c.runs && wEnabled c.weir then
    let r := wReceive c.weir d type m formOk
    let ds := onCom d (fun c => { c with weir := r.1 }) ds
    if r.2 then act ds else ds
  else ds

/-- A reception by the host side. -/
def rxHost (type : Nat) (m : WRx) (formOk : Bool) (rx : Side) (act : HostDie → HostDie) (ds : Dies) : Dies :=
  rxCom rx type m formOk (fun ds => if rx = .host then onHost act ds else ds) ds

/-- A reception by the field side. -/
def rxField (type : Nat) (m : WRx) (formOk : Bool) (rx : Side) (act : FieldDie → FieldDie) (ds : Dies) : Dies :=
  rxCom rx type m formOk (fun ds => if rx = .field then onField act ds else ds) ds

/-- A spare lane of the direction that a die transmits, taken (R420): resource 0Dh on the host die, 0Eh on the field die. -/
def laneUsed (d : Side) (ds : Dies) : Dies :=
  match d with
  | .host => onHost (fun h => takeSpare hostOps h ⟨13, 0⟩) ds
  | .field => onField (fun f => takeSpare fieldOps f ⟨14, 0⟩) ds

/-- A lane switch that finds no spare (R421). -/
def laneOut (d : Side) (ds : Dies) : Dies :=
  match d with
  | .host => onHost (fun h => ledOut hostOps h ⟨13, 0⟩) ds
  | .field => onField (fun f => ledOut fieldOps f ⟨14, 0⟩) ds

/-- The far side declared absent (R13): the queue returns ABORTED. -/
def farGone (w : Weir) : Weir := { w with farPresent := false, queue := [], aborted := w.queue.reverse ++ w.aborted }

/-- A direction with fewer than three lanes has failed (R27): both sides act as for an absent far side until the next bring-up. -/
def dirFailed (ds : Dies) : Dies :=
  let gone := fun (w : Weir) => farGone { w with failed := true }
  onWeir .host gone (onWeir .field gone ds)

/-- A lane of the direction this side transmits reported failed by HEARTBEAT code `c` (R23, R26, R27). -/
def txLaneLost (d : Side) (c : Nat) (ds : Dies) : Dies :=
  let w := weirOf d ds
  if c = 0 ∨ 6 ≤ c then ds
  else if c = 5 then
    let ds := onWeir d (fun w => { w with txLaneOk := w.txLaneOk % 16, txSpareFor := 4, txSpareUsed := true, spareWait := none }) ds
    if w.txSpareUsed then ds else laneUsed d ds
  else
    let lane := c - 1
    let ok := if w.txLaneOk.testBit lane then w.txLaneOk - 2 ^ lane else w.txLaneOk
    let asks := bit w.ctrl 1 && w.txLaneOk.testBit lane
    let spare := !w.txSpareUsed && w.txLaneOk.testBit 4 && w.spareWait.isNone
    let ds := onWeir d (fun w => { w with txLaneOk := ok, spareWait := if asks && spare then some lane else w.spareWait }) ds
    if asks && !spare then laneOut d ds else ds

/-- HEARTBEAT (R13, R23, R25, R26). -/
def heartbeatRx (rx : Side) (m : WRx) (ds : Dies) : Dies :=
  rxCom rx 13 m true (fun ds =>
    let far := countsOf (wAt m.payload 0) (wAt m.payload 1)
    let ds := onWeir rx (fun w =>
      let w := { w with farPresent := !w.failed, farRel := far }
      let back := w.acked.filter (fun k => decide (far.get k = w.sent.get k))
      { w with stopped := w.stopped.filter (fun k => !back.contains k), acked := w.acked.filter (fun k => !back.contains k) }) ds
    txLaneLost rx (fld (wAt m.payload 2) 3 1) ds) ds

/-- AUDIT, RESYNC, RESYNC_ACK received. -/
def auditRx (rx : Side) (m : WRx) (ds : Dies) : Dies :=
  rxCom rx 12 m true (onWeir rx (fun w => auditTake w m.payload)) ds

/-- LANE_FAILED (R26, R27): the receiver `rx` declares a lane, 4 the spare, failed and reports it. The direction runs on three lanes from then on unless
the spare comes for the one lane that is out. -/
def laneFailed (rx : Side) (lane : Nat) (ds : Dies) : Dies :=
  if 4 < lane ∨ (comOf rx ds).runs = false then ds
  else
    let tx := weirOf (Side.other rx) ds
    let w := weirOf rx ds
    let ok := if w.rxLaneOk.testBit lane then w.rxLaneOk - 2 ^ lane else w.rxLaneOk
    let spareFor := if lane = 4 then 4 else w.rxSpareFor
    let coming := bit tx.ctrl 1 && !tx.txSpareUsed && decide (spareFor = 4) && ok.testBit 4
    let lanes := activeLanes ok spareFor + b2n coming
    let ds := onWeir rx (fun w =>
      { w with rxLaneOk := ok, laneReports := w.laneReports ++ [lane + 1], rxSpareFor := spareFor, degraded := w.degraded || decide (lanes < 4) }) ds
    if lanes < 3 then dirFailed ds else ds

/-- SPARE_SWITCH (R26): the spare is trained and carries the failed lane; the AUDIT goes out before any other message. -/
def spareSwitch (d : Side) (ds : Dies) : Dies :=
  let w := weirOf d ds
  match w.spareWait with
  | none => ds
  | some lane =>
    if (comOf d ds).runs = false then ds
    else
      let ds := onWeir d (fun w => auditSend { w with txSpareFor := lane, txSpareUsed := true, spareWait := none }) ds
      let ds := onWeir (Side.other d) (fun w => { w with rxSpareFor := lane }) ds
      laneUsed d ds

/-- The lanes of a direction as trained (R29): a lane that the spare replaces stays out of use, and so does a spare that failed. -/
def trained (spareFor : Nat) (spareDead : Bool) : Nat := 31 - (if spareFor < 4 then 2 ^ spareFor else 0) - (if spareDead then 16 else 0)

/-- A bridge at the start of INIT (R29): counts and credits of every class at their initial values. -/
def wInit (w far : Weir) (field : Bool) : Weir :=
  { w with linkUp := false, bringUp := true, tickLock := false, tickCal := field, sent := .zero, farRel := .zero, acct := .zero,
           rel := .zero, held := .zero, stopped := [], acked := [], syncing := [], seq := .zero, seqNone := 0,
           txLaneOk := trained w.txSpareFor (w.txSpareUsed && decide (w.txSpareFor = 4)),
           rxLaneOk := trained far.txSpareFor (far.txSpareUsed && decide (far.txSpareFor = 4)), rxSpareFor := far.txSpareFor,
           degraded := false, failed := false, laneReports := [], spareWait := none }

/-- Both sides run with ENABLE 1. -/
def bothReady (ds : Dies) : Bool :=
  ds.host.com.runs && ds.field.com.runs && wEnabled ds.host.com.weir && wEnabled ds.field.com.weir

/-- WEIR_BRING_UP. -/
def weirBringUp (ds : Dies) : Dies :=
  if bothReady ds then
    onWeir .field (fun w => wInit w ds.host.com.weir true) (onWeir .host (fun w => wInit w ds.field.com.weir false) ds)
  else ds

/-- WEIR_LINK_UP: full credits both ways, and the TIME_MARK that follows every bring-up (R28). The field die has the host die's lifecycle from then on
(R341; log entry 18). -/
def weirLinkUp (ds : Dies) : Dies :=
  if bothReady ds && ds.host.com.weir.bringUp && ds.field.com.weir.bringUp then
    let up := fun (w : Weir) => { w with linkUp := true, bringUp := false, farPresent := !w.failed }
    onField (fun f => { f with lcHost := max f.lcHost (lcOf ds.host.com.fuses) })
      (onHost (fun h => { h with dt := { h.dt with markDue := true } }) (onWeir .field up (onWeir .host up ds)))
  else ds

/-- COMMON_MODE_TRANSIENT (R12): corrupted characters spoil one message, which is dropped and counted; a displaced tick edge is the next
TICK_EDGE's own operand. -/
def commonMode (rx : Side) (corrupt : Bool) (ds : Dies) : Dies :=
  if corrupt then onWeir rx (fun w => { w with cnt := ctrAdd w.cnt 0 1 }) ds else ds

/-- WEIR_STAT (R13, R26 to R29). -/
def weirStat (w : Weir) (d : Side) : W32 :=
  w32 (w.txSpareFor * 2 ^ 17 + w.txLaneOk % 32 * 2 ^ 12 + w.rxSpareFor * 2 ^ 9 + w.rxLaneOk % 32 * 2 ^ 4 +
    8 * b2n (w.tickLock && decide (d = .field)) + 4 * b2n w.degraded + 2 * b2n w.linkUp + b2n w.farPresent)

/-- WEIR_CREDIT (R23). -/
def weirCredit (w : Weir) : W32 :=
  w32 (wFree w .i % 8 * 2 ^ 13 + wFree w .m % 32 * 2 ^ 8 + wFree w .c % 32 * 2 ^ 3 + wFree w .s % 8)

def execWeirBringUp (s : State) := ansHeard s weirBringUp
def execWeirLinkUp (s : State) := ansHeard s weirLinkUp
def execWeirEnableWrite (d : Side) (v : W32) (s : State) := ans s (onWeir d (weirCtrlWrite v))
def execAuditNow (d : Side) (v : W32) (s : State) := ans s (onWeir d (weirCtrlWrite v))
def execHeartbeatSend (d : Side) (s : State) := ans s (onWeir d heartbeatSend)
def execHeartbeat (rx : Side) (m : WRx) (s : State) := ansHeard s (heartbeatRx rx m)
def execFarSideAbsent (d : Side) (s : State) := ansHeard s (onWeir d farGone)
def execWeirMessageSent (d : Side) (s : State) := ans s (onWeir d messageSent)
def execBufferRelease (d : Side) (k : WClass) (s : State) := ans s (onWeir d (fun w => wRelease w k))
def execAuditSend (d : Side) (s : State) := ans s (onWeir d auditSend)
def execAuditMsg (rx : Side) (m : WRx) (s : State) := ans s (auditRx rx m)
def execResync (rx : Side) (m : WRx) (s : State) := ans s (auditRx rx m)
def execResyncAckSend (d : Side) (k : WClass) (s : State) := ans s (onWeir d (resyncAckSend k))
def execResyncAck (rx : Side) (m : WRx) (s : State) := ans s (auditRx rx m)
def execLaneFailed (rx : Side) (lane : Nat) (s : State) := ansHeard s (laneFailed rx lane)
def execSpareSwitch (d : Side) (s : State) := ans s (spareSwitch d)
def execCommonModeTransient (rx : Side) (corrupt : Bool) (_shift : Int) (s : State) := ans s (commonMode rx corrupt)
def execWeirReservedType (rx : Side) (top : Bool) (m : WRx) (s : State) := ans s (rxCom rx (if top then 15 else 14) m true id)

end Sys2Proof.Machine
end

