-- ==== Sys2Proof/Machine/SppOps.lean ====
section
/-! DEFINITION. The serial ports (R389 to R402): descriptors run as frames, execute-in-place, SPP1 as a slave, and the commands of
the DMA queues. -/

namespace Sys2Proof.Machine

/-- The source bytes of an SPP entry in aligned blocks of 16; a read that fails or waits ends it with the bytes read before it. -/
def sppSource (src len : Nat) : Nat → HostDie → List Byte → HostDie × List Byte × Option BusRes
  | 0, h, acc => (h, acc, none)
  | f + 1, h, acc =>
    if len ≤ acc.length then (h, acc, none)
    else
      let a := src + acc.length
      let n := min ((a / 16 + 1) * 16 - a) (len - acc.length)
      match hostBusRd h a n with
      | (h, .ok bs) => sppSource src len f h (acc ++ bs)
      | (h, .err k) => (h, acc, some (.err k))
      | (h, .wait) => (h, acc, some .wait)

/-- Received bytes stored in aligned blocks of 16; the number written, and whether every write was made. -/
def sppStore : Nat → HostDie → Nat → List Byte → Nat → HostDie × Nat × Bool
  | 0, h, _, _, done => (h, done, true)
  | f + 1, h, a, bs, done =>
    if bs = [] then (h, done, true)
    else
      let n := (a / 16 + 1) * 16 - a
      match hostBusWr h a (bs.take n) with
      | (h, true) => sppStore f h (a + n) (bs.drop n) (done + (bs.take n).length)
      | (h, false) => (h, done, false)

/-- The frames of an entry (R392): one with CONT, one for each word without it. -/
def entryFrames (fmt : W32) (cmd : Nat) (addr : W32) (mode : Nat) (data : List Byte) : Nat → List SppFrame
  | 0 => []
  | k + 1 =>
    let cs := fld fmt 22 21
    if bit fmt 23 then [⟨cs, fmt, cmd, addr, mode, data⟩]
    else
      let n := fld fmt 26 25 + 1
      if data = [] then [] else ⟨cs, fmt, cmd, addr, mode, data.take n⟩ :: entryFrames fmt cmd addr mode (data.drop n) k

/-- The SPP descriptor in progress run whole on its port (R390 to R395); `rx` is what the device drives in the data phase. -/
def sppRun (h : HostDie) (n x : Nat) (ws : List W32) (rx : List Byte) : HostDie :=
  let fmt := wAt ws 6
  let len := fld (wAt ws 1) 23 0
  let p := sppPort h x
  let cs := fld fmt 22 21
  if p.keep.isSome ∧ p.keep ≠ some cs then dmaEnd hostDma (setSpp h x { p with keep := none, active := false }) n 4 0
  else
    let h := if x = 0 ∧ xipOn h ∧ cs = xipCs h then xipExit h else h
    let p := sppPort h x
    let sends := bit fmt 17 || bit fmt 18
    let takes := !bit fmt 17 || bit fmt 18
    match (if sends then sppSource (wAt ws 2).toNat len 1048577 h [] else (h, [], none)) with
    | (_, _, some .wait) => h
    | (h, bs, some (.err k)) => dmaEnd hostDma (setSpp h x { p with keep := none, active := false }) n k bs.length
    | (h, bs, _) =>
      let out := if sends then bs else List.replicate len 0
      let fs := entryFrames fmt (fld (wAt ws 4) 15 0) (wAt ws 5) (fld (wAt ws 4) 23 16) out 16777216
      let fs := if sends then fs else fs.map (fun f => { f with data := [] })
      let h := setSpp h x { p with frames := fs.reverse ++ p.frames, keep := if bit fmt 24 then some cs else none, active := bit fmt 24 }
      if takes then
        match sppStore 1048577 h (wAt ws 3).toNat (fixLen len rx) 0 with
        | (h, done, true) => dmaEnd hostDma h n 0 done
        | (h, done, false) => dmaEnd hostDma h n 2 done
      else dmaEnd hostDma h n 0 len

/-- DMA_SPP: the entry waits for an idle select with MM 1, returns ABORTED where the port does not run as a master, BADOP where its queue is
bound to no port any more (R389), and otherwise runs. -/
def dmaSpp (n : Nat) (rx : List Byte) (h : HostDie) : HostDie :=
  match (dmaQ h.com.dma n).cur with
  | none => h
  | some c =>
    if fld (wAt c.words 0) 7 0 ≠ 3 ∨ dmaGranted h.com.dma 48 ≠ some n then h
    else match sppBound h n with
      | none => dmaEnd hostDma h n 4 0
      | some x =>
        let p := sppPort h x
        if bit p.ctl 0 = false ∨ sppSlave h x then dmaEnd hostDma h n 1 0
        else if p.stopped then h
        else if bit p.ctl 2 ∧ p.active = false then setSpp h x { p with waitSel := true }
        else sppRun h n x c.words rx

/-- The SPP entry in progress on a port's queue returned (R392, R393, R396). -/
def sppReturn (h : HostDie) (x code : Nat) : HostDie :=
  let n := fld (sppPort h x).ctl 21 16
  match (dmaQ h.com.dma n).cur with
  | some c => if n < 48 ∧ fld (wAt c.words 0) 7 0 = 3 then dmaEnd hostDma h n code 0 else h
  | none => h

/-- A write of SPP_CTLx (R389, R392, R396). -/
def sppCtlWrite (x : Nat) (v : W32) (h : HostDie) : HostDie :=
  if 2 ≤ x then h
  else
    let p := sppPort h x
    let q := fld v 21 16
    let other := fld (sppPort h (1 - x)).ctl 21 16
    let clash := decide (q < 48) && decide (q = other)
    let v := if fld v 31 24 < 4 then setFld v 31 24 (fld p.ctl 31 24) else v
    let v := if clash ∨ (48 ≤ q ∧ q ≠ 63) then setFld v 21 16 (fld p.ctl 21 16) else v
    let ctl := v &&& (if x = 0 then 0xFF3F001D else 0xFF3F000F)
    let stops := bit ctl 0 = false ∨ (x = 1 ∧ bit ctl 1)
    let h := if stops then sppReturn h x 1 else h
    let p := sppPort h x
    let p := { p with ctl := ctl, refused := p.refused || clash }
    let h := setSpp h x (if stops then { p with keep := none, active := false, waitSel := false } else p)
    if x = 1 then { h with spp := { h.spp with busy := !slaveOn h, op := if slaveOn h then h.spp.op else .idle } } else h

/-- SPP_SELECT_LOST (R393): with MM 1 and a frame owned. The entry is one step of the model, so no data byte has gone (log entry 30). -/
def sppSelectLost (x : Nat) (h : HostDie) : HostDie :=
  let p := sppPort h x
  if x < 2 ∧ bit p.ctl 2 ∧ (p.active ∨ p.keep.isSome) then
    sppReturn (setSpp h x { p with mmFault := true, stopped := true, active := false, keep := none, waitSel := false }) x 5
  else h

/-- SPP_SELECT_IDLE (R393). -/
def sppSelectIdle (x : Nat) (h : HostDie) : HostDie :=
  let p := sppPort h x
  if x < 2 ∧ bit p.ctl 2 ∧ p.waitSel ∧ p.stopped = false then setSpp h x { p with waitSel := false, active := true } else h

/-- A write of SPP_STATx: MM_FAULT cleared clears STOPPED. -/
def sppStatWrite (x : Nat) (v : W32) (h : HostDie) : HostDie :=
  let p := sppPort h x
  setSpp h x { p with refused := p.refused && !bit v 5, mmFault := p.mmFault && !bit v 4, stopped := p.stopped && !bit v 4 }

/-- SPP_STATx. -/
def sppStat (p : Spp) (x : Nat) : W32 :=
  w32 (32 * b2n p.refused + 16 * b2n p.mmFault + 8 * b2n p.stopped + 4 * b2n p.waitSel + 2 * b2n (p.modeOn && decide (x = 0)) + b2n p.active)

/-! ### Execute in place -/

/-- XIP_READ (R394): served from the buffer of four lines, or by a miss; a KEEP chain delays a miss. -/
def xipRead (off : BitVec 28) (h : HostDie) : HostDie :=
  let put := fun (h : HostDie) (b : Option Byte) => { h with spp := { h.spp with xipOut := b :: h.spp.xipOut } }
  if xipOn h = false then put h none
  else match xipServe (off.toNat / 64) h with
    | (h, .ok l) => put h (some (byAt l (off.toNat % 64)))
    | (h, .err _) => put h none
    | (h, .wait) => h

/-- A write of XIP_MODE (R394, R395): XIP_EN cleared sends the exit frame and empties the buffer. -/
def xipModeWrite (v : W32) (h : HostDie) : HostDie :=
  let h := if xipOn h && !bit v 31 then
      let h := xipExit h
      { h with spp := { h.spp with lines := [], lastMiss := none } }
    else h
  { h with spp := { h.spp with xipMode := v &&& 0x8300FFFF } }

/-- A write of XIP_CFG: refused while XIP_EN is 1. -/
def xipCfgWrite (v : W32) (h : HostDie) : HostDie :=
  if xipOn h then { h with spp := { h.spp with p0 := { h.spp.p0 with refused := true } } } else { h with spp := { h.spp with xipCfg := v } }

/-! ### SPP1 as a slave -/

/-- SSTAT with READY, the flags and IRQ (R401). -/
def slaveStat (h : HostDie) : W32 := w32 (h.spp.sstat % 64 + 64 * b2n (decide (h.spp.dbOut ≠ 0)))

/-- A slave register as either master reads it. -/
def slaveGet (h : HostDie) (a : Nat) : W32 :=
  match a with
  | 0 => 0x4E412820
  | 1 => slaveStat h
  | 2 => w32 h.spp.uaddr
  | 3 => h.spp.dbIn
  | 4 => h.spp.dbOut
  | 5 => w32 h.spp.reqP
  | 6 => w32 h.spp.reqC
  | 7 => w32 h.spp.rspP
  | 8 => w32 h.spp.rspC
  | _ => 0

/-- Flags of SSTAT cleared by ones (R399). -/
def statClear (n : Nat) (v : W32) : Nat := n - ((n &&& fld v 5 0) &&& 62)

/-- Blocked responses that now find room (R402). -/
def ringDrain : Nat → HostDie → HostDie
  | 0, h => h
  | k + 1, h =>
    match h.spp.rspWait with
    | [] => h
    | m :: ms =>
      let r := ringPost h m
      if r.2 then
        ringDrain k { r.1 with spp := { r.1.spp with rspWait := ms }, leg := { r.1.leg with out := m :: r.1.leg.out } }
      else h

/-- A write of a slave register by the external master (R401, R402). -/
def slavePut (h : HostDie) (a : Nat) (v : W32) : HostDie :=
  let s := h.spp
  match a with
  | 1 => { h with spp := { s with sstat := statClear s.sstat v } }
  | 3 => { h with spp := { s with dbIn := s.dbIn ||| v } }
  | 4 => { h with spp := { s with dbOut := s.dbOut &&& ~~~ v } }
  | 5 =>
    if 32 < (fld v 7 0 + 256 - s.reqC) % 256 then { h with spp := { s with sstat := s.sstat ||| 4 } }
    else { h with spp := { s with reqP := fld v 7 0 } }
  | 8 => ringDrain 64 { h with spp := { s with rspC := fld v 7 0 } }
  | _ => h

/-- A write of the host mirror of a slave register. -/
def slaveHostPut (h : HostDie) (a : Nat) (v : W32) : HostDie :=
  let s := h.spp
  match a with
  | 1 => { h with spp := { s with sstat := statClear s.sstat v / 2 * 2 + fld v 0 0 } }
  | 3 => { h with spp := { s with dbIn := s.dbIn &&& ~~~ v } }
  | 4 => { h with spp := { s with dbOut := s.dbOut ||| v } }
  | 6 => { h with spp := { s with reqC := fld v 7 0 } }
  | 7 => { h with spp := { s with rspP := fld v 7 0 } }
  | _ => h

/-- A transaction of the slave begins: SPP1 is a slave that runs, and the last transaction has ended. -/
def slaveIdle (h : HostDie) : Bool := slaveOn h && decide (h.spp.op = .idle)

/-- A word of a read that comes too late (R398): the last word sent again, or FFFF_FFFFh; UADDR has the address of the first one. -/
def lateWord (h : HostDie) (a : Nat) : HostDie :=
  let u := if h.spp.sstat.testBit 1 then h.spp.uaddr else a
  { h with spp := { h.spp with sstat := h.spp.sstat ||| 2, uaddr := u, sent := h.spp.sent ++ [h.spp.sent.getLast?.getD 0xFFFFFFFF] } }

/-- SLAVE_REG_READ (R397, R398): the address advances by 1 after each word; `late` names words by number. -/
def slaveRegRead (a : BitVec 6) (words : Nat) (late : List Nat) (h : HostDie) : HostDie :=
  if slaveIdle h then
    let h := { h with spp := { h.spp with op := .regRead, stByte := w32 ((slaveStat h).toNat % 256), sent := [] } }
    (List.range words).foldl (fun h k =>
      let r := (a.toNat + k) % 64
      if late.contains k then lateWord h r else { h with spp := { h.spp with sent := h.spp.sent ++ [slaveGet h r] } }) h
  else h

/-- SLAVE_REG_WRITE (R397, R398): the address advances by 1 after each word; a word that finds the buffer full is discarded. -/
def slaveRegWrite (a : BitVec 6) (data : List W32) (full : List Nat) (h : HostDie) : HostDie :=
  if slaveIdle h then
    let h := { h with spp := { h.spp with op := .regWrite } }
    (data.foldl (fun (p : HostDie × Nat) v =>
      (if full.contains p.2 then { p.1 with spp := { p.1.spp with sstat := p.1.spp.sstat ||| 4 } } else slavePut p.1 ((a.toNat + p.2) % 64) v, p.2 + 1)) (h, 0)).1
  else h

/-- The collisions of a transaction (R400). -/
def collided (h : HostDie) (n : Nat) : HostDie :=
  if n = 0 then h
  else { h with spp := { h.spp with sstat := h.spp.sstat ||| 32, ecoll := (h.spp.ecoll + n) % 65536 } }

/-- One word of an exchange read (R398). -/
def exWordRead (h : HostDie) (a : Nat) (late : Bool) : HostDie :=
  if late then lateWord h a
  else
    let add := fun (h : HostDie) (w : W32) => { h with spp := { h.spp with sent := h.spp.sent ++ [w] } }
    match hostReadBank h .e a 4 with
    | (h, some bs) => add h (w32 (ofBytesLE bs))
    | (h, none) =>
      let d := draw h.com 110
      add { h with com := d.1 } d.2

/-- EXCHANGE_READ (R397, R398, R400): `collide` and `late` name words of the transaction by number. -/
def exchangeRead (a : BitVec 16) (words : Nat) (collide late : List Nat) (h : HostDie) : HostDie :=
  if slaveIdle h then
    let h := { h with spp := { h.spp with op := .exRead, stByte := w32 ((slaveStat h).toNat % 256), sent := [] } }
    let h := (List.range words).foldl (fun h k => exWordRead h ((a.toNat / 4 * 4 + 4 * k) % 65536) (late.contains k)) h
    collided h ((List.range words).filter (fun k => collide.contains k)).length
  else h

/-- EXCHANGE_WRITE (R397, R398, R400): a word that finds the buffer full is discarded. -/
def exchangeWrite (a : BitVec 16) (data : List W32) (collide full : List Nat) (h : HostDie) : HostDie :=
  if slaveIdle h then
    let h := { h with spp := { h.spp with op := .exWrite } }
    let h := (data.foldl (fun (p : HostDie × Nat) v =>
      let h := if full.contains p.2 then { p.1 with spp := { p.1.spp with sstat := p.1.spp.sstat ||| 4 } }
        else hostWriteBank p.1 .e ((a.toNat / 4 * 4 + 4 * p.2) % 65536) (bytesLE 4 v.toNat)
      (h, p.2 + 1)) (h, 0)).1
    collided h ((List.range data.length).filter (fun k => collide.contains k)).length
  else h

/-- Bits of a transaction before its data words (R397). -/
def slaveHeader : SlaveOp → Nat
  | .idle => 0
  | .regRead => 16
  | .regWrite => 8
  | .exRead => 32
  | .exWrite => 24

/-- SLAVE_CS_RELEASE (R399): `bits` is the length of the transaction. -/
def slaveCsRelease (bits : Nat) (h : HostDie) : HostDie :=
  if slaveOn h = false then h
  else
    let k := slaveHeader h.spp.op
    let clean := if h.spp.op = .idle then decide (bits = 0) else decide (k ≤ bits) && decide ((bits - k) % 32 = 0)
    let st := h.spp.sstat ||| (if clean then 0 else 8) ||| (if bits % 8 = 0 then 0 else 16)
    { h with spp := { h.spp with op := .idle, sstat := st, aborts := if clean then h.spp.aborts else (h.spp.aborts + 1) % 65536 } }

/-- RESPONSE_DROP (R402). -/
def responseDrop (h : HostDie) : HostDie := { h with spp := { h.spp with rspWait := h.spp.rspWait.drop 1 } }

def execDmaSpp (n : Nat) (rx : List Byte) (s : State) := hostCmd (dmaSpp n rx) s
def execSppEnWrite (x : Nat) (v : W32) (s : State) := hostCmd (sppCtlWrite x v) s
def execSppSelectLost (x : Nat) (s : State) := hostCmd (sppSelectLost x) s
def execSppSelectIdle (x : Nat) (s : State) := hostCmd (sppSelectIdle x) s
def execXipRead (off : BitVec 28) (s : State) := hostCmd (xipRead off) s
def execXipEnWrite (v : W32) (s : State) := hostCmd (xipModeWrite v) s
def execSlaveRegRead (a : BitVec 6) (words : RegBeats) (s : State) := hostCmd (slaveRegRead a words.words words.late) s
def execExchangeRead (a : BitVec 16) (words : Nat) (collide late : List Nat) (s : State) := hostCmd (exchangeRead a words collide late) s
def execExchangeWrite (a : BitVec 16) (data : List W32) (collide full : List Nat) (s : State) :=
  hostCmd (exchangeWrite a data collide full) s
def execSlaveCsRelease (bits : Nat) (s : State) := hostCmd (slaveCsRelease bits) s
def execResponseDrop (s : State) := hostCmd responseDrop s

end Sys2Proof.Machine
end

