-- ==== Sys2Proof/Machine/BootOps.lean ====
section
/-! DEFINITION. Lifecycle, tokens, keys, images, measurements, flash (R341 to R376). -/

namespace Sys2Proof.Machine

/-! ### Lifecycle and tokens -/

/-- The first `n` lifecycle bits blown in every copy. -/
def lcBlow (f : Fuses) (n : Nat) : Fuses := { f with lc := (List.range 4).map (fun i => if i < n then 3 else f.lc.getD i 0) }

/-- The lifecycle in force on each die (R341): the higher of both. -/
def lcHost (h : HostDie) : Nat := max (lcOf h.com.fuses) h.boot.lcField
def lcFieldIn (f : FieldDie) : Nat := max (lcOf f.com.fuses) f.lcHost

/-- The test ports are open in a lifecycle (R342). -/
def lcOpen (lc : Nat) : Bool := lc = 0 || lc = 1 || lc = 3

/-- The root key of the host die (R346, R363): every fuse of it is blown once wiped. -/
def rootKeyOf (f : Fuses) : List Byte := if f.wiped then List.replicate 48 0xFF else Config.rootKey

/-- The device key of the field die. -/
def fieldKeyOf (f : Fuses) : List Byte := if f.wiped then List.replicate 48 0xFF else Config.fieldKey

/-- A key slot that is programmed and not revoked (R348). -/
def slotLive (f : Fuses) (k : Nat) : Bool := decide (k < 4) && f.programmed.testBit k && !f.revoked.testBit k

/-- The slots that are programmed and not revoked. -/
def liveSlots (f : Fuses) : List Nat := (List.range 4).filter (slotLive f)

/-- The checks of R344 but for the challenge. -/
def tokenBase (f : Fuses) (t : List Byte) : Bool :=
  let pub := Config.ecExpand (slice t 76 49)
  decide (t.length = 224) && decide (beAt t 4 8 = f.udn.toNat) && slotLive f (beAt t 2 1) &&
    decide (Config.sha384 pub = tget [] f.digests (beAt t 2 1)) && Config.ecdsaOk pub (slice t 128 96) (t.take 128)

/-- The CHALLENGE of a token is the value most recently read, not used before; `late`: its 60 s are past (R344). -/
def chalOk (issued used : List Byte) (late : Bool) (t : List Byte) : Bool :=
  !late && decide (issued ≠ []) && decide (slice t 12 16 = issued) && decide (used ≠ issued)

/-- A token accepted on the host die (R344). -/
def tokenOk (h : HostDie) (late : Bool) (t : List Byte) : Bool :=
  tokenBase h.com.fuses t && !late && decide (h.boot.chal.map (·.bytes) = some (slice t 12 16))

/-- One extend of a measurement register (R361). -/
def msPush (b : Boot) (k : Nat) (d : List Byte) : Boot :=
  { b with ms := tput [] b.ms k (Config.sha384 (fixLen 48 (tget [] b.ms k) ++ d)), msCnt := tput 0 b.msCnt k ((tget 0 b.msCnt k + 1) % 65536) }

/-- MSk as read: 48 bytes. -/
def msGet (b : Boot) (k : Nat) : List Byte := fixLen 48 (tget [] b.ms k)

/-- MS5 extended with an accepted token's bytes 0 to 127 padded to 48-byte steps (R361). -/
def msToken (b : Boot) (t : List Byte) : Boot :=
  let p := fixLen 144 (t.take 128)
  msPush (msPush (msPush b 5 (slice p 0 48)) 5 (slice p 48 48)) 5 (slice p 96 48)

/-- A token judged on the host die (R344, R361): the challenge is used up. -/
def judgeToken (h : HostDie) (late : Bool) (kind : Nat) (t : List Byte) : HostDie × Bool :=
  let ok := tokenOk h late t && decide (beAt t 0 1 = kind)
  let b := { h.boot with chal := none }
  ({ h with boot := if ok then msToken b t else b }, ok)

/-- A write from the host firmware to an entry of the field side (R316, R348): the node's own request, RID index Fh. -/
def askField (h : HostDie) (type idx sub : Nat) (data : List Byte) : HostDie :=
  let h := { h with leg := { h.leg with selfSeq := (h.leg.selfSeq + 1) % 65536 } }
  { h with com := weirQueue h.com (paramWriteMsg false (0xF000 + ownAddr h.cw) h.leg.selfSeq idx sub type 0 data) }

/-- The test port in the state that the lifecycle gives, and locked (R342, R345); LOCK holds OPEN as it is until power-on. -/
def portState (ctrl : W32) (lc : Nat) : W32 :=
  if bit ctrl 1 then ctrl else (if lcOpen lc || bit ctrl 2 then 1 else 0) ||| (ctrl &&& 4) ||| 2

/-- A write of TEST_CTRL (R345). -/
def testCtrlSet (ctrl v : W32) (lc : Nat) : W32 :=
  let may := !bit ctrl 1 && (!bit v 0 || lcOpen lc || bit ctrl 2)
  (if may then v &&& 1 else ctrl &&& 1) ||| (ctrl &&& 4) ||| (if bit v 1 then 2 else ctrl &&& 2)

/-- The test port executes every instruction, a reset among them (R32, R345); a dead one executes none (R342). -/
def portOpen (ctrl : W32) (lc : Nat) : Bool := bit ctrl 0 && decide (lc ≠ 4)

/-- A test port opened by an UNLOCK token (R342, R345); a dead one stays shut. -/
def portUnlock (ctrl : W32) (lc : Nat) : W32 := if lc = 4 then ctrl else ctrl ||| 5

/-- What an accepted UNLOCK token does on the host die (R345): its port where ARG names it, ROOT_LOCK, a record of the fault log. -/
def unlockHost (h : HostDie) (arg : Nat) : HostDie :=
  let h := if arg.testBit 0 then
      { h with com := { h.com with testCtrl := portUnlock h.com.testCtrl (lcHost h) } }
    else h
  hostFault { h with boot := { h.boot with ksCtrl := h.boot.ksCtrl ||| 4 } } 4 [w32 arg]

/-- The ports that an accepted UNLOCK token names (R345): the host's here, the field's by a write of the token across the Weir. -/
def unlockPorts (h : HostDie) (t : List Byte) : HostDie :=
  let h := unlockHost h (beAt t 1 1)
  if (beAt t 1 1).testBit 1 then askField h 0x0E 0x8000 5 t else h

/-- UNLOCK (R345): the Legend answer. -/
def unlockAct (h : HostDie) (late : Bool) (t : List Byte) : HostDie × Nat :=
  let r := judgeToken h late 1 t
  if r.2 then (unlockPorts r.1 t, 0) else (r.1, 10)

/-- TEST_TOKEN on the host die's port: a dead port executes nothing. -/
def testTokenHost (t : List Byte) (late : Bool) (h : HostDie) : HostDie :=
  if lcHost h = 4 then h
  else
    let r := judgeToken h late 1 t
    if r.2 then unlockPorts r.1 t else r.1

/-- KEY_ADD (R348): in BLANK and TRIAL a slot and a digest, in FIELD a token. -/
def keyAdd (h : HostDie) (late : Bool) (d : List Byte) : HostDie × Nat :=
  let f := h.com.fuses
  let put := fun (h : HostDie) (k : Nat) (dig : List Byte) =>
    let f' := { f with programmed := f.programmed ||| 2 ^ k, digests := tput [] f.digests k dig }
    let h := { h with com := { h.com with fuses := f' } }
    askField (ledCheck hostOps (hostFault h 5 [w32 k]) ⟨15, 0⟩) 0x0E 0x8000 7 d
  if lcHost h ≤ 1 then
    if d.length ≠ 49 ∨ 4 ≤ beAt d 0 1 ∨ f.programmed.testBit (beAt d 0 1) then (h, 6)
    else (put h (beAt d 0 1) (d.drop 1), 0)
  else if lcHost h = 2 ∧ d.length = 224 then
    let r := judgeToken h late 4 d
    if r.2 = false ∨ 4 ≤ beAt d 1 1 ∨ f.programmed.testBit (beAt d 1 1) then (r.1, 6)
    else (put r.1 (beAt d 1 1) (slice d 28 48), 0)
  else (h, 6)

/-- KEY_REVOKE (R348). -/
def keyRevoke (h : HostDie) (late : Bool) (t : List Byte) : HostDie × Nat :=
  if t.length ≠ 224 then (h, 6)
  else
    let r := judgeToken h late 5 t
    let k := beAt t 1 1
    let f := h.com.fuses
    if r.2 = false ∨ beAt t 2 1 = k ∨ slotLive f k = false ∨ liveSlots f = [k] then (r.1, 6)
    else
      let h := { r.1 with com := { r.1.com with fuses := { f with revoked := f.revoked ||| 2 ^ k } } }
      (askField (hostFault h 5 [w32 k]) 0x0E 0x8000 8 t, 0)

/-- The authority of a transition (R343): 0 none, else the token kind; `none` for a transition that does not exist. -/
def lcAuthority (src dst : Nat) : Option Nat :=
  if src = 0 ∧ dst = 1 then some 0
  else if src = 1 ∧ dst = 2 then some 0
  else if src = 2 ∧ dst = 3 then some 2
  else if dst = 4 ∧ (src = 0 ∨ src = 1 ∨ src = 3) then some 0
  else if dst = 4 ∧ src = 2 then some 3
  else none

/-- The fuses after a transition (R342, R346, R347): RETURN wipes the key before its bit is blown, and VOID holds no key. -/
def lcTake (f : Fuses) (dst : Nat) : Fuses := lcBlow (if 3 ≤ dst then { f with wiped := true } else f) dst

/-- Whether ADVANCE is answered OK, and the token judged (R343). -/
def advanceJudge (h : HostDie) (late : Bool) (d : List Byte) : HostDie × Nat :=
  let dst := beAt d 0 1
  match lcAuthority (lcHost h) dst with
  | none => (h, 5)
  | some 0 => if dst = 2 ∧ liveSlots h.com.fuses = [] then (h, 6) else (h, 0)
  | some k =>
    let r := judgeToken h late k (d.drop 1)
    (r.1, if r.2 then 0 else 10)

/-! ### Images -/

/-- A component record of a manifest (R353). -/
structure Comp where
  typ   : Nat
  flags : Nat
  first : Nat
  count : Nat
  dest  : Nat
  entry : Nat
  size  : Nat
  deriving DecidableEq, Repr

/-- A little-endian number of a byte list. -/
def leAt (bs : List Byte) (i n : Nat) : Nat := ofBytesLE (slice bs i n)

/-- NDATA, NHASH, NCOMP of a manifest (R352). -/
def manData (m : List Byte) : Nat := leAt m 24 4
def manHash (m : List Byte) : Nat := leAt m 28 2
def manComps (m : List Byte) : List Comp :=
  (List.range (leAt m 31 1)).map (fun i =>
    let b := 32 + 24 * i
    ⟨leAt m b 1, leAt m (b + 1) 1, leAt m (b + 4) 4, leAt m (b + 8) 4, leAt m (b + 12) 4, leAt m (b + 16) 4, leAt m (b + 20) 4⟩)

/-- Blocks of an image in stream order (R351). -/
def manBlocks (m : List Byte) : Nat := 1 + manHash m + manData m

/-- Places of the field bus that a BANK component may fill (R353): the bank views and the shadow tables. -/
def fieldDest (a n : Nat) : Bool :=
  (decide (0x10000000 ≤ a) && decide (a + n ≤ 0x10040000)) || (decide (0x10040000 ≤ a) && decide (a + n ≤ 0x10080000)) ||
    (decide (0x10100000 ≤ a) && decide (a + n ≤ 0x10180000)) || (decide (0x10200000 ≤ a) && decide (a + n ≤ 0x10280000)) ||
    (decide (0x10300000 ≤ a) && decide (a + n ≤ 0x10400000)) || (decide (0x2000 ≤ a) && decide (a + n ≤ 0x2800)) ||
    (decide (0x4000 ≤ a) && decide (a + n ≤ 0x6000))

/-- One component obeys R353. -/
def compOk (field : Bool) (nd : Nat) (c : Comp) : Bool :=
  decide (1 ≤ c.count) && decide (c.first + c.count ≤ nd) && decide (c.flags = 0) && decide ((c.count - 1) * 4096 + 1 ≤ c.size) &&
    decide (c.size ≤ c.count * 4096) &&
    (if field then (decide (c.typ = 0x11) && decide (c.dest + c.size ≤ 0x40000)) || (decide (c.typ = 0x12) && fieldDest c.dest c.size)
     else ((decide (c.typ = 1) || decide (c.typ = 2)) && decide (c.dest + c.size ≤ 0x200000)) ||
       ((decide (c.typ = 3) || decide (c.typ = 4)) && decide (c.dest = 0)))

/-- Two ranges have nothing in common. -/
def apart (a n b k : Nat) : Bool := decide (a + n ≤ b) || decide (b + k ≤ a)

/-- Components pairwise in disjoint blocks, and destinations apart where they are memory of one kind. -/
def compsApart : List Comp → Bool
  | [] => true
  | c :: cs =>
    cs.all (fun d => apart c.first c.count d.first d.count &&
      (decide (c.typ = 3) || decide (c.typ = 4) || decide (d.typ = 3) || decide (d.typ = 4) || (decide (c.typ = 0x11) != decide (d.typ = 0x11)) ||
        apart c.dest c.size d.dest d.size)) && compsApart cs

/-- A manifest is structurally valid for a target (R352 to R354). -/
def manOk (field : Bool) (m : List Byte) : Bool :=
  let cs := manComps m
  let n := fun (t : Nat) => (cs.filter (fun c => decide (c.typ = t))).length
  decide (m.length = 4096) && decide (leAt m 0 4 = 0x4E474D31) && decide (leAt m 4 2 = 1) &&
    decide (leAt m 8 4 = if field then 0x4E4129 else 0x4E4128) && decide (1 ≤ manData m) && decide (manData m ≤ 6071) &&
    decide (manHash m = (manData m + 84) / 85) && decide (1 ≤ cs.length) && decide (cs.length ≤ 8) &&
    cs.all (compOk field (manData m)) && compsApart cs &&
    (if field then decide (n 0x11 = 1) else decide (n 1 = 1) && decide (n 2 ≤ 1) && decide (n 3 ≤ 1))

/-- A label of R363 as its bytes. -/
def ascii (s : String) : List Byte := s.toList.map (fun c => BitVec.ofNat 8 c.toNat)

/-- IK of a die (R363). -/
def imageKey (root : List Byte) : List Byte := Config.hmac384 root (ascii "NK-IMG")

/-- The signature of a manifest is good for a die's fuses and key (R354). -/
def manSigned (f : Fuses) (root m : List Byte) : Bool :=
  let hm := (leAt m 6 2).testBit 0
  decide (hm = f.authHmac) &&
    (if hm then decide (slice m 3808 48 = Config.hmac384 (imageKey root) (m.take 3808))
     else slotLive f (leAt m 30 1) && decide (tget [] f.digests (leAt m 30 1) = Config.sha384 (slice m 3712 96)) &&
       Config.ecdsaOk (slice m 3712 96) (slice m 3808 96) (m.take 3808))

/-- Block `k` of the stream order (R351): a hash block by its number, or a data block. -/
def streamBlock (k : Nat) : Bool × Nat := if (k - 1) % 86 = 0 then (true, (k - 1) / 86) else (false, 85 * ((k - 1) / 86) + (k - 1) % 86 - 1)

/-- The place of data block `i` in stream order. -/
def streamOfData (i : Nat) : Nat := i + i / 85 + 2

/-- A block after the manifest matches its hash; `hs` is the hash block in force. -/
def blockOk (m hs : List Byte) (k : Nat) (b : List Byte) : Bool :=
  let s := streamBlock k
  let n := if s.1 then 0x80000000 + s.2 else s.2
  let want := if s.1 then slice m (256 + 48 * s.2) 48 else slice hs (48 * (s.2 % 85)) 48
  decide (b.length = 4096) && decide (Config.sha384 (bytesLE 4 n ++ b) = want)

/-- The blocks 1 to `n` of an image all match. -/
def blocksOk (m : List Byte) (blk : Nat → List Byte) : Nat → Nat → List Byte → Bool
  | 0, _, _ => true
  | f + 1, k, hs =>
    if manBlocks m ≤ k then true
    else blockOk m hs k (blk k) && blocksOk m blk f (k + 1) (if (streamBlock k).1 then blk k else hs)

/-- An image is structurally valid (R354). -/
def imageOk (field : Bool) (blk : Nat → List Byte) : Bool := manOk field (blk 0) && blocksOk (blk 0) blk 6143 1 []

/-- The bytes of a component in an image. -/
def compBytes (blk : Nat → List Byte) (c : Comp) : List Byte :=
  ((List.range c.count).flatMap (fun i => blk (streamOfData (c.first + i)))).take c.size

/-- The digest of a component (R361, R374): SHA-384 of its concatenated block hashes. -/
def compDigest (blk : Nat → List Byte) (t : Nat) : List Byte :=
  match (manComps (blk 0)).find? (fun c => decide (c.typ = t)) with
  | none => []
  | some c => Config.sha384 ((List.range c.count).flatMap (fun i =>
      let d := c.first + i
      slice (blk (1 + 86 * (d / 85))) (48 * (d % 85)) 48))

/-- The field manifest's digest of an image (R367, R374): none without a FIELD_IMAGE. -/
def fieldDigest (blk : Nat → List Byte) : List Byte :=
  match (manComps (blk 0)).find? (fun c => decide (c.typ = 3)) with
  | none => []
  | some c => Config.sha384 ((blk (streamOfData c.first)).take 3808)

/-- The three digests that ACTIVATE compares (R374). -/
def imageDigests (blk : Nat → List Byte) : List (List Byte) := [compDigest blk 1, compDigest blk 2, fieldDigest blk]

/-! ### Flash -/

/-- Where a slot starts in flash (R369). -/
def slotBase (b : Nat) : Nat := if b = 0 then 0x20000 else 0x1820000

/-- Block `k` of a slot. -/
def slotBlock (b : Boot) (s k : Nat) : List Byte := flashBytes b (slotBase s + 4096 * k) 4096

/-- Block `k` of a pushed image. -/
def pushBlock (b : Boot) (k : Nat) : List Byte := (List.range 4096).map (fun i => rd8 b.push (4096 * k + i))

/-- Bytes written to flash. -/
def flashWrite (b : Boot) (a : Nat) (bs : List Byte) : Boot :=
  { b with flash := (bs.foldl (fun (p : Tbl Byte × Nat) v => (tput 0xFF p.1 p.2 v, p.2 + 1)) (b.flash, a)).1 }

/-- A directory copy (R370). -/
def dirCopy (b : Boot) (c : Nat) : List Byte := flashBytes b (0x10000 * c) 64

/-- It is valid. -/
def dirOk (d : List Byte) : Bool :=
  decide (leAt d 0 4 = 0x4E474431) && decide (leAt d 60 4 = (crc32 (d.take 60)).toNat) && decide (leAt d 8 1 ≤ 1)

/-- The newest valid directory copy, by its number (R370). -/
def dirNewest (b : Boot) : Option Nat :=
  let d0 := dirCopy b 0
  let d1 := dirCopy b 1
  match dirOk d0, dirOk d1 with
  | true, true =>
    let d := (leAt d1 4 4 + 2 ^ 32 - leAt d0 4 4) % 2 ^ 32
    if 1 ≤ d ∧ d ≤ 2 ^ 31 - 1 then some 1 else some 0
  | true, false => some 0
  | false, true => some 1
  | false, false => none

/-- SEQ of a slot's manifest. -/
def slotSeq (b : Boot) (s : Nat) : Nat := leAt (slotBlock b s 0) 16 4

/-- The slots in the order in which SPP0 offers them (R356). -/
def slotOrder (b : Boot) : List Nat :=
  match dirNewest b with
  | some c => let a := leAt (dirCopy b c) 8 1; [a, 1 - a]
  | none => if slotSeq b 0 < slotSeq b 1 then [1, 0] else [0, 1]

/-- The slot that an update fills (R371): the one that the newest valid copy does not name; slot B where no copy is valid. -/
def slotFree (b : Boot) : Nat :=
  match dirNewest b with
  | some c => 1 - leAt (dirCopy b c) 8 1
  | none => 1

/-- The directory written for a new slot (R371 step 3). -/
def dirWrite (b : Boot) (s : Nat) : Boot :=
  let cur := dirNewest b
  let at' := match cur with | some c => 1 - c | none => 0
  let dseq := match cur with | some c => (leAt (dirCopy b c) 4 4 + 1) % 2 ^ 32 | none => 1
  let body := bytesLE 4 0x4E474431 ++ bytesLE 4 dseq ++ bytesLE 1 s ++ [0, 0, 0] ++ bytesLE 4 (slotSeq b 0) ++ bytesLE 4 (slotSeq b 1) ++
    List.replicate 40 0
  let b := { b with flash := tclear b.flash (0x10000 * at') (0x10000 * at' + 0x10000) }
  flashWrite b (0x10000 * at') (body ++ bytesLE 4 (crc32 body).toNat)

/-! ### Choosing an image -/

/-- The image that the ROM would start now (R356 to R358): the source code of 8010h sub 01h, verified, and its blocks. -/
structure Choice where
  src      : Nat
  verified : Bool
  blk      : Nat → List Byte

/-- An image authenticated on the host die. -/
def hostAuth (h : HostDie) (blk : Nat → List Byte) : Bool := imageOk false blk && manSigned h.com.fuses (rootKeyOf h.com.fuses) (blk 0)

/-- The verdict of 8010h sub 06h on an image: 0 authenticated, 1 not authenticated, 2 not structurally valid. -/
def imageVerdict (h : HostDie) (blk : Nat → List Byte) : Nat := if hostAuth h blk then 0 else if imageOk false blk then 1 else 2

/-- A push has arrived whole. -/
def pushWhole (h : HostDie) : Bool := decide (h.boot.xfer.state = 3)

/-- The structurally valid flash slot with the highest SEQ (R356). -/
def bestSlot (h : HostDie) : Option Nat :=
  let ok := fun s => imageOk false (slotBlock h.boot s)
  let os := if slotSeq h.boot 0 < slotSeq h.boot 1 then [1, 0] else [0, 1]
  os.find? ok

/-- The straps ask for rescue at once (R349). -/
def rescueAtOnce (h : HostDie) : Bool := decide (lcHost h ≤ 1) && decide (h.boot.straps = 7)

/-- The choice of R356 in the source in progress, or after the last one; in rescue a push (R358). -/
def chooseImage (h : HostDie) : Option Choice :=
  let pushed := fun (src : Nat) =>
    if pushWhole h && hostAuth h (pushBlock h.boot) then some (⟨src, true, pushBlock h.boot⟩ : Choice) else none
  match h.boot.sources with
  | 1 :: _ =>
    match (slotOrder h.boot).find? (fun s => hostAuth h (slotBlock h.boot s)) with
    | some s => some ⟨s + 1, true, slotBlock h.boot s⟩
    | none => none
  | 2 :: _ => pushed 3
  | 3 :: _ => pushed 4
  | _ =>
    match (if rescueAtOnce h then none else bestSlot h) with
    | some s => some ⟨s + 1, false, slotBlock h.boot s⟩
    | none =>
      match pushed 3 with
      | some c => some c
      | none => if lcHost h ≤ 1 ∧ pushWhole h ∧ imageOk false (pushBlock h.boot) then some ⟨3, false, pushBlock h.boot⟩ else none

/-- The order of the sources (R349): 1 SPP0, 2 Causeway, 3 SPP1. -/
def sourceOrder (h : HostDie) : List Nat :=
  let fuse :=
    let b := h.com.fuses.bootOrder
    if b % 64 = 0 then [1, 2, 3] else [b % 4, b / 4 % 4, b / 16 % 4].filter (· ≠ 0)
  if 1 < lcHost h then fuse
  else match h.boot.straps with
    | 0 => fuse
    | 1 => [1]
    | 2 => [2]
    | 3 => [3]
    | 4 => [1, 3]
    | 5 => [2, 3]
    | 6 => [3, 1]
    | _ => []

/-- The ROM brings CA up at SPEED AUTO for the Causeway source, and listens on SPP1 while that source, or rescue, is in progress (R350, R402). -/
def romListens (h : HostDie) : HostDie :=
  match h.boot.sources with
  | 2 :: _ =>
    let h := { h with spp := { h.spp with sstat := h.spp.sstat / 2 * 2 } }
    pctlWrite { h with cw := { h.cw with ctrl := h.cw.ctrl ||| 1 } } 0 (setFld (cwPort h.cw 0).pctl 1 0 2 ||| 4)
  | 3 :: _ | [] =>
    { h with spp := { h.spp with p1 := { h.spp.p1 with ctl := h.spp.p1.ctl ||| 3 }, sstat := h.spp.sstat ||| 1, busy := false } }
  | _ => { h with spp := { h.spp with sstat := h.spp.sstat / 2 * 2 } }

/-- The host ROM starts (R341, R346, R347, R349, R419): a wiped key in FIELD completes the move to RETURN; VOID halts with the Causeway
ports disabled. -/
def romStart (h : HostDie) : HostDie :=
  let f := h.com.fuses
  let f := if f.wiped ∧ lcOf f = 2 then lcBlow f 3 else f
  let h := { h with com := { h.com with fuses := f },
                    boot := { h.boot with inRom := true, attempts := [], source := 0, flags := 0, man := [], runDig := [], pmp := false,
                                          core1 := false, entry := 0, xfer := xfer0, push := [] } }
  let h := { h with boot := { h.boot with sources := sourceOrder h } }
  if lcHost h = 4 then cwCtrlWrite (h.cw.ctrl &&& 0xFFFFFFFE) { h with coresRun := false, boot := { h.boot with sources := [] } }
  else romListens (repairRestore hostOps h.boot.repairs { h with coresRun := true })

/-- BOOT_SOURCE_ABANDON (R350, R376): the candidates of the source judged; one that would start, and a push not whole, count as
abandoned. -/
def sourceAbandon (h : HostDie) : HostDie :=
  if h.boot.inRom = false then h
  else
    match h.boot.sources with
    | [] => h
    | s :: rest =>
      let pushed := if pushWhole h then (let v := imageVerdict h (pushBlock h.boot); if v = 0 then 3 else v) else 3
      let recs := if s = 1 then
          (slotOrder h.boot).map (fun k => let v := imageVerdict h (slotBlock h.boot k); (k + 1, if v = 0 then 3 else v))
        else [(if s = 2 then 3 else 4, pushed)]
      romListens { h with boot := { h.boot with sources := rest, attempts := (h.boot.attempts ++ recs).take 8, xfer := xfer0, push := [] } }

/-- Host components copied to their destinations across H0 to H3 (R353). -/
def copyComp (h : HostDie) (blk : Nat → List Byte) (c : Comp) : HostDie :=
  if c.typ = 1 ∨ c.typ = 2 then
    ((compBytes blk c).foldl (fun (p : HostDie × Nat) b => ((hostBusWr p.1 p.2 [b]).1, p.2 + 1)) (h, 0x08000000 + c.dest)).1
  else h

/-- A scalar of a 48-byte value (R363). -/
def scalarOf (x : List Byte) : List Byte := bytesBE 48 (ofBytesBE x % Config.p384n1 + 1)

/-- The quote FLAGS at boot (R362, R376): UNVERIFIED, SPLIT, FALLBACK, PUSHED, HMAC. -/
def bootFlags (h : HostDie) (c : Choice) : Nat :=
  let named := match dirNewest h.boot with | some d => decide (leAt (dirCopy h.boot d) 8 1 + 1 ≠ c.src) | none => false
  b2n (!c.verified) + 4 * b2n (bit h.com.testCtrl 2) + 16 * b2n h.boot.split + 32 * b2n (decide (c.src ≤ 2) && named) +
    64 * b2n (decide (3 ≤ c.src)) + 128 * b2n ((leAt (c.blk 0) 6 2).testBit 0)

/-- SPLIT (R341): the states of the two dies differ, once the field die has reported its own. -/
def splitOf (h : HostDie) : Bool :=
  (decide (h.boot.lcField ≠ 0) || decide (h.leg.fieldMs ≠ [])) && decide (lcOf h.com.fuses ≠ h.boot.lcField)

/-- SPLIT brought up to date. -/
def splitNow (h : HostDie) : HostDie := { h with boot := { h.boot with split := splitOf h } }

/-- A PARAM_READ of FIELD_MEAS by the host firmware: the field bridge answers with MEASURE too (R367), which reports its lifecycle. -/
def askMeasure (h : HostDie) : HostDie :=
  let h := { h with leg := { h.leg with selfSeq := (h.leg.selfSeq + 1) % 65536 } }
  { h with com := weirQueue h.com (paramReadMsg (0xF000 + ownAddr h.cw) h.leg.selfSeq 0x8020 0x10 0x0E) }

/-- Stage 1 of a split node completes the transition on the die that lags (R341, R375). -/
def splitFix (h : HostDie) : HostDie :=
  let h := hostFault h 6 [w32 (lcOf h.com.fuses), w32 h.boot.lcField]
  let t := lcHost h
  if lcOf h.com.fuses < t then splitNow { h with com := { h.com with fuses := lcTake h.com.fuses t } }
  else askField h 0x0E 0x8000 4 (bytesBE 1 t)

/-- STAGE1_START up to the jump (R359), and what stage 1 does first: MS1, the test port, the faults of R357 and R375, the lagging die
of R341. -/
def stage1Boot (h : HostDie) (c : Choice) : HostDie :=
  let m := c.blk 0
  let h := (manComps m).foldl (fun h k => copyComp h c.blk k) h
  let h := splitNow h
  let fl := bootFlags h c
  let svn := leAt m 12 4
  let entry := match (manComps m).find? (fun k => decide (k.typ = 1)) with | some k => 0x08000000 + k.dest + k.entry | none => 0
  let b := msPush h.boot 0 (Config.sha384 (m.take 3808))
  let b := { b with inRom := false, attempts := (b.attempts ++ [(c.src, if c.verified then 0 else 1)]).take 8, source := c.src, flags := fl,
                    man := m, runDig := imageDigests c.blk, pmp := true, core1 := true, entry := entry, svn := w32 svn,
                    ksCtrl := b.ksCtrl ||| 3 ||| (if c.verified then 0 else 4),
                    ak := scalarOf (Config.hmac384 (rootKeyOf h.com.fuses) (ascii "NK-AK" ++ bytesBE 4 svn ++ bytesBE 4 fl)) }
  let b := if compDigest c.blk 2 = [] then b else msPush b 1 (compDigest c.blk 2)
  let h := { h with boot := b, com := { h.com with testCtrl := portState h.com.testCtrl (lcHost h) } }
  let h := if fl.testBit 5 then hostFault h 1 [w32 c.src] else h
  let h := if fl.testBit 0 then hostFault h 2 [w32 c.src] else h
  if h.boot.split then splitFix h else h

/-! ### Image transfer -/

/-- STATUS of the transfer (R376). -/
def xferStatus (x : Xfer) : List Byte :=
  bytesBE 1 x.state ++ [0, 0, 0] ++ bytesBE 4 x.next ++ bytesBE 4 x.passed ++ bytesBE 4 x.lastBad

/-- OPEN (R373). -/
def imageOpen (h : HostDie) (size : Nat) : HostDie × Nat :=
  if size = 0 ∨ 25165824 < size then (h, 5) else ({ h with boot := { h.boot with xfer := { xfer0 with state := 1, size := size } } }, 0)

/-- IMAGE_ERASE_DONE (R373). -/
def imageErased (h : HostDie) : HostDie :=
  if h.boot.xfer.state = 1 then
    let a := slotBase (slotFree h.boot)
    { h with boot := { h.boot with flash := tclear h.boot.flash a (a + 0x1800000), xfer := { h.boot.xfer with state := 2 } } }
  else h

/-- A block completed in a transfer (R354, R373): it is judged and stored, in the free slot or, while the ROM runs, in the push. -/
def takeBlock (h : HostDie) (b : List Byte) : HostDie × Nat :=
  let x := h.boot.xfer
  let k := x.next / 4096
  let rom := h.boot.inRom
  let good := if k = 0 then manOk false b && (rom || manSigned h.com.fuses (rootKeyOf h.com.fuses) b) else blockOk x.man x.hashes k b
  if good then
    let x := { x with block := [], passed := x.passed + 1, next := x.next + 4096, man := if k = 0 then b else x.man,
                      hashes := if k ≠ 0 ∧ (streamBlock k).1 then b else x.hashes }
    let x := if x.passed = manBlocks x.man then { x with state := 3 } else x
    let bt := if rom then { h.boot with push := wrBytes h.boot.push (4096 * k) b }
      else flashWrite h.boot (slotBase (slotFree h.boot) + 4096 * k) b
    ({ h with boot := { bt with xfer := x } }, 0)
  else if k = 0 ∧ rom = false then ({ h with boot := { h.boot with xfer := { x with block := [], state := 4, lastBad := 0 } } }, 5)
  else ({ h with boot := { h.boot with xfer := { x with block := [], lastBad := k } } }, 5)

/-- Bytes of a piece taken one block at a time. -/
def takePiece : Nat → HostDie → List Byte → HostDie × Nat
  | 0, h, _ => (h, 0)
  | f + 1, h, d =>
    let x := h.boot.xfer
    let room := 4096 - x.block.length
    let h' := { h with boot := { h.boot with xfer := { x with block := x.block ++ d.take room } } }
    if d.length < room then (h', 0)
    else
      let r := takeBlock h' (x.block ++ d.take room)
      if r.2 ≠ 0 then r else if d.length = room then r else takePiece f r.1 (d.drop room)

/-- NEXT as pieces must name it: blocks taken and the bytes of the block in progress. -/
def xferNext (x : Xfer) : Nat := x.next + x.block.length

/-- IMAGE_PIECE (R350, R358, R373). A booting ROM takes a push without OPEN. -/
def imagePiece (h : HostDie) (off : Nat) (d : List Byte) : HostDie × Nat :=
  let x := h.boot.xfer
  let st := if h.boot.inRom ∧ x.state = 0 then 2 else x.state
  if st = 1 then (h, 7)
  else if st ≠ 2 then (h, 6)
  else if off ≠ xferNext x ∨ (h.boot.inRom = false ∧ x.size < off + d.length) then (h, 5)
  else takePiece 2 { h with boot := { h.boot with xfer := { x with state := 2 } } } d

/-- ABORT (R373). -/
def imageAbort (h : HostDie) : HostDie × Nat := ({ h with boot := { h.boot with xfer := xfer0 } }, 0)

/-! ### Key store, measurements, quotes -/

/-- A write of KS_CTRL (R359): ones set locks. -/
def ksLock (v : W32) (h : HostDie) : HostDie := { h with boot := { h.boot with ksCtrl := h.boot.ksCtrl ||| (v &&& 7) } }

/-- The label bytes (R363). -/
def ksLabelBytes (b : Boot) : List Byte := (List.range 8).flatMap (fun w => bytesLE 4 (tget 0 b.ksLabel w).toNat)

/-- A write of KS_DERIVE (R363, R364). -/
def ksDerive (v : W32) (h : HostDie) : HostDie :=
  let b := { h.boot with ksHandle := fld v 19 16 }
  if bit v 31 = false then { h with boot := b }
  else if bit b.ksCtrl 2 then { h with boot := { b with ksResult := 3 } }
  else if b.svn.toNat < b.ksVer.toNat then { h with boot := { b with ksResult := 2 } }
  else
    let k := Config.hmac384 (rootKeyOf h.com.fuses) (ascii "NK-SEAL" ++ ksLabelBytes b ++ bytesBE 4 b.ksVer.toNat)
    { h with boot := { b with ksResult := 1, handles := tput [] b.handles b.ksHandle k } }

/-- The DATA words as 48 bytes. -/
def msDigest (b : Boot) : List Byte := (List.range 12).flatMap (fun w => bytesLE 4 (tget 0 b.msData w).toNat)

/-- A write of MS_CTRL (R361). -/
def msCtrlWrite (v : W32) (h : HostDie) : HostDie :=
  let b := { h.boot with msSlot := fld v 2 0, msRef := h.boot.msRef && !bit v 9 }
  if bit v 8 = false then { h with boot := b }
  else if b.msSlot = 0 ∧ bit b.ksCtrl 0 then { h with boot := { b with msRef := true } }
  else { h with boot := msPush b b.msSlot (msDigest b) }

/-- LC_STAT. -/
def lcStat (h : HostDie) : W32 :=
  let f := h.com.fuses
  w32 (f.revoked % 16 * 2 ^ 24 + f.programmed % 16 * 2 ^ 20 + b2n f.wiped * 2 ^ 16 + b2n h.boot.split * 2 ^ 12 + h.boot.lcField % 8 * 256 +
    lcOf f)

/-- BOOT_STAT. -/
def bootStat (b : Boot) : W32 := w32 (b.attempts.length % 256 * 65536 + b.source % 16 * 4096 + b.flags % 512)

/-- The FLAGS of a quote (R362): those at boot, with FIELD_UNVERIFIED and the field TEST_UNLOCKED as MEASURE gave them. -/
def quoteFlags (h : HostDie) : Nat :=
  let m := wAt h.leg.fieldMs 0
  (h.boot.flags &&& 0xE1) ||| 2 * b2n (bit m 8) ||| 4 * b2n (bit h.com.testCtrl 2) ||| 8 * b2n (bit m 9) |||
    16 * b2n h.boot.split ||| 256 * b2n (!h.com.weir.farPresent)

/-- The quote (R362). -/
def quoteBytes (fd : FieldDie) (h : HostDie) : List Byte :=
  let b := h.boot
  let there := h.com.weir.farPresent
  let akPub := fixLen 96 (Config.ecPublic b.ak)
  let udn := bytesBE 8 h.com.fuses.udn.toNat
  let dik := scalarOf (Config.hmac384 (rootKeyOf h.com.fuses) (ascii "NK-DIK" ++ udn))
  let aliasSig := fixLen 96 (Config.ecdsaSign dik (udn ++ bytesBE 4 b.svn.toNat ++ bytesBE 4 b.flags ++ msGet b 0 ++ akPub))
  let body := bytesBE 2 1 ++ bytesBE 2 (quoteFlags h) ++ udn ++ fixLen 32 b.quoteReq ++ bytesBE 8 (if there then fd.mer.pcnt else 0) ++
    bytesBE 4 0x4E412820 ++ bytesBE 4 (if there then 0x4E412920 else 0) ++ bytesBE 1 (lcOf h.com.fuses) ++ bytesBE 1 b.lcField ++
    bytesBE 1 (leAt b.man 30 1) ++ [0] ++ bytesBE 4 b.svn.toNat ++ bytesBE 4 (leAt b.man 20 4) ++
    bytesBE 4 (if there then fd.fb.version.toNat else 0) ++ bytesBE 4 h.leg.epoch.toNat ++ (List.range 8).flatMap (msGet b) ++
    (List.range 8).flatMap (fun k => bytesBE 2 (tget 0 b.msCnt k)) ++ akPub ++ aliasSig
  body ++ fixLen 96 (Config.ecdsaSign b.ak body)

/-- KEYS of 8000h sub 06h (R376). -/
def keysBytes (h : HostDie) : List Byte :=
  let f := h.com.fuses
  let signs := fun (k : Nat) => decide (h.boot.man ≠ []) && decide (leAt h.boot.man 30 1 = k) && !(leAt h.boot.man 6 2).testBit 0
  (List.range 4).map (fun k => BitVec.ofNat 8 (b2n (f.programmed.testBit k) + 2 * b2n (f.revoked.testBit k) + 4 * b2n (signs k)))

/-- A fault-log record as 32 bytes (R375): big-endian numbers and a CRC-32 over bytes 0 to 27. -/
def faultBytes (r : FaultRec) : List Byte :=
  let t := timeBytes r.time
  let d := bytesBE 4 r.seq ++ t.take 10 ++ bytesBE 2 r.code ++ fixLen 12 (r.data.flatMap (fun w => bytesBE 4 w.toNat))
  d ++ bytesBE 4 (crc32 d).toNat

def execTestCtrlWrite (d : Side) (v : W32) (s : State) :=
  integCmd d (fun h => { h with com := { h.com with testCtrl := testCtrlSet h.com.testCtrl v (lcHost h) } })
    (fun f => { f with com := { f.com with testCtrl := testCtrlSet f.com.testCtrl v (lcFieldIn f) } }) s
def execBootSourceAbandon (s : State) := hostCmd sourceAbandon s
def execImageEraseDone (s : State) := hostCmd imageErased s
def execMsExtend (v : W32) (s : State) := hostCmd (msCtrlWrite v) s
def execKsDerive (v : W32) (s : State) := hostCmd (ksDerive v) s
def execKsLockWrite (v : W32) (s : State) := hostCmd (ksLock v) s

end Sys2Proof.Machine
end

