-- ==== Sys2Proof/Machine/HostRegs.lean ====
section
/-! DEFINITION. The registers of the host die: what each reads as, and what a write of each does (R7, R8). -/

namespace Sys2Proof.Machine

/-- SAT of a block of counters. -/
def satWord (c : Ctrs) : W32 := w32 c.sat

/-- CW_NODE. -/
def cwNode (c : Cw) : W32 :=
  w32 (c.depth % 4096 * 2 ^ 20 + b2n c.onStandby * 2 ^ 19 + b2n c.isHead * 2 ^ 18 + b2n c.overflow * 2 ^ 17 + b2n c.conflict * 2 ^ 16 +
    b2n c.noaddr * 2 ^ 15 + c.state % 8 * 2 ^ 12 + c.addr % 4096)

/-- CW_PSTATx. -/
def cwPstat (p : CwPort) : W32 :=
  w32 (b2n p.peer * 2 ^ 16 + cwFree p % 64 * 2 ^ 8 + 32 * b2n p.remFault + 16 * b2n p.anDone + p.role % 4 * 4 + 2 * b2n p.speed1000 + b2n p.link)

/-- CW_MDIO_CMD. -/
def mdioWord (c : Cw) : W32 := (c.mdioCmd &&& 0x7FFCFFFF) ||| bitAt 31 c.mdioBusy ||| bitAt 17 c.mdioRef

/-- A register of Causeway port `x` at offset `o` of its block. -/
def cwPortReg (c : Cw) (x o : Nat) : W32 :=
  let p := cwPort c x
  if o = 0 then p.pctl else if o = 4 then cwPstat p
  else if 0x10 ≤ o ∧ o < 0x30 ∧ o % 4 = 0 then ctrGet p.cnt ((o - 0x10) / 4)
  else if o = 0x30 then satWord p.cnt else 0

/-- A Causeway register (R278 and its maps). -/
def cwReg (c : Cw) (o : Nat) : W32 :=
  if o = 0x2000 then c.ctrl else if o = 0x2004 then cwNode c else if o = 0x2008 then w32 c.path else if o = 0x200C then c.stream
  else if o = 0x2010 then w32 c.slead else if o = 0x2014 then w32 c.ulag
  else if o = 0x2018 then w32 (if c.isHead then c.sleadMin % 2 ^ 20 else 0) else if o = 0x201C then w32 (if c.isHead then c.ulagMin % 2 ^ 20 else 0)
  else if 0x2040 ≤ o ∧ o < 0x2100 then cwPortReg c ((o - 0x2040) / 64) ((o - 0x2040) % 64)
  else if 0x2100 ≤ o ∧ o < 0x2120 ∧ o % 4 = 0 then ctrGet c.cnt ((o - 0x2100) / 4)
  else if o = 0x2120 then satWord c.cnt else if o = 0x2180 then mdioWord c else if o = 0x2184 then c.mdioCfg
  else if o = 0x2190 then c.macLo else if o = 0x2194 then c.macHi else 0

/-- DT_STAT. -/
def dtStat (d : Datum) : W32 :=
  w32 (b2n d.stDiff * 2 ^ 17 + b2n d.numConfl * 2 ^ 16 + d.limit % 64 * 2 ^ 10 + b2n d.tempOk * 2 ^ 9 + b2n d.traceable * 2 ^ 8 +
    128 * b2n d.srcHold + 64 * b2n d.srcOk + 32 * b2n d.holdover + 16 * b2n d.lock + d.cls % 8)

/-- The words of DT_TIME (R8, R280) and of DT_ANCHOR (R281). -/
def dtTimeWords (t : Nat) : List W32 :=
  let s := t / 65536 / 1000000000
  [w32 (t / 65536 % 1000000000), w32 (s % 2 ^ 32), w32 (t % 65536 * 65536 + s / 2 ^ 32 % 65536)]
def dtAnchorWords (d : Datum) : List W32 :=
  let t := d.anchorT
  let s := t / 65536 / 1000000000
  [w32 (d.anchorM % 2 ^ 32), w32 (d.anchorM / 2 ^ 32), w32 (t / 65536 % 1000000000), w32 (s % 2 ^ 32),
   w32 (t % 65536 * 65536 + s / 2 ^ 32 % 65536), w32 (d.anchorR % 16)]

/-- A register of Datum's side of port `x`. A head has its time from its source and no port (R284, R289). -/
def dtPortReg (h : HostDie) (x o : Nat) : W32 :=
  let p := tget dtPort0 h.dt.ports x
  if o = 0 then p.cfg else if o = 4 then p.asym
  else if o = 8 then
    w32 (4 * b2n (portUp h.cw x && decide ((cwPort h.cw x).role = 2)) + 2 * b2n (!h.cw.isHead && portUp h.cw x && decide ((cwPort h.cw x).role = 0)) + b2n p.calDone)
  else p.pdly

/-- A Datum register. -/
def dtReg (h : HostDie) (o : Nat) : W32 :=
  let d := h.dt
  if o = 0x3000 then d.ctrl else if o = 0x3004 then dtStat d else if o = 0x3008 then w32 (d.bound % 2 ^ 24) else if o = 0x300C then d.hold
  else if o = 0x3010 then wAt (dtTimeWords d.time) 0
  else if o = 0x3014 ∨ o = 0x3018 then wAt d.timeLatch ((o - 0x3010) / 4)
  else if o = 0x3020 then wAt (dtAnchorWords d) 0
  else if 0x3024 ≤ o ∧ o ≤ 0x3034 ∧ o % 4 = 0 then wAt d.anchLatch ((o - 0x3020) / 4)
  else if o = 0x3044 then d.secLo else if o = 0x3048 then d.secHi else if o = 0x3050 then d.rateLo else if o = 0x3054 then d.rateHi
  else if o = 0x3058 then w32 (d.rateRes % 8 * 65536 + d.rateNew % 16 * 256)
  else if 0x3080 ≤ o ∧ o < 0x30B0 then dtPortReg h ((o - 0x3080) / 16) ((o - 0x3080) % 16)
  else if 0x30C0 ≤ o ∧ o < 0x30D4 ∧ o % 4 = 0 then ctrGet d.cnt ((o - 0x30C0) / 4)
  else if o = 0x30D4 then satWord d.cnt else 0

/-- A register of boot, keys and measurements. -/
def bootReg (h : HostDie) (o : Nat) : W32 :=
  let b := h.boot
  if o = 0x5000 then bootStat b else if o = 0x5004 then lcStat h else if o = 0x5010 then b.ksCtrl &&& 7 else if o = 0x5014 then b.svn
  else if o = 0x5018 then w32 (b.ksResult % 8 * 2 ^ 28 + b.ksHandle % 16 * 65536) else if o = 0x501C then b.ksVer
  else if 0x5020 ≤ o ∧ o < 0x5040 then tget 0 b.ksLabel ((o - 0x5020) / 4)
  else if o = 0x5040 then w32 (512 * b2n b.msRef + b.msSlot % 8)
  else if 0x5080 ≤ o ∧ o < 0x50B0 then w32 (leAt (msGet b b.msSlot) (o - 0x5080) 4)
  else if o = 0x50B0 then w32 (tget 0 b.msCnt b.msSlot % 65536)
  else if o = 0x5100 then h.com.testCtrl &&& 7 else 0

/-- A register of a DMA queue at offset `o` of its block. -/
def dmaReg (e : Dma) (n o : Nat) : W32 :=
  let q := dmaQ e n
  if o = 0 then q.base
  else if o = 4 then w32 (256 * b2n q.irqEn + q.size % 16 * 16 + q.prio % 4 * 2 + b2n q.en)
  else if o = 8 then w32 (q.pidx % 65536)
  else if o = 12 then w32 (q.didx % 65536 * 65536 + q.cidx % 65536)
  else if o = 16 then
    w32 (64 * b2n q.refused + 32 * b2n q.overpost + 16 * b2n q.resync + 8 * b2n q.irq + 4 * b2n q.halted + 2 * b2n q.cur.isSome)
  else if o = 20 then q.resyncs else 0

/-- A register of the serial ports. -/
def sppReg (h : HostDie) (o : Nat) : W32 :=
  if o = 0x7000 then h.spp.p0.ctl else if o = 0x7004 then h.spp.p0.tim else if o = 0x7008 then sppStat h.spp.p0 0
  else if o = 0x700C then h.spp.xipCfg else if o = 0x7010 then h.spp.xipMode
  else if o = 0x7100 then h.spp.p1.ctl else if o = 0x7104 then h.spp.p1.tim else if o = 0x7108 then sppStat h.spp.p1 1
  else if o = 0x7114 then w32 (h.spp.ecoll % 65536 * 65536 + h.spp.aborts % 65536)
  else if 0x7180 ≤ o ∧ o ≤ 0x71A0 ∧ o % 4 = 0 then slaveGet h ((o - 0x7180) / 4) else 0

/-- TSENS of a die (R446). -/
def tsensWord (c : Common) : W32 := w32 (b2n c.hot * 2 ^ 28 + c.tmax.toNat * 65536 + c.temp.toNat)

/-- The registers that both dies have at one offset: reset cause, Weir. -/
def comReg (c : Common) (d : Side) (o : Nat) : W32 :=
  if o = 0x44 then c.rstCause else if o = 0x400 then c.weir.ctrl &&& 0xF03 else if o = 0x404 then weirStat c.weir d
  else if o = 0x430 then weirCredit c.weir
  else if 0x410 ≤ o ∧ o < 0x428 ∧ o % 4 = 0 then ctrGet c.weir.cnt ((o - 0x410) / 4)
  else if o = 0x428 then satWord c.weir.cnt else 0

/-- What a register of the host die reads as. -/
def hostReg (h : HostDie) (o : Nat) : W32 :=
  if o = 0 then 0x4E412820
  else if o < 0x500 then comReg h.com .host o
  else if 0x2000 ≤ o ∧ o < 0x3000 then cwReg h.cw o
  else if 0x3000 ≤ o ∧ o < 0x4000 then dtReg h o
  else if 0x5000 ≤ o ∧ o < 0x6000 then bootReg h o
  else if 0x6000 ≤ o ∧ o < 0x6600 then dmaReg h.com.dma ((o - 0x6000) / 32) ((o - 0x6000) % 32)
  else if 0x7000 ≤ o ∧ o < 0x7800 then sppReg h o
  else if o = 0x7800 then h.com.integ.ctrl else if o = 0x7804 then memStat h.com.integ else if o = 0x7808 then h.com.integ.repair
  else if o = 0x7900 then tsensWord h.com else if o = 0x7904 then h.far else if o = 0x7908 then h.com.pwrStat else 0

/-- READ_SNAPSHOT on the host die (R8): the low word latches the others. -/
def hostSnap (o : Nat) (h : HostDie) : HostDie :=
  let h := { h with com := { h.com with lastRead := hostReg h o } }
  if o = 0x3010 then { h with dt := { h.dt with timeLatch := dtTimeWords h.dt.time } }
  else if o = 0x3020 then { h with dt := { h.dt with anchLatch := dtAnchorWords h.dt } } else h

/-- The core reset (R32, R40, R361): every host queue is disabled first. Requests in service are lost and subscriptions end (R324). -/
def coreReset (h : HostDie) : HostDie :=
  let h := dmaDisableAll hostDma h
  let b := { h.boot with ksCtrl := 0, svn := 0, ksHandle := 0, ksResult := 0, ksVer := 0, ksLabel := [], handles := [], ak := [],
                         msSlot := 0, msRef := false, msData := [], ms := [], msCnt := [], quoteBusy := false, quote := [], quoteReq := [] }
  let h := { h with spp := sppBlk0, boot := b, leg := { h.leg with subs := [], fwd := [], saving := none, quoting := none } }
  romStart h

/-- A write of RST_CTRL on the host die, or a reset through the test port while that is open (R32, R33, R277, R345). -/
def hostRst (v : W32) (viaTest : Bool) (h : HostDie) : HostDie :=
  if (if viaTest then portOpen h.com.testCtrl (lcHost h) = false else fld v 31 16 ≠ 0xA5C3) then h
  else
    let cause := fun (h : HostDie) (m : W32) => { h with com := { h.com with rstCause := h.com.rstCause ||| m ||| (if viaTest then 8 else 0) } }
    let h := if bit v 1 && !viaTest then
        cause (enterHoldover { switchReset h with n := { h.n with mem := [], err := [], wb := [] } }) 4
      else h
    if bit v 0 || viaTest then cause (coreReset h) 2 else h

/-- A switch reset loses the upstream time, and the class with it (R295, R297). -/
def hostRstSee (v : W32) (viaTest : Bool) (f : FieldDie) (h : HostDie) : HostDie :=
  let g := hostRst v viaTest h
  if g.dt.lock = h.dt.lock ∧ g.dt.holdover = h.dt.holdover then g else classFall f g

/-- A write of CW_STREAM (R260, R270): at the head only, each field by itself. -/
def cwStreamWrite (v : W32) (h : HostDie) : HostDie :=
  if h.cw.isHead = false then h
  else
    let n := fld v 9 0
    let max := if h.cw.sys1000 then 256 else 512
    let loop := if fld v 19 16 = 0 then fld h.cw.stream 19 16 else fld v 19 16
    let n := if n % 16 = 0 ∧ 16 ≤ n ∧ n ≤ max then n else fld h.cw.stream 9 0
    headMins { h with cw := { h.cw with stream := w32 (loop * 65536 + n) } }

/-- A write of DT_CTRL (R289). -/
def dtCtrlWrite (v : W32) (h : HostDie) : HostDie :=
  let old := h.dt.ctrl
  let slew := if 1 ≤ fld v 15 8 ∧ fld v 15 8 ≤ 100 then fld v 15 8 else fld old 15 8
  let src := if h.cw.isHead ∧ fld v 2 0 < 4 then fld v 2 0 else fld old 2 0
  let h := { h with dt := { h.dt with ctrl := w32 (fld v 31 16 * 65536 + slew * 256 + src) } }
  if src ≠ fld old 2 0 then srcFresh h else h

/-- A write of one of the registers that both dies have, but for the Weir control and reset. -/
def comRegWrite (c : Common) (d : Side) (o : Nat) (v : W32) : Common :=
  if o = 0x44 then { c with rstCause := w1c c.rstCause v (if d = .field then 0x1F else 0x0F) }
  else if o = 0x400 then { c with weir := weirCtrlWrite v c.weir }
  else if 0x410 ≤ o ∧ o < 0x428 ∧ o % 4 = 0 then { c with weir := { c.weir with cnt := ctrClear c.weir.cnt ((o - 0x410) / 4) } }
  else c

/-- A write of a DMA queue's register. -/
def dmaRegWrite {σ : Type} (B : DmaBus σ) (n o : Nat) (v : W32) (s : σ) : σ :=
  if B.count ≤ n then s
  else if o = 0 then dmaBase B n v s
  else if o = 4 then dmaCtlWrite B n v s
  else if o = 8 then dmaPidx B n v s
  else if o = 16 then
    modQ B s n (fun q => { q with refused := q.refused && !bit v 6, overpost := q.overpost && !bit v 5, resync := q.resync && !bit v 4,
                                  irq := q.irq && !bit v 3 })
  else if o = 20 then modQ B s n (fun q => { q with resyncs := v })
  else s

/-- A write of a Causeway register. -/
def cwRegWrite (o : Nat) (v : W32) (f : FieldDie) (h : HostDie) : HostDie :=
  if o = 0x2000 then cwCtrlSee v f h
  else if o = 0x2004 then { h with cw := { h.cw with conflict := h.cw.conflict && !bit v 16 } }
  else if o = 0x200C then cwStreamWrite v h
  else if o = 0x2010 then if h.cw.isHead then headMins { h with cw := { h.cw with slead := fld v 19 0 } } else h
  else if o = 0x2014 then if h.cw.isHead then headMins { h with cw := { h.cw with ulag := fld v 19 0 } } else h
  else if 0x2040 ≤ o ∧ o < 0x2100 then
    let x := (o - 0x2040) / 64
    let k := (o - 0x2040) % 64
    if k = 0 then pctlSee x v f h
    else if 0x10 ≤ k ∧ k < 0x30 ∧ k % 4 = 0 then modPort h x (fun p => { p with cnt := ctrClear p.cnt ((k - 0x10) / 4) })
    else h
  else if 0x2100 ≤ o ∧ o < 0x2120 ∧ o % 4 = 0 then { h with cw := { h.cw with cnt := ctrClear h.cw.cnt ((o - 0x2100) / 4) } }
  else if o = 0x2180 then mdioWrite v h
  else if o = 0x2184 then { h with cw := { h.cw with mdioCfg := v &&& 1 } }
  else if o = 0x2190 then { h with cw := { h.cw with macLo := v } }
  else if o = 0x2194 then { h with cw := { h.cw with macHi := v &&& 0x8000FFFF } }
  else h

/-- A write of a Datum register; a rate change is judged with the field side's pass counter (R298). -/
def dtRegWrite (o : Nat) (v : W32) (f : FieldDie) (h : HostDie) : HostDie :=
  if o = 0x3000 then classFall f (dtCtrlWrite v h)
  else if o = 0x3004 then { h with dt := { h.dt with stDiff := h.dt.stDiff && !bit v 17 } }
  else if o = 0x3040 then srcOfsWrite v h
  else if o = 0x3044 then { h with dt := { h.dt with secLo := v } }
  else if o = 0x3048 then { h with dt := { h.dt with secHi := v &&& 0xFFFF } }
  else if o = 0x304C then timeStep v h
  else if o = 0x3050 then { h with dt := { h.dt with rateLo := v } }
  else if o = 0x3054 then { h with dt := { h.dt with rateHi := v } }
  else if o = 0x3058 then rateCmdWrite v f h
  else if 0x3080 ≤ o ∧ o < 0x30B0 then
    let x := (o - 0x3080) / 16
    let k := (o - 0x3080) % 16
    if k = 0 then classFall f { h with dt := { h.dt with ports := tmod dtPort0 h.dt.ports x (fun p => { p with cfg := v &&& 0xFFFF0001 }) } }
    else if k = 4 then { h with dt := { h.dt with ports := tmod dtPort0 h.dt.ports x (fun p => { p with asym := v }) } }
    else h
  else if 0x30C0 ≤ o ∧ o < 0x30D4 ∧ o % 4 = 0 then { h with dt := { h.dt with cnt := ctrClear h.dt.cnt ((o - 0x30C0) / 4) } }
  else h

/-- A write of a register of boot, keys and measurements. The boot-report registers are read only (R359). -/
def bootRegWrite (o : Nat) (v : W32) (h : HostDie) : HostDie :=
  if o = 0x5010 then ksLock v h
  else if o = 0x5014 then if h.boot.inRom then { h with boot := { h.boot with svn := v } } else h
  else if o = 0x5018 then ksDerive v h
  else if o = 0x501C then { h with boot := { h.boot with ksVer := v } }
  else if 0x5020 ≤ o ∧ o < 0x5040 ∧ o % 4 = 0 then { h with boot := { h.boot with ksLabel := tput 0 h.boot.ksLabel ((o - 0x5020) / 4) v } }
  else if o = 0x5040 then msCtrlWrite v h
  else if 0x5044 ≤ o ∧ o < 0x5074 ∧ o % 4 = 0 then { h with boot := { h.boot with msData := tput 0 h.boot.msData ((o - 0x5044) / 4) v } }
  else if o = 0x5100 then { h with com := { h.com with testCtrl := testCtrlSet h.com.testCtrl v (lcHost h) } }
  else h

/-- A write of a register of the serial ports. -/
def sppRegWrite (o : Nat) (v : W32) (h : HostDie) : HostDie :=
  if o = 0x7000 then sppCtlWrite 0 v h
  else if o = 0x7100 then sppCtlWrite 1 v h
  else if o = 0x7004 then { h with spp := { h.spp with p0 := { h.spp.p0 with tim := v &&& 0x001FFFFF } } }
  else if o = 0x7104 then { h with spp := { h.spp with p1 := { h.spp.p1 with tim := v &&& 0x001FFFFF } } }
  else if o = 0x7008 then sppStatWrite 0 v h
  else if o = 0x7108 then sppStatWrite 1 v h
  else if o = 0x700C then xipCfgWrite v h
  else if o = 0x7010 then xipModeWrite v h
  else if o = 0x7114 then { h with spp := { h.spp with ecoll := fld v 31 16, aborts := fld v 15 0 } }
  else if 0x7180 ≤ o ∧ o ≤ 0x71A0 ∧ o % 4 = 0 then slaveHostPut h ((o - 0x7180) / 4) v
  else h

/-- A write of a register of the host die (R7). -/
def hostRegWrite (o : Nat) (v : W32) (f : FieldDie) (h : HostDie) : HostDie :=
  if o = 0x40 then hostRstSee v false f h
  else if o < 0x500 then { h with com := comRegWrite h.com .host o v }
  else if 0x2000 ≤ o ∧ o < 0x3000 then cwRegWrite o v f h
  else if 0x3000 ≤ o ∧ o < 0x4000 then dtRegWrite o v f h
  else if 0x5000 ≤ o ∧ o < 0x6000 then bootRegWrite o v h
  else if 0x6000 ≤ o ∧ o < 0x6600 then dmaRegWrite hostDma ((o - 0x6000) / 32) ((o - 0x6000) % 32) v h
  else if 0x7000 ≤ o ∧ o < 0x7800 then sppRegWrite o v h
  else if o = 0x7800 then memCtrlWrite hostOps v h
  else if o = 0x7804 then memStatWrite hostOps v h
  else if o = 0x7808 then memRepairWrite hostOps v h
  else if o = 0x7900 then { h with com := { h.com with hot := h.com.hot && !bit v 28 } }
  else h

def execCoreRst (v : W32) (viaTest : Bool) (s : State) := hostSeeCmd (hostRstSee v viaTest) s
def execSwitchRst (v : W32) (s : State) := hostSeeCmd (hostRstSee v false) s

end Sys2Proof.Machine
end

