-- ==== Sys2Proof/Machine/SenseOps.lean ====
section
/-! DEFINITION. The sounding chain (R217 to R232): configurations, the decimation path, boundaries, compensation sets. -/

namespace Sys2Proof.Machine

/-- A sense channel, and a change of one. -/
def snsAt (s : Sense) (i : Nat) : SnsCh := tget snsCh0 s.ch i
def modSense (f : FieldDie) (g : Sense → Sense) : FieldDie := { f with sns := g f.sns }
def modSns (i : Nat) (h : SnsCh → SnsCh) (f : FieldDie) : FieldDie := modSense f (fun s => { s with ch := tmod snsCh0 s.ch i h })

/-- Fields of a configuration. -/
def snPreset (c : W32) : Nat := fld c 1 0
def snClk (c : W32) : Bool := bit c 4
def snPol (c : W32) : Bool := bit c 5
def snSet (c : W32) : Nat := fld c 10 8

/-- The channel runs. -/
def snsRuns (c : SnsCh) : Bool := (c.en && !c.enWait) || c.stopWait

/-- The clock ball of input `i`'s pair (R217), and whether it runs (R218). -/
def pairClk (s : Sense) (i : Nat) : Nat := b2n (snClk (snsAt s (i / 2 * 2)).used)
def smclkOn (f : FieldDie) (i : Nat) : Bool := f.aud.osc.pllLock && bit f.sns.smclk (2 * pairClk f.sns i)

/-- The output period D, the bits of a window (R221, R225), Settle (R224). -/
def snD (preset : Nat) : Nat := if preset = 0 then 1 else if preset = 1 then 2 else if preset = 2 then 4 else 16
def snWindow (preset : Nat) : Nat := if preset = 0 then 1772 else if preset = 1 then 4716 else if preset = 2 then 10604 else 1024

/-- The active taps of a set. -/
def setTaps (m : Tbl W32) (s : Nat) : List Int := (List.range 32).map (fun t => (firTap m (32 * s + t)).toInt)

/-! ### The decimation path (R219 to R225) -/

/-- One bit into the integrators. -/
def cicBit (r : List Nat) (b : Nat) : List Nat :=
  (r.foldl (fun (p : List Nat × Nat) i => (p.1 ++ [(i + p.2) % 2 ^ 21], (i + p.2) % 2 ^ 21)) ([], b)).1

/-- The comb stages on `v`: the registers and the result. -/
def cicComb (z : List Nat) (v : Nat) : List Nat × Nat :=
  z.foldl (fun (p : List Nat × Nat) k => (p.1 ++ [p.2], (p.2 + 2 ^ 21 - k) % 2 ^ 21)) ([], v)

/-- Sixteen bits through the CIC: the result in Q2.28. -/
def cicStep (c : SnsCh) (bits : List Nat) : SnsCh × Int :=
  let i := bits.foldl cicBit c.integ
  let z := cicComb c.comb (i.getD 4 0)
  ({ c with integ := i, comb := z.1 }, (2 * (z.2 : Int) - 2 ^ 20) * 256)

/-- The 30 bits of a half-band result: where the sum does not fit them, what they hold is free (log entry 4). -/
def fit30 (v : Int) : Int := if fitsN 30 v then v else (Config.hbOver v).toInt

/-- The result of half-band stage `n` over a history, rounded half up to Q2.28. -/
def halfBand (n : Nat) (h : List Int) : Int :=
  fit30 (roundUp ((List.range h.length).foldl (fun (a : Int) t => a + h.getD t 0 * (Config.hbTap n t).toInt) 0) (Config.hbPlaces n))

/-- Every `d`-th of the first `n × d` values of a history. -/
def every (d n : Nat) (h : List Int) : List Int := (List.range n).map (fun t => h.getD (d * t) 0)

/-- Two CIC results through HB1: the result passed on. -/
def hb1Step (c : SnsCh) (a b : Int) : SnsCh × Int :=
  let h := (b :: a :: c.hb1).take 15
  ({ c with hb1 := h }, halfBand 1 h)

/-- The FIR over a history: rounded half up to Q1.31 and saturated, and whether it saturated. -/
def firEval (taps h : List Int) : Int × Bool :=
  let v := roundUp ((taps.zip h).foldl (fun a p => a + p.1 * p.2) 0) 26
  (satN 32 v, !fitsN 32 v)

/-- The FIR with a cross-fade (R231), over the 32 inputs `h`. -/
def firOut (taps : List Int) (c : SnsCh) (h : List Int) : SnsCh × Int :=
  let y := firEval taps h
  match c.fadeFrom with
  | none => ({ c with clipped := c.clipped || y.2, clips := (c.clips + b2n y.2) % 65536 }, y.1)
  | some old =>
    let o := firEval old h
    let i : Int := c.fadeI + 1
    let sat := y.2 || o.2
    ({ c with clipped := c.clipped || sat, clips := (c.clips + b2n sat) % 65536 }, (o.1 * (256 - i) + y.1 * i + 128) / 256)

/-- 64 bits of a tick through the CIC, HB1 and HB2: the sample at fs. -/
def toFs (c : SnsCh) (bits : List Nat) : SnsCh × Int :=
  let a := cicStep c (bits.take 16)
  let b := cicStep a.1 ((bits.drop 16).take 16)
  let p := hb1Step b.1 a.2 b.2
  let d := cicStep p.1 ((bits.drop 32).take 16)
  let e := cicStep d.1 (bits.drop 48)
  let q := hb1Step e.1 d.2 e.2
  let h := (q.2 :: p.2 :: q.1.hb2).take 47
  ({ q.1 with hb2 := h }, halfBand 2 h)

/-- The stages after fs, each evaluated at every tick (R223, R227): the input of the FIR. -/
def toOutput (preset : Nat) (c : SnsCh) (v : Int) : SnsCh × Int :=
  if preset = 0 then (c, v)
  else
    let h3 := (v :: c.hb3).take 47
    let u := halfBand 3 h3
    if preset = 1 then ({ c with hb3 := h3 }, u)
    else
      let h4 := (u :: c.hb4).take 94
      ({ c with hb3 := h3, hb4 := h4 }, halfBand 4 (every 2 47 h4))

/-- The output of tick `j`, where its number is a multiple of D: STEP (R225), or the filtered presets. The first `skip` bits came before a restart
and count for nothing (R229). -/
def snsOutput (taps : List Int) (j skip : Nat) (bits : List Nat) (c : SnsCh) : SnsCh × Option W32 :=
  let preset := snPreset c.used
  let falls := decide (j % snD preset = 0)
  if preset = 3 then
    let s : Int := (bits.drop skip).foldl (fun (a : Int) b => a + (if b = 1 then 1 else -1)) 0
    let box := (s :: c.box).take 16
    ({ c with box := box }, if falls then some (ofI (clampI (-2147483648) 2147483647 (box.foldl (· + ·) 0 * 2 ^ 21))) else none)
  else
    let a := toFs c (List.replicate (min skip 64) 0 ++ bits.drop skip)
    let b := toOutput preset a.1 a.2
    let c := { b.1 with fir := (b.2 :: b.1.fir).take (32 * snD preset) }
    if falls then
      let y := firOut taps c (every (snD preset) 32 c.fir)
      (y.1, some (ofI y.2))
    else (c, none)

/-! ### Configurations, restarts, compensation sets (R228 to R232) -/

/-- A restart (R229); `head`: the bits of its tick that come after it. An output not yet delivered is withheld too. -/
def snsClear (head : Nat) (c : SnsCh) : SnsCh :=
  { c with since := 0, head := head, settling := true, justRst := true, fresh := none, ready := none, idle := none, fadeFrom := none, fadeI := 0, integ := [0, 0, 0, 0, 0], comb := [0, 0, 0, 0, 0], hb1 := [], hb2 := [], hb3 := [],
           hb4 := [], fir := [], box := [] }

/-- A running channel restarts. While passes run it does so at a seam, which `i` bits of the tick follow up to the boundary of input `i` (R226). -/
def snsRestart (i : Nat) (f : FieldDie) : FieldDie := modSns i (fun c => if snsRuns c then snsClear (if f.mer.running then i else 0) c else c) f

/-- Every running channel restarts: a rate change, the end of a retune (R241). -/
def snsRestartAll (f : FieldDie) : FieldDie := (f.sns.ch.map (·.1)).foldl (fun f i => snsRestart i f) f

/-- A channel blends from or to set `s`. -/
def blends (c : SnsCh) (s : Nat) : Bool := c.fadeFrom.isSome && (decide (snSet c.used = s) || decide (c.fadeSet = s))

/-- A configuration changes what restarts the channel. -/
def snsHard (i : Nat) (a b : W32) : Bool :=
  decide (snPreset a ≠ snPreset b) || (snPol a != snPol b) || (decide (i % 2 = 0) && (snClk a != snClk b))

/-- The staged configuration of channel `i` comes into force, or waits for a fade (R231, R232). -/
def snsApply (i : Nat) (f : FieldDie) : FieldDie :=
  let c := snsAt f.sns i
  if !c.dirty then f
  else
    let hard := snsHard i c.cfg c.used
    if !hard ∧ c.fadeFrom.isSome ∧ snSet c.cfg ≠ snSet c.used then modSns i (fun c => { c with defer := true }) f
    else
      let old := setTaps f.sns.firAct (snSet c.used)
      let fades := snsRuns c && !hard && !c.justRst && decide (snSet c.cfg ≠ snSet c.used) && decide (snPreset c.cfg ≠ 3)
      let g := modSns i (fun c =>
        { c with used := c.cfg, dirty := false, defer := false, fadeFrom := if fades then some old else c.fadeFrom,
                 fadeSet := if fades then snSet c.used else c.fadeSet, fadeI := if fades then 0 else c.fadeI }) f
      let g := if hard then snsRestart i g else g
      if i % 2 = 0 ∧ (snClk c.cfg != snClk c.used) then snsRestart (i + 1) g else g

/-- A channel enabled starts, with its staged configuration. -/
def snsStart (i : Nat) (f : FieldDie) : FieldDie :=
  if (snsAt f.sns i).enWait then
    snsRestart i (snsApply i (modSns i (fun c => { c with enWait := false, stopWait := false, fadeFrom := none, fadeI := 0 }) f))
  else f

/-- The dirty sets come into force, but for those that a channel blends (R230 to R232); `pre` is the die before the seam's changes. -/
def firApply (pre f : FieldDie) : FieldDie :=
  (List.range 8).foldl (fun f s =>
    if !f.sns.firDirty.testBit s then f
    else if pre.sns.ch.any (fun e => blends e.2 s) then modSense f (fun q => { q with firDefer := q.firDefer ||| 2 ^ s })
    else
      let old := setTaps pre.sns.firAct s
      let q := f.sns
      let f := modSense f (fun q =>
        { q with firAct := (List.range 32).foldl (fun t k => firPut t (32 * s + k) (firTap q.firSh (32 * s + k))) q.firAct,
                 firDirty := q.firDirty &&& (255 - 2 ^ s), firDefer := q.firDefer &&& (255 - 2 ^ s) })
      (q.ch.filter (fun e => snsRuns e.2 && decide (snSet e.2.used = s) && decide (snPreset e.2.used ≠ 3) && e.2.fadeFrom.isNone && !e.2.justRst)).foldl
        (fun f e => modSns e.1 (fun c => { c with fadeFrom := some old, fadeSet := s, fadeI := 0 }) f) f) f

/-- While no pass runs, each write is a moment of its own: a restart made earlier does not keep a set from fading (R231). -/
def snsMoment (f : FieldDie) : FieldDie :=
  if f.mer.running then f else modSense f (fun s => { s with ch := s.ch.map (fun e => (e.1, { e.2 with justRst := false })) })

/-- A fade of channel `i` is over: while no pass runs, what waited for it comes into force at once (R230, R232). -/
def fadeOver (i : Nat) (f : FieldDie) : FieldDie :=
  if f.mer.running then f
  else
    let g := snsMoment f
    firApply g (snsApply i g)

/-- A channel stops: it no longer fades (R41). -/
def snsStop (i : Nat) (f : FieldDie) : FieldDie :=
  fadeOver i (modSns i (fun c => { c with stopWait := false, settling := false, fadeFrom := none, fadeI := 0 }) f)

/-- Staged settings linked to the groups that commit at a seam (R228, R230). -/
def senseCommit (gs : List Nat) (f : FieldDie) : FieldDie :=
  let g := (f.sns.ch.filter (fun e => e.2.link && gs.contains e.2.cgrp)).foldl (fun f e => snsApply e.1 f) f
  if bit f.sns.firCtl 0 ∧ gs.contains (fld f.sns.firCtl 15 8) then firApply f g else g

/-- Enables come into force at seam slot 7. -/
def senseEnables (f : FieldDie) : FieldDie := (f.sns.ch.map (·.1)).foldl (fun f i => snsStart i f) f

/-- RUNNING becomes 0: everything staged comes into force. -/
def senseStopped (f : FieldDie) : FieldDie :=
  let g := senseEnables f
  firApply g ((g.sns.ch.map (·.1)).foldl (fun f i => snsApply i f) g)

/-- A write of SNS_CFGi. -/
def snsCfgPut (i : Nat) (v : W32) (f : FieldDie) : FieldDie :=
  if 32 ≤ i then f
  else
    let c := snsAt f.sns i
    if c.link ∧ gliding f.cg c.cgrp then modSns i (fun c => { c with refused := true }) f
    else
      let f := modSns i (fun c => { c with cfg := v &&& 0x00000733, dirty := true }) f
      if f.mer.running then f else snsApply i (snsMoment f)

/-- A write of SNS_CTLi. -/
def snsCtlWrite (i : Nat) (v : W32) (f : FieldDie) : FieldDie :=
  if 32 ≤ i then f
  else
    let c := snsAt f.sns i
    let f := modSns i (fun c => { c with link := bit v 1, cgrp := fld v 15 8, refused := c.refused && !bit v 17, en := bit v 0 }) f
    if bit v 0 ∧ !c.en then
      let f := modSns i (fun c => { c with enWait := true }) f
      if f.mer.running then f else snsStart i (snsMoment f)
    else if !bit v 0 ∧ c.en then
      if c.enWait then modSns i (fun c => { c with enWait := false }) f
      else
        let f := modSns i (fun c => { c with stuck := false, stopWait := true }) f
        if smclkOn f i then f else snsStop i f
    else f

/-- A write of SNS_SMCLK (R218, R229): a changed INV restarts the pairs that it times; without a clock no output in progress is left to complete. -/
def smclkPut (v : W32) (f : FieldDie) : FieldDie :=
  let old := f.sns.smclk
  let f := modSense f (fun s => { s with smclk := v &&& 0xF })
  (f.sns.ch.map (·.1)).foldl (fun f i =>
    let k := 2 * pairClk f.sns i + 1
    let f := if bit old k != bit v k then modSns i (fun c => if snsRuns c then snsClear 0 c else c) f else f
    if (snsAt f.sns i).stopWait ∧ !smclkOn f i then snsStop i f else f) f

/-- A write of tap `t` of set `s` (R230). -/
def firWrite (s t : Nat) (v : W32) (f : FieldDie) : FieldDie :=
  if 8 ≤ s ∨ 32 ≤ t then f
  else if bit f.sns.firCtl 0 ∧ gliding f.cg (fld f.sns.firCtl 15 8) then modSense f (fun q => { q with firRef := true })
  else
    let f := modSense f (fun q => { q with firSh := firPut q.firSh (32 * s + t) v, firDirty := q.firDirty ||| 2 ^ s })
    if f.mer.running then f else firApply (snsMoment f) (snsMoment f)

/-- A write of SNS_FIRCTL. -/
def firCtlWrite (v : W32) (f : FieldDie) : FieldDie :=
  modSense f (fun q => { q with firCtl := v &&& 0x0000FF01, firRef := q.firRef && !bit v 1 })

/-! ### Boundaries (R226, R227) and the IN frame -/

/-- SENSE_BOUNDARY: the 64 bits of input `i` up to its boundary after the sample edge of the tick in progress, oldest first. -/
def senseBoundary (i : Nat) (bits : List Bool) (f : FieldDie) : FieldDie :=
  let c := snsAt f.sns i
  if 32 ≤ i ∨ bits.length ≠ 64 ∨ !snsRuns c ∨ !smclkOn f i then f
  else
    let j := f.mer.pcnt
    let preset := snPreset c.used
    let ns := bits.map (fun b => b2n (b != snPol c.used))
    let skip := if c.since = 0 ∧ c.settling then 64 - c.head else 0
    let r := snsOutput (setTaps f.sns.firAct (snSet c.used)) j skip ns { c with since := c.since + 64 }
    let whole := decide (snWindow preset ≤ c.since + c.head)
    let d : SnsCh := match r.2 with
      | some y =>
        if whole then
          { r.1 with fresh := some y, settling := false, fadeFrom := if r.1.fadeI = 255 then none else r.1.fadeFrom,
                     fadeI := if r.1.fadeFrom = none ∨ r.1.fadeI = 255 then 0 else r.1.fadeI + 1 }
        else r.1
      | none => r.1
    let g := modSns i (fun _ => d) f
    if c.stopWait ∧ r.2.isSome then snsStop i g
    else if c.fadeFrom.isSome ∧ d.fadeFrom.isNone then fadeOver i g
    else g

/-- A channel delivers `out` into the frame under capture (words 176 to 207, and 229), or its last output again; `next` moves its outputs on. -/
def sensePut (out : SnsCh → Option W32) (next : SnsCh → SnsCh) (f : FieldDie) : FieldDie :=
  f.sns.ch.foldl (fun f e =>
    let i := e.1
    let v := (out e.2).getD e.2.last
    let f := modSns i (fun c => { next c with last := v, idle := none, justRst := false }) f
    { f with io := { f.io with inBack := tput 0 f.io.inBack (176 + i) v, w229 := if (out e.2).isSome then f.io.w229 ||| 2 ^ i else f.io.w229 } }) f

/-- The capture boundary of a pass: outputs of the tick before (R226). -/
def senseCapture (f : FieldDie) : FieldDie := sensePut (·.ready) (fun c => { c with ready := c.fresh, fresh := none }) f

/-- A tick with no pass: outputs move on, and are not read (R241). -/
def senseIdle (f : FieldDie) : FieldDie :=
  f.sns.ch.foldl (fun f e => modSns e.1 (fun c => { c with idle := c.ready, ready := c.fresh, fresh := none, justRst := false }) f) f

/-- The frame of a first pass whose period began with a wrap to no pass: outputs that this wrap moved on. -/
def senseLate (f : FieldDie) : FieldDie := sensePut (·.idle) id f

/-! ### Stuck inputs (R220) -/

/-- STUCK; `recent`: an EVENT of the input was sent less than 1/16 s ago. -/
def snsStuck (i : Nat) (recent : Bool) (f : FieldDie) : FieldDie :=
  let c := snsAt f.sns i
  if i < 32 ∧ snsRuns c ∧ c.stuck = false then
    let f := modSns i (fun c => { c with stuck := true, stucks := (c.stucks + 1) % 65536 }) f
    if recent then f else fieldEvent f .stuck [w32 i, 1]
  else f

/-- STUCK_CLEAR. -/
def snsUnstuck (i : Nat) (recent : Bool) (f : FieldDie) : FieldDie :=
  let c := snsAt f.sns i
  if i < 32 ∧ c.stuck then
    let f := modSns i (fun c => { c with stuck := false }) f
    if recent then f else fieldEvent f .stuck [w32 i, 0]
  else f

/-! ### Registers as read -/

def snsCtlWord (c : SnsCh) : W32 :=
  w32 (b2n c.defer * 2 ^ 18 + b2n c.refused * 2 ^ 17 + b2n c.dirty * 2 ^ 16 + c.cgrp * 256 + b2n c.link * 2 + b2n c.en)
def snsStatWord (c : SnsCh) : W32 := w32 (b2n c.clipped * 8 + b2n c.stuck * 4 + b2n c.fadeFrom.isSome * 2 + b2n c.settling)
def snsCntWord (c : SnsCh) : W32 := w32 (c.clips * 65536 + c.stucks)
def firCtlWord (s : Sense) : W32 := w32 (s.firDefer * 2 ^ 24 + s.firDirty * 2 ^ 16) ||| s.firCtl ||| bitAt 1 s.firRef

def execSnsCfgWrite (i : Nat) (v : W32) (s : State) := fieldCmd (snsCfgPut i v) s
def execSnsEnableWrite (i : Nat) (v : W32) (s : State) := fieldCmd (snsCtlWrite i v) s
def execSmclkWrite (v : W32) (s : State) := fieldCmd (smclkPut v) s
def execSenseBoundary (i : Nat) (bits : List Bool) (s : State) := fieldCmd (senseBoundary i bits) s
def execStuck (i : Nat) (recent : Bool) (s : State) := fieldCmd (snsStuck i recent) s
def execStuckClear (i : Nat) (recent : Bool) (s : State) := fieldCmd (snsUnstuck i recent) s
def execSnsFirWrite (set tap : Nat) (v : W32) (s : State) := fieldCmd (firWrite set tap v) s

end Sys2Proof.Machine
end

