-- ==== Sys2Proof/Machine/PilotOps.lean ====
section
/-! DEFINITION. The pilot DACs and their sine generators (R233 to R241). -/

namespace Sys2Proof.Machine

/-- A channel, and a change of one. -/
def pdacAt (p : Pilot) (c : Nat) : Pdac := tget pdac0 p.ch c
def modPilot (f : FieldDie) (g : Pilot → Pilot) : FieldDie := { f with pil := g f.pil }
def modPdac (c : Nat) (h : Pdac → Pdac) (f : FieldDie) : FieldDie := modPilot f (fun p => { p with ch := tmod pdac0 p.ch c h })

/-- Fields of PDAC_CTL. -/
def pdEn (d : Pdac) : Bool := bit d.ctl 0
def pdSrc (d : Pdac) : Nat := fld d.ctl 2 1
def pdSpan (d : Pdac) : Nat := fld d.ctl 5 4
def pdDeglitch (d : Pdac) : Bool := bit d.ctl 6

/-! ### Codes (R233, R234) -/

/-- A value limited to the code range of a span. -/
def spanClamp (span : Nat) (v : Int) : Int := if span = 2 then satN 16 v else clampI 0 65535 v

/-- CODE as a value of the span. -/
def codeValue (span : Nat) (code : W32) : Int := if span = 2 then sextN 16 code.toNat else (code.toNat % 65536 : Nat)

/-- e(E) of R234. -/
def feedValue (span : Nat) (e : W32) : Int :=
  if span = 2 then satN 16 ((e.toInt + 2 ^ 15) / 2 ^ 16) else if e.toInt ≤ 0 then 0 else clampI 0 65535 ((e.toInt + 2 ^ 14) / 2 ^ 15)

/-- The code formed from the source, and whether a sum saturated. -/
def formCode (d : Pdac) : W16 × Bool :=
  let span := d.spanUsed
  let v := match pdSrc d with
    | 0 => codeValue span d.code
    | 1 => feedValue span d.feed
    | 2 => codeValue span d.code + d.sine
    | _ => feedValue span d.feed + d.sine
  (BitVec.ofInt 16 (spanClamp span v), decide (2 ≤ pdSrc d) && decide (spanClamp span v ≠ v))

/-! ### Loads (R235 to R238) -/

/-- Internal bits [15:12] of a code (R236). -/
def majorBits (span : Nat) (code : W16) : Nat := (if span = 2 then code ^^^ 0x8000 else code).toNat / 4096

/-- The converter takes a code through the deglitcher. -/
def loadCode (d : Pdac) (code : W16) : Pdac :=
  if pdDeglitch d ∧ majorBits d.spanUsed code ≠ majorBits d.spanUsed d.conv then { d with conv := code, holding := true }
  else if d.holding ∧ pdDeglitch d then { d with conv := code }
  else { d with conv := code, level := code, holding := false }

/-- The safe code at once, past the deglitcher. -/
def loadSafe (d : Pdac) : Pdac := { d with conv := 0, level := 0, holding := false }

/-- A load from the source: not while disabled, in a span sequence, or with the supplies low. -/
def loadSource (low : Bool) (d : Pdac) : Pdac :=
  if !pdEn d ∨ d.spanSeq ≠ 0 ∨ low then d
  else
    let c := formCode d
    let d := loadCode d c.1
    { d with sat := d.sat || c.2 }

/-- Channel `c` is changed and loads. -/
def pdacLoad (c : Nat) (h : Pdac → Pdac) (f : FieldDie) : FieldDie :=
  if 8 ≤ c then f else modPdac c (fun d => loadSource f.pil.supplyLow (h d)) f

/-- A write of PDAC_CTLc (R235, R237, R238). -/
def pdacCtlWrite (c : Nat) (v : W32) (f : FieldDie) : FieldDie :=
  if 8 ≤ c then f
  else
    modPdac c (fun d =>
      let ctl := setBit (setFld (setBit d.ctl 0 (bit v 0)) 2 1 (fld v 2 1)) 6 (bit v 6)
      let e := { d with ctl := if fld v 5 4 = 3 then ctl else setFld ctl 5 4 (fld v 5 4) }
      let e := if !pdEn e then loadSafe e else e
      let e := if e.spanSeq = 0 ∧ pdSpan e ≠ e.spanUsed then { loadSafe e with spanSeq := 1 } else e
      loadSource f.pil.supplyLow e) f

/-- PDAC_SPAN_CLAMP: the ball is clamped at 0 V. -/
def spanClampAt (c : Nat) (f : FieldDie) : FieldDie :=
  if 8 ≤ c then f else modPdac c (fun d => if d.spanSeq = 1 then { d with spanSeq := 2 } else d) f

/-- PDAC_SPAN_RELEASE: the converter loads in the new span. -/
def spanRelease (c : Nat) (f : FieldDie) : FieldDie :=
  if 8 ≤ c then f
  else modPdac c (fun d => if d.spanSeq = 2 then loadSource f.pil.supplyLow { d with spanSeq := 0, spanUsed := pdSpan d } else d) f

/-- DEGLITCH_HOLD_END. -/
def holdEnd (c : Nat) (f : FieldDie) : FieldDie :=
  if 8 ≤ c then f else modPdac c (fun d => if d.holding then { d with holding := false, level := d.conv } else d) f

/-- Every listed channel changed. -/
def mapPdac (h : Nat → Pdac → Pdac) (p : Pilot) : Pilot :=
  { p with ch := (p.ch.map (fun e => (e.1, h e.1 e.2))).filter (fun e => decide (e.2 ≠ pdac0)) }

/-- SUPPLY_LOW (R238). -/
def supplyFall (avddOk avssOk : Bool) (f : FieldDie) : FieldDie :=
  if (avddOk && avssOk) || f.pil.supplyLow then f
  else
    fieldEvent (modPilot f (fun p => mapPdac (fun _ d => if pdEn d then loadSafe d else d) { p with supplyLow := true })) .supplyLow
      [w32 (b2n avddOk + 2 * b2n avssOk)]

/-- SUPPLY_RECOVER: the clamp releases and the channels reload. -/
def supplyBack (f : FieldDie) : FieldDie :=
  if f.pil.supplyLow then modPilot f (fun p => mapPdac (fun _ d => loadSource false d) { p with supplyLow := false }) else f

/-- The sample edge of a tick: the engine feed of the presented frame. A channel that adds a sine value loads once, at the sine update of the
same slot (R235). -/
def pdacEdge (out : Tbl W32) (f : FieldDie) : FieldDie :=
  modPilot f (fun p => (List.range 8).foldl (fun (p : Pilot) c => { p with ch := tmod pdac0 p.ch c (fun d =>
    let d := { d with feed := tget 0 out (80 + c) }
    if pdSrc d = 1 then loadSource p.supplyLow d else d) }) p)

/-! ### The sine generator (R239, R240) -/

/-- π in units of 2^-96. -/
def piFix : Nat := 248902613312231085230521944622

/-- The sine series: `n` terms from the `k`-th, whose value is `term`; everything in units of 2^-96. -/
def sinSum (x2 : Nat) : Nat → Nat → Nat → Int
  | 0, _, _ => 0
  | n + 1, k, term => (term : Int) - sinSum x2 n (k + 1) (term * x2 / 2 ^ 96 / ((2 * k + 2) * (2 * k + 3)))

/-- q[i] of the quarter-wave table. -/
def quarter (i : Nat) : Int :=
  let x := piFix * (2 * i + 1) / 16384
  (65535 * sinSum (x * x / 2 ^ 96) 20 0 x + 2 ^ 95) / 2 ^ 96

/-- s of a phase and an amplitude. -/
def sineOf (phi amp : W32) : Int :=
  let p := fld phi 31 18
  let i := p % 4096
  let m := match p / 4096 with
    | 0 => quarter i
    | 1 => quarter (4095 - i)
    | 2 => -quarter i
    | _ => -quarter (4095 - i)
  (m * (amp.toNat % 65536 : Nat) + 2 ^ 16) / 2 ^ 17

/-- One update edge of a channel; `sync`: the phase is set. -/
def sineStep (low sync : Bool) (d : Pdac) : Pdac :=
  let phi := if sync then d.ph0 else if pdEn d then d.phi + d.ftw else d.phi
  let d := { d with phi := phi }
  if pdEn d then
    let d := { d with sine := sineOf phi d.amp }
    if 2 ≤ pdSrc d then loadSource low d else d
  else d

/-- SINE_UPDATE: update edge `u` of the tick in progress; a sync due at its sample edge is made (R240). -/
def sineUpdate (u : Nat) (f : FieldDie) : FieldDie :=
  if 16 ≤ u ∨ f.aud.osc.pllLock = false then f
  else
    let edge := decide (u = 0) && f.mer.running
    let now := f.pil.pend.filter (fun r => edge && decide (r.tick = f.mer.pcnt))
    let gone := f.pil.pend.filter (fun r => edge && decide (r.tick < f.mer.pcnt))
    let named (c : Nat) : Bool := now.any (fun r => r.mask.testBit c)
    modPilot f (fun p =>
      let all := (List.range 8).foldl (fun (p : Pilot) c => { p with ch := tmod pdac0 p.ch c (sineStep p.supplyLow (named c)) }) p
      let all := gone.foldl (fun (p : Pilot) r => { p with resTag := r.tag, result := 3 }) all
      let all := now.foldl (fun (p : Pilot) r => { p with resTag := r.tag, result := 2 }) all
      { all with pend := all.pend.filter (fun r => !(edge && decide (r.tick ≤ f.mer.pcnt))) })

/-- A sync to tick `t` comes too late (R240). -/
def syncLate (m : Mer) (t : Nat) : Bool := decide (t = 0) || isLate m (t - 1)

/-- A sync asked for: the state and the verdict. -/
def syncAsk (mask t tag : Nat) (f : FieldDie) : FieldDie × Nat :=
  let p := f.pil
  let r :=
    if 2 ≤ p.pend.length then 5
    else if mask % 256 = 0 then 4
    else if p.pend.any (fun q => (q.mask &&& mask) % 256 ≠ 0) then 5
    else if syncLate f.mer t then 3
    else 1
  (modPilot f (fun p => { p with resTag := tag, result := r, pend := if r = 1 then p.pend ++ [⟨mask % 256, t, tag⟩] else p.pend }), r)

/-- A write of the request register. -/
def syncCmdWrite (v : W32) (f : FieldDie) : FieldDie :=
  let f := modPilot f (fun p => { p with syncTag := fld v 31 16 })
  if bit v 0 then (syncAsk f.pil.syncMask.toNat (w64of f.pil.syncLo f.pil.syncHi).toNat (fld v 31 16) f).1 else f

/-- Passes resume (R241): syncs whose tick can no longer be met are refused as late. -/
def syncsRejudge (f : FieldDie) : FieldDie :=
  let late := f.pil.pend.filter (fun r => syncLate f.mer r.tick)
  modPilot f (fun p => late.foldl (fun (p : Pilot) r => { p with resTag := r.tag, result := 3 }) { p with pend := p.pend.filter (fun r => !syncLate f.mer r.tick) })

/-! ### Registers as read -/

def pdacStatWord (low : Bool) (d : Pdac) : W32 :=
  w32 (d.spanUsed * 16 + b2n low * 8 + b2n d.sat * 4 + b2n d.holding * 2 + b2n (decide (d.spanSeq ≠ 0)))
def syncResWord (p : Pilot) : W32 := w32 (p.resTag * 65536 + p.pend.length * 256 + p.result)

/-- PLL_LOCK (R206, R241): the clocks run again, and the sense channels restart. -/
def pllLocked (f : FieldDie) : FieldDie := if f.aud.osc.pllLock then f else snsRestartAll (pllLocks f)

def execFamilyWrite (v : W32) (s : State) := fieldHeard (oscCtlWrite v) s
def execPllLock (s : State) := fieldHeard pllLocked s
def execPdacCodeWrite (c : Nat) (v : W32) (s : State) := fieldCmd (pdacLoad c (fun d => { d with code := v &&& 0xFFFF })) s
def execPdacSrcWrite (c : Nat) (v : W32) (s : State) := fieldCmd (pdacCtlWrite c v) s
def execPdacAmpWrite (c : Nat) (v : W32) (s : State) := fieldCmd (pdacLoad c (fun d => { d with amp := v &&& 0xFFFF })) s
def execPdacFtwWrite (c : Nat) (v : W32) (s : State) :=
  fieldCmd (fun f => if 8 ≤ c then f else modPdac c (fun d => { d with ftw := v }) f) s
def execPdacSpanWrite (c : Nat) (v : W32) (s : State) := fieldCmd (pdacCtlWrite c v) s
def execPdacSpanClamp (c : Nat) (s : State) := fieldCmd (spanClampAt c) s
def execPdacSpanRelease (c : Nat) (s : State) := fieldCmd (spanRelease c) s
def execDeglitchHoldEnd (c : Nat) (s : State) := fieldCmd (holdEnd c) s
def execPdacEnWrite (c : Nat) (v : W32) (s : State) := fieldCmd (pdacCtlWrite c v) s
def execSupplyLow (avddOk avssOk : Bool) (s : State) := fieldCmd (supplyFall avddOk avssOk) s
def execSupplyRecover (s : State) := fieldCmd supplyBack s
def execSineUpdate (u : Nat) (s : State) := fieldCmd (sineUpdate u) s
def execSyncReq (v : W32) (s : State) := fieldCmd (syncCmdWrite v) s

end Sys2Proof.Machine
end

