-- ==== Sys2Proof/Machine/SeamOps.lean ====
section
/-! DEFINITION. The seam (R53), the wrap of the pass timer, the starts and stops of passes, the engine reset (R35, R42 to R57). -/

namespace Sys2Proof.Machine

/-! ### The program's end (R44, R115) -/

/-- A level abandoned at the seam: an active one leaves no count; the preload of a level that is not active stays, the construct whose condition was
false having changed nothing (R86, R115). -/
def lvlSeam (l : Level) : Level := if lvlLive l then { level0 with rpc := if l.act then 0 else l.rpc } else l

/-- A repeat is open (R115): at the seam slot it comes only with the overrun of R44. -/
def repeatOpen (e : Eng) : Bool := lvlLive e.l0 || lvlLive e.l1 || e.repi.isSome

/-- Seam slots 0 to 2: what is in flight completes, open repeats are abandoned, UNDERRUN or OVERRUN counts. -/
def seamFinish (f : FieldDie) : FieldDie :=
  let m := f.mer
  let overrun := m.overran || (decide (seamSlot m ≤ m.slot) && repeatOpen f.eng)
  let under := decide (m.slot < seamSlot m) && !overrun
  let f := flushFly 8 f
  let m := merCount (merCount f.mer 7 (b2n overrun)) 8 (b2n under)
  { f with mer := { m with slot := seamSlot m }, eng := { f.eng with l0 := lvlSeam f.eng.l0, l1 := lvlSeam f.eng.l1, repi := none } }

/-! ### The number of the next pass (R46, R57) -/

/-- The seam realigns the timer with the stray ticks. -/
def realigns (m : Mer) : Bool := m.realignWait && bit m.ctrl 5 && decide (m.srcUse = 0)

/-- The strays of the run are early: one tick is passed over. -/
def realignEarly (m : Mer) : Bool := realigns m && decide (m.strayLast < 0)

/-- The index of the next pass's tick. -/
def nextTick (m : Mer) : Nat := m.tix + 1 + b2n (realignEarly m)

/-- The number of the next pass and whether a TIME_MARK conflicts with the count. -/
def nextNumber (m : Mer) : Nat × Bool :=
  let base := m.pcnt + 1 + b2n (realignEarly m)
  if m.srcUse = 0 then compareMarks m (nextTick m) base else (base, false)

/-- A realignment made (R57, R452). -/
def realignMake (f : FieldDie) : FieldDie :=
  let m := f.mer
  if realigns m then
    let r := { trackReset (merCount m 4 1) with realignWait := false, phased := true, tix := m.tix + b2n (realignEarly m),
                                                ext := (m.strayLast % (merN m : Int)).toNat, tickCur := none, tickNext := none }
    fieldEvent { f with mer := r } .realign [w32 m.pcnt]
  else modMer f (fun m => { m with ext := 0 })

/-! ### Frames (R58 to R62, R338) -/

/-- The level of a pass of a mute: how many of 64 parts the words lose. -/
def muteNext (f : FieldDie) : Nat := if f.muting then min 64 (f.mute + 1) else f.mute - 1

/-- The OUT frame as presented: SAP outputs and return words under the mute. -/
def muteFrame (m : Nat) (t : Tbl W32) : Tbl W32 :=
  if m = 0 then t
  else (t.map (fun e => (e.1, if e.1 < 80 then fadeWord e.2 (64 - m) else e.2))).filter (fun e => decide (e.2 ≠ 0))

/-- The capture boundary for pass `num` (slots 3 and 4). -/
def seamCapture (num : Nat) (w226 : Nat) (f : FieldDie) : FieldDie :=
  let gone := (f.io.frames.filter (fun c => decide (f.mer.pcnt < c.pass) && decide (c.pass < num))).length
  let t := tickWord f.com f.mer
  let f := senseCapture (audioCapture { f with com := t.1 })
  frameDrop (captureIn num w226 t.2 f) gone

/-- The OUT swap of pass `n` (slot 5), with the capture feeds and the slave groups' outputs. -/
def seamOut (n : Nat) (f : FieldDie) : FieldDie :=
  let m := muteNext f
  let out := muteFrame m f.io.outFront
  let feeds := (List.range 64).map (fun k => tget 0 f.io.outFront (88 + k))
  let f := modSilt { f with mute := m, io := { f.io with outNext := out, outFront := [] } } (capRecord n feeds)
  audioOut out f

/-! ### Commits and the swap (slots 7 and 8) -/

/-- Settings that the commit brings into force, and enables. -/
def seamCommit (num : Nat) (f : FieldDie) : FieldDie :=
  let gs := committedGroups (num - 1) f.cg
  senseEnables (audioEnables (senseCommit gs (audioCommit gs (commitSeam (num - 1) f))))

/-- The swap due at the seam before pass `num`. -/
def swapDue (m : Mer) (num : Nat) : Option SwapReq := m.swap.filter (fun r => decide (r.pass < num))

/-- The tables armed for a swap become active (R137, R161). -/
def armsTake (f : FieldDie) : FieldDie :=
  let f := if f.eng.uArm then { f with eng := { uCopy f.eng with uArm := false } } else f
  if f.cg.bindArm then modCg f (fun c => { bindTake c with bindArm := false }) else f

/-- The swap made (R67, R70, R71, R73). -/
def seamSwap (num : Nat) (f : FieldDie) : FieldDie :=
  match swapDue f.mer num with
  | none => f
  | some r =>
    let chg := decide (rateAt f.mer num ≠ rateOf f.mer)
    let f := modMer f (fun m => { m with store1 := !m.store1, swap := none, swapResult := 2,
                                         ctrl := match r.newRate with
                                           | some k => setFld m.ctrl 11 8 k
                                           | none => m.ctrl })
    let f := armsTake { f with eng := engClear f.eng, bk := xMarkRegions f.mer.keep f.bk }
    if chg then snsRestartAll (audioRate f) else f

/-! ### MAC shadowing (slot 9, R418) -/

/-- The mismatch of the pass resolved. -/
def macResolve (mm : Option MacMismatch) (f : FieldDie) : FieldDie :=
  match mm with
  | none => f
  | some r =>
    if f.retired ≠ 0 then f
    else
      let n := f.mer.pcnt
      let g := fieldEvent { f with macCnt := ctrAdd f.macCnt 0 1, macPc := w32 n } .macMismatch [w32 n]
      if r.unitFails = r.shadowFails then { g with macCnt := ctrAdd g.macCnt 1 1, ambig := true }
      else
        let k := if r.shadowFails then 3 else if n % 2 = 0 then 1 else 2
        fieldFault (takeSpare fieldOps { g with retired := k } ⟨12, 0⟩) 0x102 [w32 k, w32 n]

/-! ### The seam (R53) -/

/-- SEAM: the pass ends; `mm` is the mismatch of its MAC units, where there was one. -/
def seam (mm : Option MacMismatch) (f : FieldDie) : FieldDie :=
  if f.mer.running = false ∨ f.mer.seamDone then f
  else
    let f := seamFinish f
    let n := f.mer.pcnt
    let rate := rateOf f.mer
    let j := nextTick f.mer
    let num := nextNumber f.mer
    let realigned := realigns f.mer
    let jumped := decide (n + 1 < num.1)
    let w226 := statusWord (classAt f.mer j) (rateAt f.mer num.1) f.mer.coast realigned jumped (swapDue f.mer num.1).isSome
    let f := if num.2 then setConflict f else f
    let f := seamCapture num.1 w226 f
    let f := realignMake (modMer f (fun m => marksTo (merCount m 9 (num.1 - (n + 1))) j))
    let f := seamOut n f
    let f := siltSeam6 num.1 f
    let f := seamSwap num.1 (seamCommit num.1 f)
    let f := macResolve mm (repairSeam fieldOps f)
    { modMer f (fun m => { m with pcnt := num.1, lastPass := n, lastRate := rate, seamDone := true, srcUse := fld m.ctrl 2 1 }) with eng := { f.eng with ip := 0 } }

/-! ### Starts and stops (R35, R46 to R51) -/

/-- Pass `n` starts. A first pass after a stop takes an IN frame captured in the period before it (R50), whose words stand ready. -/
def passStart (n : Nat) (jumped : Bool) (f : FieldDie) : FieldDie :=
  let m := f.mer
  let cls := statusWord (classAt m m.tix) (rateOf m) m.coast false jumped false
  let f := captureIn n cls 0 f
  let f := bundlesRejudge n (modMer f (fun m =>
    swapRejudge { m with running := true, ran := true, pend := .none, pcnt := n, slot := 0, seamDone := false, overran := false, realignWait := false } n))
  syncsRejudge { f with eng := { f.eng with ip := 0 } }

/-- RUNNING becomes 0: staged settings of ports and sense channels come into force, outputs read zero. -/
def passesStopped (f : FieldDie) : FieldDie :=
  let f := { f with mer := { f.mer with running := false, stopReq := false, seamDone := false, overran := false },
                    io := { f.io with outPres := [], outNext := [], presented := false } }
  siltActive (senseStopped (audioStopped f))

/-- The engine reset applied (R35): engine registers, sequencer, frame buffers and streamer state go; what R32 lists stays. -/
def resetApply (f : FieldDie) : FieldDie :=
  let between := f.mer.seamDone
  let f := siltReset f
  let f := passesStopped f
  let m := { f.mer with seamDone := between }
  let m := { trackReset m with coast := false, realignWait := false, famRefused := false, tickErr := 0, missRun := 0, tickCur := none,
                               tickNext := none, pend := .none, ext := 0 }
  let io := { f.io with inFront := [], inBack := [], outFront := [], outPres := [], outNext := [], presented := false, frames := [], lastUsed := [], frameLate := false,
                        w228 := 0, w229 := 0, w230 := 0 }
  oscHold (rsmpRelockAll (modOsc (fun o => { o with chainGone := o.chainGone || (o.hold && decide (oscMode o = 1)) })
    { f with erReq := false, erHeld := true, mer := m, eng := engClear f.eng, io := io }))

/-- ENGINE_RST: the request (R35). -/
def engineRst (v : W32) (f : FieldDie) : FieldDie :=
  if fld v 31 16 = 0xA5C3 ∧ bit v 1 then
    let f := { f with com := { f.com with rstCause := setBit f.com.rstCause 2 true } }
    if f.mer.running then { f with erReq := true } else resetApply f
  else f

/-- ENGINE_RESET_APPLY: at the end of the seam of the pass in which it was requested. -/
def engineApply (f : FieldDie) : FieldDie := if f.erReq ∧ (f.mer.running = false ∨ f.mer.seamDone) then resetApply f else f

/-- ENGINE_RESET_RELEASE: passes resume as R35 states. -/
def engineRelease (f : FieldDie) : FieldDie :=
  if f.erHeld then
    let m := { f.mer with numConflict := false }
    let src := fld m.ctrl 2 1
    let m := if bit m.ctrl 0 then
        { m with srcUse := src, pend := if src ≠ 0 then .local else if markHeld m then .chain true false else .chain false true }
      else m
    centreAll { f with erHeld := false, mer := m }
  else f

/-- A wrap of the timer while no pass runs (R35, R51): the count goes on, and the pass number of the period that ends goes by. At the wrap that follows the
seam at which an engine reset was applied nothing goes by yet: that seam set PCNT to the number of the period that begins. -/
def idleTick (m : Mer) : Mer :=
  if m.seamDone then { m with seamDone := false }
  else if m.ran then { merCount m 9 1 with pcnt := m.pcnt + 1, lastPass := m.pcnt, lastRate := rateOf m }
  else m

/-- The sample edge of a tick: ports and pilot DACs take the presented frame. -/
def sampleEdge (f : FieldDie) : FieldDie := pdacEdge f.io.outPres (audioEdge f.io.outPres f)

/-- STREAM_RET for the tick of this wrap, once a pass has run (R451); `ran`: before this wrap. -/
def retAtTick (ran : Bool) (f : FieldDie) : FieldDie := if ran then streamRetSend f else f

/-- The words of ports and sense channels for a first pass that begins at the wrap of the period in which they were taken. -/
def firstCapture (f : FieldDie) : FieldDie := senseCapture (audioCapture { f with io := { f.io with inBack := [], w228 := 0, w229 := 0, w230 := 0 } })

/-- The same for a first pass whose period began with a wrap to no pass. -/
def lateCapture (f : FieldDie) : FieldDie := senseLate (audioLate f)

/-- The capture boundary of a tick with no pass. -/
def idleCapture (f : FieldDie) : FieldDie := senseIdle (audioIdle f)

/-- PASS_TIMER_WRAP (R42, R50, R51): slot 0. -/
def passWrap (f : FieldDie) : FieldDie :=
  let f := seam none f
  let ran := f.mer.ran
  let f := modMer f (fun m => { m with tix := if m.phased then m.tix + 1 else m.tix })
  if f.mer.running then
    if f.erReq then sampleEdge (retAtTick ran (modMer (resetApply f) idleTick))
    else if f.mer.stopReq then
      let f := capFreeze 3 (passesStopped f)
      let f := if bit f.mer.ctrl 0 then modMer f armStart else f
      sampleEdge (retAtTick ran f)
    else
      let f := { f with io := { f.io with outPres := f.io.outNext, outNext := [], presented := true } }
      sampleEdge (retAtTick ran (modMer f (fun m => tickTurn { m with slot := 0, seamDone := false, overran := false })))
  else
    let f := modMer f (fun m => tickTurn (idleTick m))
    let due := firstDue { f.mer with tix := f.mer.tix - 1, ran := false }
    let n := if f.mer.ran then f.mer.pcnt else due.getD 0
    let f := if f.mer.pend = .local ∧ f.erHeld = false ∧ familyOk f then passStart n false (firstCapture f) else idleCapture f
    sampleEdge (retAtTick ran f)

/-- The tick of FIRST_PASS_START came before the wrap of a timer in phase: its wrap is here. -/
def wrapIsHere (m : Mer) : Bool := m.phased && m.tickNext.isSome

/-- That wrap. -/
def earlyWrap (f : FieldDie) : FieldDie :=
  if wrapIsHere f.mer then retAtTick f.mer.ran (modMer f (fun m => { idleTick m with tix := m.tix + 1 })) else f

/-- FIRST_PASS_START (R35, R47): a tick that a TIME_MARK identifies; the timer is set in phase with it. -/
def firstStart (f : FieldDie) : FieldDie :=
  match f.mer.pend with
  | .chain renum lock =>
    if f.mer.running ∨ f.erHeld ∨ (lock ∧ f.com.weir.tickLock = false) ∨ familyOk f = false then f
    else
      let here := wrapIsHere f.mer || !f.mer.phased
      let g := earlyWrap f
      match markAt g.mer g.mer.tix with
      | none => f
      | some k =>
        let m := g.mer
        let c := compareMarks m m.tix m.pcnt
        let n := if renum ∨ m.ran = false then markNum k m.tix else c.1
        let g := if !renum ∧ m.ran ∧ c.2 then setConflict g else g
        let skip := if m.ran ∧ !renum then n - m.pcnt else 0
        let g := modMer g (fun m =>
          { trackReset (marksTo (merCount m 9 skip) m.tix) with phased := true, tickCur := some ⟨0, false, false, false⟩, tickNext := none, missRun := 0 })
        let g := passStart n (decide (0 < skip)) (if here then firstCapture g else lateCapture g)
        if here then sampleEdge g else g
  | _ => f

/-! ### Ticks -/

/-- A tick that the pass or the oscillator takes: no stray. -/
def tickTaken (e : Int) (m : Mer) : Bool :=
  !m.running || (decide (m.srcUse = 0) && decide (-64 ≤ e) && decide (e ≤ 64) && (if 0 ≤ e then m.tickCur.isNone else m.tickNext.isNone))

/-- TICK_EDGE: the tick error `e` in slots, and the phase `ph` in units of 12.5 ps. -/
def tickEdge (e ph : Int) (f : FieldDie) : FieldDie :=
  let took := tickTaken e f.mer
  let f := if took then modOsc (fun o => { o with chainGone := false }) f else f
  let g := oscHold (tickClass e (weirTick f))
  if took then oscTick ph g else g

def execTickEdge (e ph : Int) (s : State) := fieldHeard (tickEdge e ph) s
def execTickMissing (s : State) := fieldHeard (fun f => oscHold (tickMiss f)) s
/-- A write of MER_CTRL, and what a change of RATE brings to the oscillator (R205) and the resampler (R210). -/
def merCtrlSet (v : W32) (f : FieldDie) : FieldDie :=
  let g := merCtrlWrite v f
  if rateOf g.mer = rateOf f.mer then g else oscHold (rsmpRelockAll g)

def execRunWrite1 (v : W32) (s : State) := fieldHeard (merCtrlSet v) s
def execRunWrite0 (v : W32) (s : State) := fieldHeard (merCtrlSet v) s
def execFirstPassStart (s : State) := fieldHeard firstStart s
def execEngineRst (v : W32) (s : State) := fieldHeard (engineRst v) s
def execEngineResetApply (s : State) := fieldHeard engineApply s
def execEngineResetRelease (s : State) := fieldHeard engineRelease s

/-- A write of CG_DESCg (R147). -/
def cgDescWrite (g : Nat) (v : W32) (f : FieldDie) : FieldDie :=
  if 256 ≤ g then f
  else if descBad f.cg g v then modCg f (fun c => { c with refused := tput false c.refused g true })
  else descPut g v f

def execCgDescWrite (g : Nat) (v : W32) (s : State) := fieldCmd (cgDescWrite g v) s

end Sys2Proof.Machine
end

