-- ==== Sys2Proof/Machine/FieldRegs.lean ====
section
/-! DEFINITION. The field bus of the DMA, and the registers of the field die: what each reads as, and what a write of each does (R7, R8). -/

namespace Sys2Proof.Machine

/-! ### Field masters and the seam (R141, R151, R157) -/

/-- X, Y and the active program store serve no master in seam slots 0 to 10 (R141): an access that comes when the seam is due waits for it. -/
def bankWaits (f : FieldDie) (id : BankId) : Bool :=
  isLate f.mer f.mer.pcnt && (decide (id = .x) || decide (id = .y) || decide (id = if f.mer.store1 then .p1 else .p0))

/-- The grant of an access to a bank: at once, or after the seam that it waits for. A write so delayed is part of the next commit (R151), a read so
delayed sees what the pass that follows reads (R157). -/
def bankGrant (id : BankId) (f : FieldDie) : FieldDie := if bankWaits f id then seam none f else f

/-- The grant of an access at a field-bus address. -/
def busGrant (a : Nat) (f : FieldDie) : FieldDie :=
  match fieldTarget a with
  | some (_, id, _) => bankGrant id f
  | none => f

/-- An access of the field controller to a bank or an alias once it is granted (R138, R145): one word, or a byte or halfword within a word. -/
def bankServe (a : BusAcc) (f : FieldDie) : FieldDie :=
  if ¬ (a.size = 1 ∨ a.size = 2 ∨ a.size = 4) ∨ a.addr % a.size ≠ 0 then f
  else
    let off := a.addr % 4
    match fieldTarget a.addr with
    | none =>
      if fieldGap a.addr then
        let g := bankFlag f 0
        if a.write.isSome then g else setRead g 0
      else f
    | some (.plain, id, o) =>
      match a.write with
      | some v => masterWrite f id (o / 4) off (bytesLE a.size v.toNat)
      | none =>
        let r := masterRead f id (o / 4)
        if r.1.com.faults.length = f.com.faults.length then setRead r.1 (subWord r.2 off a.size) else accEnd true r.1
    | some (k, id, o) =>
      if a.size ≠ 4 then
        let g := bankFlag f 1
        if a.write.isSome then g else setRead g 0
      else
        match k, a.write with
        | .add, some v =>
          let r := masterRead f id (o / 4)
          masterWrite r.1 id (o / 4) 0 (bytesLE 4 (r.2 + v).toNat)
        | .add, none =>
          let r := masterRead f id (o / 4)
          setRead (masterWrite r.1 id (o / 4) 0 (bytesLE 4 (r.2 + f.bk.atArg).toNat)) r.2
        | _, some v => masterWrite f id (o / 4) 0 (bytesLE 4 v.toNat)
        | _, none =>
          let r := masterRead f id (o / 4)
          setRead (masterWrite r.1 id (o / 4) 0 (bytesLE 4 f.bk.atArg.toNat)) r.2

/-- An access of the field controller to a bank or an alias. -/
def bankAccess (a : BusAcc) (f : FieldDie) : FieldDie := bankServe a (busGrant a.addr f)

/-! ### The field bus as the DMA reaches it (R138, R145, R164, R377) -/

/-- The bytes from offset `o` of a bank are its cells themselves: no frame buffer, marked word, paged word or streamer word. -/
def cellsOnly (f : FieldDie) (id : BankId) (o n : Nat) : Bool :=
  match id with
  | .x => decide (2048 ≤ o) && (List.range ((n + 7) / 4)).all (fun i => !xMarked f.bk (o / 4 + i))
  | .y => decide (0x40000 ≤ o)
  | .z => decide (o + n ≤ 0x80000)
  | _ => true

/-- Words of a bank as field masters read them. -/
def masterWords (id : BankId) : Nat → Nat → FieldDie → FieldDie × List Byte
  | _, 0, f => (f, [])
  | w, k + 1, f =>
    let r := masterRead f id w
    let q := masterWords id (w + 1) k r.1
    (q.1, bytesLE 4 r.2.toNat ++ q.2)

/-- Bytes of a bank as the DMA reads them: none where an uncorrectable codeword was met, which has left its fault record. -/
def masterBytes (f : FieldDie) (id : BankId) (o n : Nat) : FieldDie × Option (List Byte) :=
  if cellsOnly f id o n then fieldReadBank f id o n
  else
    let r := masterWords id (o / 4) ((o % 4 + n + 3) / 4) f
    (r.1, if r.1.com.faults.length = f.com.faults.length then some (slice r.2 (o % 4) n) else none)

/-- A read on the field bus (R377, R386). -/
def fieldBusRd (f : FieldDie) (a n : Nat) : FieldDie × BusRes :=
  if 0x20000000 ≤ a ∧ a + n ≤ 0x30000000 then
    match silRead (winAddr f.silt a) n f with
    | (g, some b) => (g, .ok b)
    | (g, none) => (g, .err 2)
  else
    let f := busGrant a f
    match fieldTarget a with
    | none => (if fieldGap a then bankFlag f 0 else f, .err 2)
    | some (.plain, id, o) =>
      match masterBytes f id o n with
      | (g, some b) => (g, .ok b)
      | (g, none) => (g, .err 3)
    | some (_, id, o) =>
      (splitAcc 32 o (List.replicate n 0)).foldl (fun (p : FieldDie × BusRes) x =>
        match p.2 with
        | .err k => (p.1, .err k)
        | .wait => p
        | .ok bs =>
          if x.2.length < 4 then (bankFlag p.1 1, .ok (bs ++ x.2))
          else match masterBytes p.1 id x.1 x.2.length with
            | (g, some b) => (g, .ok (bs ++ b))
            | (g, none) => (g, .err 3)) (f, .ok [])

/-- Bytes cut at the word boundaries that they cross. -/
def wordPieces : Nat → Nat → List Byte → List (Nat × List Byte)
  | 0, _, _ => []
  | k + 1, o, bs => if bs = [] then [] else (o, bs.take (4 - o % 4)) :: wordPieces k (o + 4 - o % 4) (bs.drop (4 - o % 4))

/-- A write on the field bus (R377, R382). -/
def fieldBusWr (f : FieldDie) (a : Nat) (bs : List Byte) : FieldDie × Bool :=
  if 0x20000000 ≤ a ∧ a + bs.length ≤ 0x30000000 then silWrite (winAddr f.silt a) bs f
  else
    let f := busGrant a f
    match fieldTarget a with
    | none => (if fieldGap a then bankFlag f 0 else f, false)
    | some (k, id, o) =>
      if k = .plain ∧ f.eng.fly = [] ∧ cellsOnly f id o bs.length then (fieldWriteBank f id o bs, true)
      else
        ((wordPieces 8 o bs).foldl (fun f p =>
          if k = .plain then masterWrite f id (p.1 / 4) (p.1 % 4) p.2
          else if p.2.length < 4 then bankFlag f 1
          else if k = .add then
            let r := masterRead f id (p.1 / 4)
            masterWrite r.1 id (p.1 / 4) 0 (bytesLE 4 (r.2.toNat + ofBytesLE p.2))
          else masterWrite f id (p.1 / 4) 0 p.2) f, true)

/-- The bank of a ring on the field side (R378). -/
def fieldRing (a : Nat) : Option BankId :=
  match fieldBase a with
  | some (id, _) => if id = .f ∨ id = .x ∨ id = .y ∨ id = .z then some id else none
  | none => none

/-- The field DMA. -/
def fieldDma : DmaBus FieldDie :=
  { get := fun f => f.com.dma, set := fun f e => { f with com := { f.com with dma := e } }, rd := fieldBusRd, wr := fieldBusWr,
    ring := fun a => (fieldRing a).isSome, count := 16, zeros := fun a => if fieldRing a = some .f then 4 else 12, spp := fun _ _ => false }

/-! ### The controller reset (R32, R40, R365, R368) -/

/-- What a field ROM that finds VOID does (R347): RUN 0, every SAP and pilot DAC disabled. -/
def fieldVoid (f : FieldDie) : FieldDie :=
  let f := merCtrlWrite (f.mer.ctrl &&& 0xFFFFFFFE) f
  let f := (List.range 24).foldl (fun f p => sapCtlWrite p (w32 (256 * (sapAt f.aud p).cgrp + 2 * b2n (sapAt f.aud p).link)) f) f
  (List.range 8).foldl (fun f c => pdacCtlWrite c ((pdacAt f.pil c).ctl &&& 0xFFFFFFFE) f) f

/-- The controller reset: the field DMA is disabled and the field ROM waits for an image; `cause` holds the bits that RST_CAUSE takes. -/
def ctrlReset (cause : W32) (f : FieldDie) : FieldDie :=
  let f := dmaDisableAll fieldDma f
  let f := { f with com := { f.com with rstCause := f.com.rstCause ||| cause },
                    fb := { f.fb with inRom := true, ident := none, next := 0, quarter := 0, block := [], missing := false, man := [], hashes := [],
                                      rootLock := false } }
  if lcFieldIn f = 4 then fieldVoid f else f

/-- A write of RST_CTRL on the field die (R33). -/
def fieldRst (v : W32) (f : FieldDie) : FieldDie :=
  if fld v 31 16 ≠ 0xA5C3 then f
  else
    let f := engineRst v f
    if bit v 0 then ctrlReset 2 f else f

/-! ### Registers as read -/

/-- BOOT_STAT of the field die. -/
def fieldBootStat (f : FieldDie) : W32 :=
  w32 (f.fb.verdict % 256 * 256 + 32 * b2n (bit f.com.testCtrl 2) + 16 * b2n f.fb.unver + lcOf f.com.fuses % 8)

/-- Registers of the sequencer and the engine, offsets 1000h to 1FFFh. -/
def merReg (f : FieldDie) (o : Nat) : W32 :=
  let m := f.mer
  if o = 0x1000 then m.ctrl else if o = 0x1004 then merStat f.com.weir.tickLock m else if o = 0x1008 then w32 m.pcnt else if o = 0x100C then m.pcntLatch
  else if o = 0x1010 then m.swapLo else if o = 0x1014 then m.swapHi else if o = 0x1018 then swapCtlWord m else if o = 0x101C then m.keep
  else if o = 0x1020 then m.plen0 else if o = 0x1024 then m.plen1 else if o = 0x1028 then merTick m
  else if 0x1040 ≤ o ∧ o < 0x1068 ∧ o % 4 = 0 then ctrGet m.cnt ((o - 0x1040) / 4)
  else if o = 0x1068 then satWord m.cnt else if o = 0x1080 then f.eng.fault
  else if o = 0x1084 then (match f.eng.first with | some r => w32 (2 ^ 31 + r.kind % 8 * 65536 + r.slot % 65536) | none => 0)
  else if o = 0x1088 then (match f.eng.first with | some r => r.pass | none => 0)
  else if o = 0x1090 then uctlWord f.eng else if o = 0x1094 then lo32 f.eng.ulenSh else if o = 0x1098 then hi32 f.eng.ulenSh
  else 0

/-- Registers of groups, bindings and banks, offsets 2000h to 5FFFh. -/
def bankReg (f : FieldDie) (o : Nat) : W32 :=
  let c := f.cg
  if 0x2000 ≤ o ∧ o < 0x2800 ∧ o % 4 = 0 then tget 0 f.eng.dtSh ((o - 0x2000) / 4)
  else if 0x3000 ≤ o ∧ o < 0x3400 ∧ o % 4 = 0 then cgDesc c ((o - 0x3000) / 4)
  else if 0x3400 ≤ o ∧ o < 0x3800 ∧ o % 4 = 0 then cgStat f ((o - 0x3400) / 4)
  else if o = 0x3800 then c.cmd else if o = 0x3804 then c.passLo else if o = 0x3808 then c.passHi else if o = 0x380C then cgResult c
  else if o = 0x3810 ∨ o = 0x3814 then ctrGet c.cnt ((o - 0x3810) / 4) else if o = 0x3818 then satWord c.cnt
  else if 0x3820 ≤ o ∧ o < 0x38A0 ∧ o % 4 = 0 then tget 0 c.masks ((o - 0x3820) / 4)
  else if o = 0x38C0 then bindCtlWord c else if o = 0x3900 then f.bk.stat else if o = 0x3904 then f.bk.atArg else if o = 0x3908 then f.bk.zbusy
  else if 0x4000 ≤ o ∧ o < 0x6000 ∧ o % 4 = 0 then tget 0 c.bindSh ((o - 0x4000) / 4) else 0

/-- The third word of a delay line, and of a clip. -/
def lineCtl (n : Line) : W32 := w32 (4 * b2n n.uncorr + 2 * b2n n.refused + b2n n.en)
def clipCtl (c : Clip) : W32 := w32 (16 * b2n c.uncorr + 8 * b2n c.refused + 4 * b2n c.done + 2 * b2n c.playing + b2n c.loop)

/-- The status word of a tap. -/
def tapStat (t : TapSt) : W32 :=
  w32 (256 * b2n t.held + 128 * b2n t.refused + 64 * b2n t.rateOff + 32 * b2n t.noline + 16 * b2n t.clamped + 8 * b2n t.defer +
    4 * b2n t.glideA.isSome + 2 * b2n t.staged.isSome + b2n t.valid)

/-- A word of tap entry `e`. -/
def tapReg (s : Silt) (e k : Nat) : W32 :=
  let t := tapAt s e
  if k = 0 then t.cfg else if k = 4 then w32 (delayShown t) else if k = 8 then w32 (delayShown t / 2 ^ 32) else if k = 12 then tapStat t
  else if k = 16 then w32 t.used else if k = 20 then t.latch else 0

/-- SILT_STAT. -/
def siltStat (s : Silt) : W32 := w32 (8 * b2n s.refused + 4 * b2n s.winErr + 2 * b2n s.active + b2n s.ready)

/-- The status word of the capture ring. -/
def capStat (c : Capture) : W32 :=
  w32 (128 * b2n c.refused + c.cause % 8 * 16 + 8 * b2n c.wrapped + 4 * b2n c.frozen + 2 * b2n c.triggered + b2n c.armed)

/-- The result word of playback. -/
def pbResWord (s : Silt) : W32 := w32 (s.pbResTag * 65536 + s.pbPend.length * 256 + s.pbResult)

/-- The control and capture registers of Silt, offsets 1C000h to 1C7FFh. -/
def siltCtlReg (s : Silt) (o : Nat) : W32 :=
  let c := s.cap
  if o = 0x1C000 then w32 (b2n s.en) else if o = 0x1C004 then siltStat s else if o = 0x1C008 then s.win
  else if o = 0x1C100 then c.base else if o = 0x1C104 then c.frames else if o = 0x1C108 then c.ctl else if o = 0x1C10C then c.post
  else if o = 0x1C110 then capStat c else if o = 0x1C114 then w32 (c.count - 1) else if o = 0x1C118 then w32 c.tpass else if o = 0x1C11C then c.tpLatch
  else if o = 0x1C120 then c.headLatch else if o = 0x1C124 then c.slotLatch
  else if o = 0x1C200 then s.pbMaskLo else if o = 0x1C204 then s.pbMaskHi else if o = 0x1C208 then s.pbPassLo else if o = 0x1C20C then s.pbPassHi
  else if o = 0x1C210 then w32 (s.pbTag * 65536) else if o = 0x1C214 then pbResWord s
  else if 0x1C300 ≤ o ∧ o < 0x1C314 ∧ o % 4 = 0 then ctrGet s.cnt ((o - 0x1C300) / 4) else if o = 0x1C314 then satWord s.cnt
  else if 0x1C400 ≤ o ∧ o < 0x1C800 then
    let k := clipAt s ((o - 0x1C400) / 16)
    if o % 16 = 0 then k.base else if o % 16 = 4 then k.len else if o % 16 = 8 then clipCtl k else if o % 16 = 12 then w32 k.pos else 0
  else 0

/-- The registers of Silt, offsets 8000h to 1FFFFh. -/
def siltReg (s : Silt) (o : Nat) : W32 :=
  if o < 0xC000 then
    let n := lineAt s ((o - 0x8000) / 16)
    if o % 16 = 0 then n.base else if o % 16 = 4 then n.len else if o % 16 = 8 then lineCtl n else if o % 16 = 12 then w32 n.pos else 0
  else if o < 0x1C000 then tapReg s ((o - 0xC000) / 32) ((o - 0xC000) % 32)
  else siltCtlReg s o

/-- A word of port `p`, of slave group `g`, of resampler channel `j`. -/
def sapReg (a : Audio) (p k : Nat) : W32 :=
  let s := sapAt a p
  if k = 0 then s.cfg else if k = 4 then s.used else if k = 8 then sapCtlWord s else if k = 12 then sapStatWord s else if k = 16 then s.rate
  else if k = 20 then w32 s.dev.toNat else if k = 24 then sapCntWord s else 0
def grpReg (a : Audio) (g k : Nat) : W32 :=
  let q := grpAt a g
  if k = 0 then w32 q.ref else if k = 4 then w32 q.refUsed else if k = 8 then grpCtlWord q else if k = 12 then grpStatWord a g
  else if k = 16 then grpCntWord q else 0
def rsmpReg (a : Audio) (j k : Nat) : W32 :=
  let c := rsmpAt a j
  if k = 0 then w32 c.src else if k = 4 then w32 c.srcUsed else if k = 8 then rsmpCtlWord c else if k = 12 then rsmpStatWord c
  else if k = 16 then c.ratio else if k = 20 then c.delay else 0

/-- The registers of ports and clocks, offsets 20000h to 20FFFh. -/
def audReg (a : Audio) (o : Nat) : W32 :=
  if o < 0x20300 then sapReg a ((o - 0x20000) / 32) (o % 32)
  else if 0x20400 ≤ o ∧ o < 0x20480 then grpReg a ((o - 0x20400) / 32 + 1) (o % 32)
  else if o = 0x20500 then a.mclk else if o = 0x20600 then oscCtlWord a.osc else if o = 0x20604 then a.osc.trim else if o = 0x20608 then a.osc.freq
  else if o = 0x2060C then oscStatWord a.osc else if o = 0x20610 then w32 a.osc.err.toNat
  else if 0x20800 ≤ o ∧ o < 0x20A00 then rsmpReg a ((o - 0x20800) / 32) (o % 32)
  else if o = 0x20A00 then a.rsmpLink else 0

/-- The registers of the sounding chain, offsets 21000h to 21FFFh. -/
def snsReg (s : Sense) (o : Nat) : W32 :=
  if o < 0x21400 then
    let c := snsAt s ((o - 0x21000) / 32)
    let k := o % 32
    if k = 0 then c.cfg else if k = 4 then c.used else if k = 8 then snsCtlWord c else if k = 12 then snsStatWord c else if k = 16 then snsCntWord c else 0
  else if o = 0x21400 then s.smclk else if o = 0x21404 then firCtlWord s
  else if 0x21800 ≤ o ∧ o < 0x21C00 ∧ o % 4 = 0 then firTap s.firSh ((o - 0x21800) / 4)
  else if 0x21C00 ≤ o ∧ o < 0x22000 ∧ o % 4 = 0 then firTap s.firAct ((o - 0x21C00) / 4) else 0

/-- The registers of the pilot DACs, offsets 22000h to 22FFFh. -/
def pilReg (p : Pilot) (o : Nat) : W32 :=
  if o < 0x22100 then
    let d := pdacAt p ((o - 0x22000) / 32)
    let k := o % 32
    if k = 0 then d.ctl else if k = 4 then d.code else if k = 8 then d.ftw else if k = 12 then d.amp else if k = 16 then d.ph0
    else if k = 20 then pdacStatWord p.supplyLow d else 0
  else if o = 0x22100 then p.syncMask else if o = 0x22104 then p.syncLo else if o = 0x22108 then p.syncHi
  else if o = 0x2210C then w32 (p.syncTag * 65536) else if o = 0x22110 then syncResWord p else 0

/-- MAC_STAT. -/
def macStat (f : FieldDie) : W32 := w32 (8 * b2n f.ambig + f.retired % 4 * 2 + b2n (decide (f.retired = 0)))

/-- What a register of the field die reads as. -/
def fieldReg (f : FieldDie) (o : Nat) : W32 :=
  if o = 0 then 0x4E412920
  else if o < 0x500 then comReg f.com .field o
  else if o = 0x600 then fieldBootStat f
  else if 0x610 ≤ o ∧ o < 0x640 ∧ o % 4 = 0 then w32 (leAt f.fb.meas (o - 0x610) 4)
  else if o = 0x680 then f.com.testCtrl &&& 7
  else if 0x1000 ≤ o ∧ o < 0x2000 then merReg f o
  else if 0x2000 ≤ o ∧ o < 0x6000 then bankReg f o
  else if 0x8000 ≤ o ∧ o < 0x20000 then siltReg f.silt o
  else if 0x20000 ≤ o ∧ o < 0x21000 then audReg f.aud o
  else if 0x21000 ≤ o ∧ o < 0x22000 then snsReg f.sns o
  else if 0x22000 ≤ o ∧ o < 0x23000 then pilReg f.pil o
  else if 0x23000 ≤ o ∧ o < 0x23200 then dmaReg f.com.dma ((o - 0x23000) / 32) ((o - 0x23000) % 32)
  else if o = 0x24000 then f.com.integ.ctrl else if o = 0x24004 then memStat f.com.integ else if o = 0x24008 then f.com.integ.repair
  else if o = 0x2400C then macStat f else if o = 0x24100 then tsensWord f.com else if o = 0x24104 then f.com.pwrStat else 0

/-- READ_SNAPSHOT on the field die (R8): the low word latches the others; MER_EVT takes an event from its queue (R132). -/
def fieldSnap (o : Nat) (f : FieldDie) : FieldDie :=
  if o = 0x109C then evtRead f
  else
    let g := setRead f (fieldReg f o)
    if o = 0x1008 then modMer g (fun m => { m with pcntLatch := w32 (m.pcnt / 2 ^ 32) })
    else if 0xC000 ≤ o ∧ o < 0x1C000 ∧ o % 32 = 16 then
      modSilt g (fun s => modTap s ((o - 0xC000) / 32) (fun t => { t with latch := w32 (t.used / 2 ^ 32) }))
    else if o = 0x1C114 then
      modSilt g (fun s => { s with cap := { s.cap with headLatch := w32 ((s.cap.count - 1) / 2 ^ 32),
                                                       slotLatch := w32 ((s.cap.count - 1) % capFrames s.cap) } })
    else if o = 0x1C118 then modSilt g (fun s => { s with cap := { s.cap with tpLatch := w32 (s.cap.tpass / 2 ^ 32) } })
    else g

/-! ### Writes -/

/-- A write of a register of the sequencer or the engine. -/
def merRegWrite (o : Nat) (v : W32) (f : FieldDie) : FieldDie :=
  if o = 0x1000 then merCtrlSet v f
  else if o = 0x1004 then modMer f (fun m => { m with famRefused := m.famRefused && !bit v 8 })
  else if o = 0x1010 then modMer f (fun m => { m with swapLo := v })
  else if o = 0x1014 then modMer f (fun m => { m with swapHi := v })
  else if o = 0x1018 then modMer f (swapCtlWrite v)
  else if o = 0x101C then modMer f (fun m => { m with keep := v })
  else if o = 0x1020 then modMer f (fun m => { m with plen0 := v &&& 0xFFFF })
  else if o = 0x1024 then modMer f (fun m => { m with plen1 := v &&& 0xFFFF })
  else if 0x1040 ≤ o ∧ o < 0x1068 ∧ o % 4 = 0 then modMer f (fun m => { m with cnt := ctrClear m.cnt ((o - 0x1040) / 4) })
  else if o = 0x1080 then { f with eng := { f.eng with fault := w1c f.eng.fault v 0x3F } }
  else if o = 0x1084 then if bit v 31 then { f with eng := { f.eng with first := none } } else f
  else if o = 0x1090 then uctlWrite v f
  else if o = 0x1094 then { f with eng := { f.eng with ulenSh := w64of v (hi32 f.eng.ulenSh) } }
  else if o = 0x1098 then { f with eng := { f.eng with ulenSh := w64of (lo32 f.eng.ulenSh) v } }
  else f

/-- A write of a register of groups, bindings or banks. -/
def bankRegWrite (o : Nat) (v : W32) (f : FieldDie) : FieldDie :=
  if 0x2000 ≤ o ∧ o < 0x2800 ∧ o % 4 = 0 then { f with eng := { f.eng with dtSh := tput 0 f.eng.dtSh ((o - 0x2000) / 4) v } }
  else if 0x3000 ≤ o ∧ o < 0x3400 ∧ o % 4 = 0 then cgDescWrite ((o - 0x3000) / 4) v f
  else if 0x3400 ≤ o ∧ o < 0x3800 ∧ o % 4 = 0 then
    if bit v 20 then modCg f (fun c => { c with refused := tput false c.refused ((o - 0x3400) / 4) false }) else f
  else if o = 0x3800 then cgCmdWrite v f
  else if o = 0x3804 then modCg f (fun c => { c with passLo := v })
  else if o = 0x3808 then modCg f (fun c => { c with passHi := v })
  else if o = 0x3810 ∨ o = 0x3814 then modCg f (fun c => { c with cnt := ctrClear c.cnt ((o - 0x3810) / 4) })
  else if 0x3820 ≤ o ∧ o < 0x38A0 ∧ o % 4 = 0 then modCg f (fun c => { c with masks := tput 0 c.masks ((o - 0x3820) / 4) v })
  else if o = 0x38C0 then bindCtlWrite v f
  else if o = 0x3900 then { f with bk := { f.bk with stat := w1c f.bk.stat v 3 } }
  else if o = 0x3904 then { f with bk := { f.bk with atArg := v } }
  else if o = 0x3908 then { f with bk := { f.bk with zbusy := v } }
  else if 0x4000 ≤ o ∧ o < 0x6000 ∧ o % 4 = 0 then modCg f (bindPut ((o - 0x4000) / 4) v)
  else f

/-- A write of a word of tap entry `e`. -/
def tapRegWrite (e k : Nat) (v : W32) (f : FieldDie) : FieldDie :=
  if k = 0 then tapCfgWrite e v f
  else if k = 4 then delayLo e v f
  else if k = 8 then delayHi e v f
  else if k = 12 then modSilt f (fun s => modTap s e (fun t => { t with refused := t.refused && !bit v 7, held := t.held && !bit v 8 }))
  else f

/-- A write of a register of Silt. -/
def siltRegWrite (o : Nat) (v : W32) (f : FieldDie) : FieldDie :=
  if o < 0xC000 then if o % 4 = 0 then lineWrite ((o - 0x8000) / 16) (o % 16 / 4) v f else f
  else if o < 0x1C000 then tapRegWrite ((o - 0xC000) / 32) ((o - 0xC000) % 32) v f
  else if o = 0x1C000 then siltCtrlWrite v f
  else if o = 0x1C004 then modSilt f (fun s => { s with refused := s.refused && !bit v 3, winErr := s.winErr && !bit v 2 })
  else if o = 0x1C008 then modSilt f (fun s => { s with win := v &&& 0xFFF00000 })
  else if o = 0x1C100 then capSet (fun c => { c with base := v &&& 0xFFFFFFC0 }) f
  else if o = 0x1C104 then capSet (fun c => { c with frames := v &&& 0x07FFFFFF }) f
  else if o = 0x1C108 then capCtlWrite v f
  else if o = 0x1C10C then capSet (fun c => { c with post := v &&& 0x07FFFFFF }) f
  else if o = 0x1C110 then modSilt f (fun s => { s with cap := { s.cap with refused := s.cap.refused && !bit v 7 } })
  else if o = 0x1C200 then modSilt f (fun s => { s with pbMaskLo := v })
  else if o = 0x1C204 then modSilt f (fun s => { s with pbMaskHi := v })
  else if o = 0x1C208 then modSilt f (fun s => { s with pbPassLo := v })
  else if o = 0x1C20C then modSilt f (fun s => { s with pbPassHi := v })
  else if o = 0x1C210 then pbCmdWrite v f
  else if 0x1C300 ≤ o ∧ o < 0x1C314 ∧ o % 4 = 0 then modSilt f (fun s => { s with cnt := ctrClear s.cnt ((o - 0x1C300) / 4) })
  else if 0x1C400 ≤ o ∧ o < 0x1C800 ∧ o % 4 = 0 then clipWrite ((o - 0x1C400) / 16) (o % 16 / 4) v f
  else f

/-- A write of a register of ports and clocks. -/
def audRegWrite (o : Nat) (v : W32) (f : FieldDie) : FieldDie :=
  if o < 0x20300 then
    let p := (o - 0x20000) / 32
    if o % 32 = 0 then sapCfgPut p v f
    else if o % 32 = 8 then sapCtlWrite p v f
    else if o % 32 = 24 then modSap p (fun s => { s with framing := fld v 31 16, glitch := fld v 15 0 }) f
    else f
  else if 0x20400 ≤ o ∧ o < 0x20480 ∧ o % 4 = 0 then grpWrite ((o - 0x20400) / 32 + 1) (o % 32 / 4) v f
  else if o = 0x20500 then mclkPut v f
  else if o = 0x20600 then oscCtlWrite v f
  else if o = 0x20604 then oscTrimPut v f
  else if 0x20800 ≤ o ∧ o < 0x20A00 ∧ o % 4 = 0 then rsmpWrite ((o - 0x20800) / 32) (o % 32 / 4) v f
  else if o = 0x20A00 then modAud f (fun a => { a with rsmpLink := v &&& 0xFF01 })
  else f

/-- A write of a register of the sounding chain. -/
def snsRegWrite (o : Nat) (v : W32) (f : FieldDie) : FieldDie :=
  if o < 0x21400 then
    let i := (o - 0x21000) / 32
    if o % 32 = 0 then snsCfgPut i v f
    else if o % 32 = 8 then snsCtlWrite i v f
    else if o % 32 = 12 then modSns i (fun c => { c with clipped := c.clipped && !bit v 3 }) f
    else if o % 32 = 16 then modSns i (fun c => { c with clips := fld v 31 16, stucks := fld v 15 0 }) f
    else f
  else if o = 0x21400 then smclkPut v f
  else if o = 0x21404 then firCtlWrite v f
  else if 0x21800 ≤ o ∧ o < 0x21C00 ∧ o % 4 = 0 then firWrite ((o - 0x21800) / 128) ((o - 0x21800) / 4 % 32) v f
  else f

/-- A write of word `k` of pilot DAC channel `c`. -/
def pdacRegWrite (c k : Nat) (v : W32) (f : FieldDie) : FieldDie :=
  if k = 0 then pdacCtlWrite c v f
  else if k = 4 then pdacLoad c (fun d => { d with code := v &&& 0xFFFF }) f
  else if k = 8 then modPdac c (fun d => { d with ftw := v }) f
  else if k = 12 then pdacLoad c (fun d => { d with amp := v &&& 0xFFFF }) f
  else if k = 16 then modPdac c (fun d => { d with ph0 := v }) f
  else if k = 20 then modPdac c (fun d => { d with sat := d.sat && !bit v 2 }) f
  else f

/-- A write of a register of the pilot DACs. -/
def pilRegWrite (o : Nat) (v : W32) (f : FieldDie) : FieldDie :=
  if o < 0x22100 then pdacRegWrite ((o - 0x22000) / 32) (o % 32) v f
  else if o = 0x22100 then modPilot f (fun p => { p with syncMask := v &&& 0xFF })
  else if o = 0x22104 then modPilot f (fun p => { p with syncLo := v })
  else if o = 0x22108 then modPilot f (fun p => { p with syncHi := v })
  else if o = 0x2210C then syncCmdWrite v f
  else f

/-- A write of a register of the field die (R7). -/
def fieldRegWrite (o : Nat) (v : W32) (f : FieldDie) : FieldDie :=
  if o = 0x40 then fieldRst v f
  else if o < 0x500 then { f with com := comRegWrite f.com .field o v }
  else if o = 0x680 then { f with com := { f.com with testCtrl := testCtrlSet f.com.testCtrl v (lcFieldIn f) } }
  else if 0x1000 ≤ o ∧ o < 0x2000 then merRegWrite o v f
  else if 0x2000 ≤ o ∧ o < 0x6000 then bankRegWrite o v f
  else if 0x8000 ≤ o ∧ o < 0x20000 then siltRegWrite o v f
  else if 0x20000 ≤ o ∧ o < 0x21000 then audRegWrite o v f
  else if 0x21000 ≤ o ∧ o < 0x22000 then snsRegWrite o v f
  else if 0x22000 ≤ o ∧ o < 0x23000 then pilRegWrite o v f
  else if 0x23000 ≤ o ∧ o < 0x23200 then dmaRegWrite fieldDma ((o - 0x23000) / 32) ((o - 0x23000) % 32) v f
  else if o = 0x24000 then memCtrlWrite fieldOps v f
  else if o = 0x24004 then memStatWrite fieldOps v f
  else if o = 0x24008 then memRepairWrite fieldOps v f
  else if o = 0x2400C then { f with ambig := f.ambig && !bit v 3 }
  else if o = 0x24100 then { f with com := { f.com with hot := f.com.hot && !bit v 28 } }
  else f

end Sys2Proof.Machine
end

