-- ==== Sys2Proof/Machine/FieldEntry.lean ====
section
/-! DEFINITION. The field side's Legend entries: their values (R305), what a write or an action does, and their own response tables (R75,
R161, R162, R189, R215, R216, R242, R423). -/

namespace Sys2Proof.Machine

/-! ### Words of a BLOB (R305) -/

/-- `n` words as a byte string: ascending, each big-endian. -/
def blobWords (n : Nat) (get : Nat → W32) : List Byte := (List.range n).flatMap (fun i => bytesBE 4 (get i).toNat)

/-- Word `k` of such a string with the bytes `d` put at offset `off`. -/
def mergeBE (old : W32) (off : Nat) (d : List Byte) (k : Nat) : W32 :=
  w32 (ofBytesBE ((List.range 4).map (fun j =>
    let p := 4 * k + j
    if off ≤ p ∧ p < off + d.length then byAt d (p - off) else byteN old.toNat (3 - j))))

/-- The words that a piece reaches: the first, and how many. -/
def pieceFirst (off : Nat) : Nat := off / 4
def pieceCount (off : Nat) (d : List Byte) : Nat := if d = [] then 0 else (off + d.length - 1) / 4 - off / 4 + 1

/-- A piece written word by word. -/
def putPiece {σ : Type} (off : Nat) (d : List Byte) (get : σ → Nat → W32) (put : Nat → W32 → σ → σ) (s : σ) : σ :=
  (List.range (pieceCount off d)).foldl (fun s i => let k := pieceFirst off + i; put k (mergeBE (get s k) off d k) s) s

/-- A piece of a BLOB of `size` bytes, answered RANGE where it runs past the end. -/
def pieceOr {σ : Type} (size off : Nat) (d : List Byte) (get : σ → Nat → W32) (put : Nat → W32 → σ → σ) (s : σ) : σ × Nat :=
  if size < off + d.length then (s, 5) else (putPiece off d get put s, 0)

/-! ### Answers -/

/-- An operation with a REFUSED flag: answered STATE where it sets the flag (log entry 20). -/
def tryFlag {σ : Type} (get : σ → Bool) (set : Bool → σ → σ) (op : σ → σ) (s : σ) : σ × Nat :=
  let g := op (set false s)
  if get g then (g, 6) else (set (get s) g, 0)

/-- An operation made where the code is OK. -/
def whenOk {σ : Type} (code : Nat) (op : σ → σ) (s : σ) : σ × Nat := if code = 0 then (op s, 0) else (s, code)

/-- The table of R216: `bad` a value refused for itself, `en` the channel's EN. -/
def portCheck (c : Cg) (bad en link : Bool) (g : Nat) : Nat :=
  if bad then 5 else if en && (!link || !cgEn (cgDesc c g)) then 6 else if link && gliding c g then 7 else 0

/-! ### Instants (R186, R282) -/

/-- TAI words of a mark, or 12 bytes of TIME, as a number of 96 bits, in units of 2^-16 ns. -/
def taiUnits (n : Nat) : Nat := (n / 2 ^ 48 * 1000000000 + n / 2 ^ 16 % 2 ^ 32) * 65536 + n % 65536

/-- The time that a mark names. -/
def markTime (k : Mark) : Nat := taiUnits ((wAt k.tai 0).toNat + (wAt k.tai 1).toNat * 2 ^ 32 + (wAt k.tai 2).toNat * 2 ^ 64)

/-- The instant of an argument: a pass number of 8 bytes, or a TIME of 12; the number 4 is TYPE, 6 STATE where no TIME_MARK has come. -/
def instantOf (m : Mer) (d : List Byte) : Nat × Nat :=
  if d.length = 8 then (ofBytesBE d, 0)
  else if d.length = 12 then
    match lastMark m with
    | some k => (passOfTime k.pass (markTime k) k.rate (taiUnits (ofBytesBE d)), 0)
    | none => (0, 6)
  else (0, 4)

/-! ### Values -/

/-- Coefficient words from word `w` on through a view, with what the reads meet. -/
def coefBytes (shadow : Bool) : Nat → Nat → FieldDie → FieldDie × List Byte
  | _, 0, f => (f, [])
  | w, n + 1, f =>
    let r := coefRead f shadow w
    let q := coefBytes shadow (w + 1) n r.1
    (q.1, bytesBE 4 r.2.toNat ++ q.2)

/-- A group's words through a view; a disabled group has none. -/
def groupBytes (shadow : Bool) (g : Nat) (f : FieldDie) : FieldDie × List Byte :=
  let d := cgDesc f.cg g
  if cgEn d then coefBytes shadow (cgLo d) (cgHi d - cgLo d) f else (f, [])

/-- The first word and the number of words of a bound entry. -/
def bindWords (f : FieldDie) (e : Nat) : Nat × Nat :=
  let w := tget 0 f.cg.bindAct (2 * e + 1)
  (fld w 14 0, fld w 19 16 + 1)

/-- A bound entry's value. -/
def boundBytes (f : FieldDie) (idx sub : Nat) : FieldDie × List Byte :=
  match bindFind f.cg.bindAct f.cg.nentAct idx sub with
  | some e => coefBytes true (bindWords f e).1 (bindWords f e).2 f
  | none => (f, [])

/-- 4000h to 42FFh: programs, passes, bundles, groups, the binding table. -/
def progValue (f : FieldDie) (idx sub : Nat) : List Byte :=
  let m := f.mer
  if idx = 0x4000 then
    if sub = 2 then bytesBE 4 m.keep.toNat else if sub = 3 then bytesBE 1 m.swapResult else if sub = 4 then bytesBE 1 (b2n m.store1)
    else if sub = 5 then bytesBE 2 (shadowLen m) else if sub = 6 then bytesBE 1 (rateOf m)
    else if sub = 7 then bytesBE 1 (if bit m.swapCtl 12 then fld m.swapCtl 11 8 else 0xFF) else []
  else if idx = 0x4001 then if sub = 1 then bytesBE 8 m.pcnt else bytesBE 4 (ctrGet m.cnt 9).toNat
  else if idx = 0x4002 then
    if sub ≤ 4 then blobWords 8 (fun i => tget 0 f.cg.masks (8 * (sub - 1) + i))
    else if sub = 6 then bytesBE 1 f.cg.result else if sub = 8 then bytesBE 4 (ctrGet f.cg.cnt 0).toNat else []
  else if idx = 0x4200 then
    if sub = 1 then bytesBE 2 f.cg.nent else if sub = 2 then blobWords 2048 (fun i => tget 0 f.cg.bindSh i)
    else if sub = 3 then bytesBE 1 (b2n f.cg.bindArm) else if sub = 5 then blobWords (2 * f.cg.nentAct) (fun i => tget 0 f.cg.bindAct i)
    else if sub = 6 then bytesBE 4 (bindCtlWord f.cg).toNat else []
  else if sub = 1 then bytesBE 4 (cgDesc f.cg (idx - 0x4010)).toNat
  else if sub = 2 then bytesBE 4 (cgStat f (idx - 0x4010)).toNat
  else []

/-- 6000h to 6DFFh: Silt. -/
def siltValue (s : Silt) (idx sub : Nat) : List Byte :=
  if idx < 0x6400 then
    let n := lineAt s (idx - 0x6000)
    if sub = 1 then bytesBE 4 n.base.toNat else if sub = 2 then bytesBE 4 n.len.toNat else if sub = 3 then bytesBE 1 (b2n n.en) else bytesBE 4 n.pos
  else if idx < 0x6C00 then
    let t := tapAt s (idx - 0x6400)
    if sub = 1 then bytesBE 4 t.cfg.toNat else if sub = 2 then bytesBE 8 (delayShown t) else if sub = 3 then bytesBE 8 t.used
    else bytesBE 4 (tapStat t).toNat
  else if idx = 0x6C00 then
    let c := s.cap
    if sub = 1 then bytesBE 4 c.base.toNat else if sub = 2 then bytesBE 4 c.frames.toNat else if sub = 3 then bytesBE 4 c.ctl.toNat
    else if sub = 4 then bytesBE 4 c.post.toNat else if sub = 7 then bytesBE 4 (capStat c).toNat else if sub = 8 then bytesBE 8 (c.count - 1)
    else if sub = 9 then bytesBE 8 c.tpass else if sub = 10 then bytesBE 4 ((c.count - 1) % capFrames c) else []
  else if sub = 3 then bytesBE 1 s.pbResult
  else if 0x10 ≤ sub then
    let k := clipAt s (sub - 0x10)
    bytesBE 4 k.base.toNat ++ bytesBE 4 k.len.toNat ++ bytesBE 4 (clipCtl k).toNat ++ bytesBE 4 k.pos
  else []

/-- 7000h to 72FFh: ports and clocks. -/
def audValue (a : Audio) (idx sub : Nat) : List Byte :=
  if idx < 0x7018 then
    let s := sapAt a (idx - 0x7000)
    if sub = 1 then bytesBE 4 s.cfg.toNat else if sub = 2 then bytesBE 4 s.used.toNat else if sub = 3 then bytesBE 1 (b2n s.en)
    else if sub = 4 then bytesBE 4 ((sapCtlWord s).toNat % 65536) else if sub = 5 then bytesBE 4 (sapStatWord s).toNat
    else if sub = 6 then bytesBE 4 s.rate.toNat else if sub = 7 then bytesBE 2 s.dev.toNat else bytesBE 4 (sapCntWord s).toNat
  else if idx = 0x7100 then
    if sub ≤ 4 then bytesBE 4 (grpAt a sub).ref else if sub ≤ 8 then bytesBE 4 (grpStatWord a (sub - 4)).toNat
    else if sub ≤ 12 then bytesBE 4 ((grpCtlWord (grpAt a (sub - 8))).toNat % 65536) else if sub = 0x10 then bytesBE 4 a.mclk.toNat
    else if sub = 0x20 then bytesBE 4 (oscCtlWord a.osc).toNat else if sub = 0x21 then bytesBE 4 a.osc.trim.toNat
    else if sub = 0x22 then bytesBE 4 a.osc.freq.toNat else if sub = 0x23 then bytesBE 4 (oscStatWord a.osc).toNat else bytesBE 2 a.osc.err.toNat
  else if sub ≤ 0x10 then bytesBE 4 (rsmpAt a (sub - 1)).src
  else if sub ≤ 0x30 then bytesBE 1 (b2n (rsmpAt a (sub - 0x21)).en)
  else if sub ≤ 0x50 then bytesBE 4 (rsmpStatWord (rsmpAt a (sub - 0x41))).toNat
  else if sub ≤ 0x70 then bytesBE 4 (rsmpAt a (sub - 0x61)).ratio.toNat
  else bytesBE 4 a.rsmpLink.toNat

/-- 7800h to 79FFh: the sounding chain and the pilot DACs. -/
def snsValue (f : FieldDie) (idx sub : Nat) : List Byte :=
  if idx < 0x7900 then
    let c := snsAt f.sns (idx - 0x7800)
    if sub = 1 then bytesBE 4 c.cfg.toNat else if sub = 2 then bytesBE 4 c.used.toNat else if sub = 3 then bytesBE 1 (b2n c.en)
    else if sub = 4 then bytesBE 4 ((snsCtlWord c).toNat % 65536) else if sub = 5 then bytesBE 4 (snsStatWord c).toNat
    else if sub = 6 then bytesBE 4 (snsCntWord c).toNat
    else if 0x10 ≤ sub ∧ sub ≤ 0x17 then blobWords 32 (fun t => firTap f.sns.firSh (32 * (sub - 0x10) + t))
    else if 0x18 ≤ sub ∧ sub ≤ 0x1F then blobWords 32 (fun t => firTap f.sns.firAct (32 * (sub - 0x18) + t))
    else if sub = 0x20 then bytesBE 4 (firCtlWord f.sns).toNat else bytesBE 4 f.sns.smclk.toNat
  else
    let d := pdacAt f.pil (idx - 0x7900)
    if sub = 1 then bytesBE 4 d.ctl.toNat else if sub = 2 then bytesBE 2 d.code.toNat else if sub = 3 then bytesBE 4 d.ftw.toNat
    else if sub = 4 then bytesBE 2 d.amp.toNat else if sub = 5 then bytesBE 4 d.ph0.toNat
    else if sub = 6 then bytesBE 4 (pdacStatWord f.pil.supplyLow d).toNat else if sub = 0x11 then bytesBE 1 f.pil.result else []

/-- The field bank of a bank number of 9200h. -/
def fieldBankNo (b : Nat) : Option BankId :=
  if b = 7 then some .p0 else if b = 8 then some .p1 else if b = 9 then some .x else if b = 10 then some .y else if b = 11 then some .z
  else if b = 12 then some .f else none

/-- 9100h and 9200h: the ledger and the ECC records (R423). -/
def integValue (f : FieldDie) (idx sub : Nat) : List Byte :=
  if idx = 0x9100 then
    if sub ≤ 0x10 then ledRecord f.com sub
    else if sub ≤ 0x20 then bytesBE 1 (ledThresh f.com.integ (sub - 0x10))
    else if sub = 0x30 then (List.range 32).flatMap (fun b => bytesBE 1 (4 - tget 0 f.com.integ.dramUsed b)) else []
  else if sub = 13 then eccRecord { bank0 with cnt := f.silt.ecc, last := f.silt.eccLast }
  else if sub = 14 then bytesBE 4 (ctrGet f.macCnt 0).toNat ++ bytesBE 4 (ctrGet f.macCnt 1).toNat ++ bytesBE 4 0 ++ bytesBE 4 f.macPc.toNat
  else match fieldBankNo sub with
    | some id => eccRecord (fieldBank f id)
    | none => []

/-- A field entry read: the value, big-endian (R305), and the die after the reads of the banks. -/
def fieldRead (f : FieldDie) (idx sub : Nat) : FieldDie × List Byte :=
  if 0xA000 ≤ idx ∧ idx ≤ 0xEFFF then boundBytes f idx sub
  else if 0x4010 ≤ idx ∧ idx < 0x4110 ∧ (sub = 0x10 ∨ sub = 0x11) then groupBytes (decide (sub = 0x10)) (idx - 0x4010) f
  else if idx < 0x6000 then (f, progValue f idx sub)
  else if idx < 0x7000 then (f, siltValue f.silt idx sub)
  else if idx < 0x7800 then (f, audValue f.aud idx sub)
  else if idx < 0x8000 then (f, snsValue f idx sub)
  else if idx = 0x8020 then (f, f.fb.meas)
  else (f, integValue f idx sub)

/-- The value of a field entry. -/
def fieldValue (f : FieldDie) (idx sub : Nat) : List Byte := (fieldRead f idx sub).2

/-! ### Writes and actions -/

/-- Shadow-view words written; `lo` is the coefficient word of word 0. -/
def coefPiece (lo off : Nat) (d : List Byte) (f : FieldDie) : FieldDie :=
  putPiece off d (fun g k => (coefRead g true (lo + k)).2) (fun k v g => coefWrite g true (lo + k) 0 (bytesLE 4 v.toNat)) (bankGrant .y f)

/-- A write of a bound entry (R161): the words lie in enabled groups that do not glide. -/
def boundWrite (f : FieldDie) (idx sub : Nat) (d : List Byte) : FieldDie × Nat :=
  match bindFind f.cg.bindAct f.cg.nentAct idx sub with
  | none => (f, 1)
  | some e =>
    let w := bindWords f e
    let ctl := tget 0 f.cg.bindAct (2 * e + 1)
    let gs := (List.range w.2).map (fun i => groupOf f.cg (w.1 + i))
    if bit ctl 22 = false ∨ fld ctl 21 20 = 3 then (f, 3)
    else if d.length ≠ 4 * w.2 then (f, 4)
    else if gs.contains none then (f, 6)
    else if gs.any (fun g => g.any (gliding f.cg)) then (f, 7)
    else (coefPiece w.1 0 d f, 0)

/-- A write of a group's shadow words: as a bound entry's (log entry 21). -/
def groupWrite (g off : Nat) (d : List Byte) (f : FieldDie) : FieldDie × Nat :=
  let c := cgDesc f.cg g
  if cgEn c = false then (f, 6)
  else if 4 * (cgHi c - cgLo c) < off + d.length then (f, 5)
  else if gliding f.cg g then (f, 7)
  else (coefPiece (cgLo c) off d f, 0)

/-- SWAP of 4000h (R69). -/
def swapAct (n : Nat) (f : FieldDie) : FieldDie × Nat :=
  let g := modMer f (fun m => swapAsk { m with swapLo := w32 n, swapHi := w32 (n / 2 ^ 32) })
  (g, verdictCode g.mer.swapResult)

/-- SWAP_RATE. -/
def swapRate (v : Nat) (m : Mer) : Mer × Nat :=
  if v = 0xFF then ({ m with swapCtl := setBit m.swapCtl 12 false }, 0)
  else if v ≤ 5 then ({ m with swapCtl := setBit (setFld m.swapCtl 11 8 v) 12 true }, 0)
  else (m, 5)

/-- 4000h to 42FFh. -/
def progWrite (rid rseq : Nat) (f : FieldDie) (idx sub off : Nat) (d : List Byte) : FieldDie × Nat :=
  let v := ofBytesBE d
  if idx = 0x4000 then
    if sub = 1 then swapAct v f
    else if sub = 2 then (modMer f (fun m => { m with keep := w32 v }), 0)
    else if sub = 5 then (modMer f (fun m => if m.store1 then { m with plen0 := w32 v } else { m with plen1 := w32 v }), 0)
    else if sub = 7 then ({ f with mer := (swapRate v f.mer).1 }, (swapRate v f.mer).2)
    else if sub = 8 then (modMer f swapDrop, 0)
    else (f, 3)
  else if idx = 0x4001 then if sub = 2 then (modMer f (fun m => { m with cnt := ctrClear m.cnt 9 }), 0) else (f, 3)
  else if idx = 0x4002 then
    if sub ≤ 4 then
      pieceOr 32 off d (fun g k => tget 0 g.cg.masks (8 * (sub - 1) + k))
        (fun k w g => modCg g (fun c => { c with masks := tput 0 c.masks (8 * (sub - 1) + k) w })) f
    else if sub = 5 then
      if d.length = 20 then
        let r := bundleWords (beGroups d) (.legend rid rseq) f
        (r.1, verdictCode r.2)
      else (f, 4)
    else if sub = 7 then (bundleCancel v f, 0)
    else if sub = 8 then (modCg f (fun c => { c with cnt := ctrClear c.cnt 0 }), 0)
    else (f, 3)
  else if idx = 0x4200 then
    if sub = 1 then if v ≤ 1024 then (modCg f (fun c => { c with nent := v }), 0) else (f, 5)
    else if sub = 2 then
      pieceOr 8192 off d (fun g k => tget 0 g.cg.bindSh k) (fun k w g => modCg g (bindPut k w)) f
    else if sub = 3 then (modCg f (fun c => { c with bindArm := decide (v = 1) }), 0)
    else if sub = 4 then if f.mer.running then (f, 6) else (bindCopy f, 0)
    else (f, 3)
  else if sub = 1 then
    tryFlag (fun g => tget false g.cg.refused (idx - 0x4010)) (fun b g => modCg g (fun c => { c with refused := tput false c.refused (idx - 0x4010) b }))
      (cgDescWrite (idx - 0x4010) (w32 v)) f
  else if sub = 0x10 then groupWrite (idx - 0x4010) off d f
  else (f, 3)

/-- A write of a tap's delay (R189). -/
def delayWrite (e v : Nat) (f : FieldDie) : FieldDie × Nat :=
  let t := tapAt f.silt e
  let len := lineLen (lineAt f.silt (tapLine t.cfg))
  let code :=
    if 2 ^ 38 ≤ v then 5
    else if tapLink t.cfg = false ∨ cgEn (cgDesc f.cg (tapCgrp t.cfg)) = false then 6
    else if gliding f.cg (tapCgrp t.cfg) then 7
    else if bit t.cfg 0 ∧ (v < delayMin (tapKind t.cfg) ∨ (len - 4) * 4096 - 1 < v) then 5
    else 0
  whenOk code (fun f => delayForm e v (delayHi e (w32 (v / 2 ^ 32)) f)) f

/-- START and STOP of 6D00h (R185, R186); the tag is RSEQ (log entry 22). -/
def playAct (start : Bool) (rseq : Nat) (d : List Byte) (f : FieldDie) : FieldDie × Nat :=
  let t := instantOf f.mer (d.drop 8)
  if t.2 ≠ 0 then (f, t.2)
  else
    let r := pbAsk start (beAt d 0 8) t.1 rseq f
    (r.1, verdictCode r.2)

/-- The REFUSED flag of the capture ring. -/
def capTry (op : FieldDie → FieldDie) (f : FieldDie) : FieldDie × Nat :=
  tryFlag (fun g => g.silt.cap.refused) (fun b g => modSilt g (fun s => { s with cap := { s.cap with refused := b } })) op f

/-- 6000h to 6DFFh. -/
def siltEntry (rseq : Nat) (f : FieldDie) (idx sub off : Nat) (d : List Byte) : FieldDie × Nat :=
  let v := w32 (ofBytesBE d)
  if idx < 0x6400 then
    let l := idx - 0x6000
    if sub ≤ 3 then
      tryFlag (fun g => (lineAt g.silt l).refused) (fun b g => modSilt g (fun s => modLine s l (fun n => { n with refused := b })))
        (lineWrite l (sub - 1) (if sub = 3 then v &&& 1 else v)) f
    else (f, 3)
  else if idx < 0x6C00 then
    let e := idx - 0x6400
    if sub = 1 then
      tryFlag (fun g => (tapAt g.silt e).refused) (fun b g => modSilt g (fun s => modTap s e (fun t => { t with refused := b }))) (tapCfgWrite e v) f
    else if sub = 2 then delayWrite e (ofBytesBE d) f
    else (f, 3)
  else if idx = 0x6C00 then
    if sub = 1 then capTry (capSet (fun c => { c with base := v &&& 0xFFFFFFC0 })) f
    else if sub = 2 then capTry (capSet (fun c => { c with frames := v &&& 0x07FFFFFF })) f
    else if sub = 3 then capTry (capCtlWrite v) f
    else if sub = 4 then capTry (capSet (fun c => { c with post := v &&& 0x07FFFFFF })) f
    else if sub = 5 then capTry (capCtlWrite (f.silt.cap.ctl ||| 2)) f
    else if sub = 6 then capTry (capCtlWrite (f.silt.cap.ctl ||| 4)) f
    else (f, 3)
  else if sub = 1 then playAct true rseq d f
  else if sub = 2 then playAct false rseq d f
  else if 0x10 ≤ sub ∧ sub < 0x50 then
    let k := sub - 0x10
    if 16 < off + d.length then (f, 5)
    else
      tryFlag (fun g => (clipAt g.silt k).refused) (fun b g => modSilt g (fun s => modClip s k (fun c => { c with refused := b })))
        (putPiece off d (fun g i => let c := clipAt g.silt k; if i = 0 then c.base else if i = 1 then c.len else w32 (b2n c.loop))
          (fun i w g => clipWrite k i w g)) f
  else (f, 3)

/-- 7000h to 72FFh (R215, R216). -/
def audEntry (f : FieldDie) (idx sub : Nat) (d : List Byte) : FieldDie × Nat :=
  let n := ofBytesBE d
  let v := w32 n
  let a := f.aud
  if idx < 0x7018 then
    let p := idx - 0x7000
    let s := sapAt a p
    if sub = 1 then whenOk (portCheck f.cg (saBad v) s.en s.link s.cgrp) (sapCfgPut p v) f
    else if sub = 3 then (sapCtlWrite p (w32 (s.cgrp * 256 + 2 * b2n s.link + n)) f, 0)
    else if sub = 4 then (sapCtlWrite p (v &&& 0xFFFF) f, 0)
    else if sub = 8 then (modSap p (fun s => { s with framing := fld v 31 16, glitch := fld v 15 0 }) f, 0)
    else (f, 3)
  else if idx = 0x7100 then
    if 1 ≤ sub ∧ sub ≤ 4 then
      let q := grpAt a sub
      whenOk (portCheck f.cg false false q.link q.cgrp) (grpWrite sub 0 v) f
    else if 9 ≤ sub ∧ sub ≤ 12 then (grpWrite (sub - 8) 2 (v &&& 0xFFFF) f, 0)
    else if sub = 0x10 then (mclkPut v f, 0)
    else if sub = 0x20 then tryFlag (fun g => g.aud.osc.refused) (fun b g => modOsc (fun o => { o with refused := b }) g) (oscCtlWrite v)
        (modOsc (fun o => { o with refused := o.refused && !bit v 16 }) f)
    else if sub = 0x21 then if v.toInt < -1000000 ∨ 1000000 < v.toInt then (f, 5) else (oscTrimPut v f, 0)
    else (f, 3)
  else if 1 ≤ sub ∧ sub ≤ 0x10 then
    let c := rsmpAt a (sub - 1)
    whenOk (portCheck f.cg (decide (48 ≤ fld v 5 0)) c.en (bit a.rsmpLink 0) (fld a.rsmpLink 15 8)) (rsmpWrite (sub - 1) 0 v) f
  else if 0x21 ≤ sub ∧ sub ≤ 0x30 then (rsmpWrite (sub - 0x21) 2 (w32 n) f, 0)
  else if sub = 0x80 then (modAud f (fun a => { a with rsmpLink := v &&& 0xFF01 }), 0)
  else (f, 3)

/-- SYNC of 7900h (R240); the tag is RSEQ (log entry 22). -/
def syncAct (rseq : Nat) (d : List Byte) (f : FieldDie) : FieldDie × Nat :=
  let t := instantOf f.mer (d.drop 1)
  if t.2 ≠ 0 then (f, t.2)
  else
    let r := syncAsk (beAt d 0 1) t.1 rseq f
    (r.1, verdictCode r.2)

/-- 7800h to 79FFh (R242). -/
def snsEntry (rseq : Nat) (f : FieldDie) (idx sub off : Nat) (d : List Byte) : FieldDie × Nat :=
  let n := ofBytesBE d
  let v := w32 n
  if idx < 0x7900 then
    let i := idx - 0x7800
    let c := snsAt f.sns i
    if sub = 1 then whenOk (portCheck f.cg false c.en c.link c.cgrp) (snsCfgPut i v) f
    else if sub = 3 then (snsCtlWrite i (w32 (c.cgrp * 256 + 2 * b2n c.link + n)) f, 0)
    else if sub = 4 then (snsCtlWrite i (v &&& 0xFFFF) f, 0)
    else if sub = 6 then (modSns i (fun c => { c with clips := fld v 31 16, stucks := fld v 15 0 }) f, 0)
    else if 0x10 ≤ sub ∧ sub ≤ 0x17 then
      let q := f.sns
      if 128 < off + d.length then (f, 5)
      else
        whenOk (portCheck f.cg false false (bit q.firCtl 0) (fld q.firCtl 15 8))
          (putPiece off d (fun g t => firTap g.sns.firSh (32 * (sub - 0x10) + t)) (fun t w g => firWrite (sub - 0x10) t w g)) f
    else if sub = 0x20 then (firCtlWrite v f, 0)
    else if sub = 0x21 then (smclkPut v f, 0)
    else (f, 3)
  else if sub = 0x10 then syncAct rseq d f
  else if 1 ≤ sub ∧ sub ≤ 5 then (pdacRegWrite (idx - 0x7900) (4 * (sub - 1)) v f, 0)
  else (f, 3)

/-- REPAIR of 9100h (R415): the bank number and the row. -/
def fieldRepair (b row : Nat) (f : FieldDie) : FieldDie × Nat :=
  if b < 7 ∨ 13 < b ∨ repairRow fieldOps (b - 7) row = none then (f, 5) else (repairAsk fieldOps (b - 7) row f, 0)

/-- MARCH of 9200h (R412). -/
def fieldMarch (b mode : Nat) (f : FieldDie) : FieldDie × Nat :=
  match fieldBankNo b with
  | none => (f, 5)
  | some id =>
    if mode ≠ 1 ∧ mode ≠ 2 then (f, 5)
    else if mode = 2 ∧ fieldOps.destrOk f id = false then (f, 6)
    else if marching f.com.integ (b - 7) then (f, 7)
    else (marchStart fieldOps f (b - 7) mode, 0)

/-- One repair record of the field side (R419; the layout is log entry 23): resource, bank, row, spare, PCNT, CRC-32. A record whose CRC-32
is wrong is passed over. -/
def recordRead (r : List Byte) : Option (RowId × Nat) :=
  if r.length ≠ 18 ∨ crc32 (r.take 14) ≠ w32 (beAt r 14 4) then none else some (⟨beAt r 0 1, beAt r 2 2⟩, beAt r 4 2)

/-- The records of a RESTORE. -/
def recordsRead : Nat → List Byte → List (RowId × Nat)
  | 0, _ => []
  | n + 1, d => if d = [] then [] else (recordRead (d.take 18)).toList ++ recordsRead n (d.drop 18)

/-- RESTORE of 9100h: a record of a MAC retires the unit that its row names, the others move rows. -/
def recordsTake (d : List Byte) (f : FieldDie) : FieldDie :=
  let l := recordsRead 15 d
  let f := (l.filter (fun e => e.1.res == 12)).foldl (fun (f : FieldDie) e =>
    if f.retired = 0 ∧ 1 ≤ e.1.row ∧ e.1.row ≤ 3 then takeSpare fieldOps { f with retired := e.1.row } ⟨12, 0⟩ else f) f
  repairRestore fieldOps l f

/-- 9100h and 9200h. -/
def integEntry (f : FieldDie) (idx sub : Nat) (d : List Byte) : FieldDie × Nat :=
  if idx = 0x9100 then
    if 0x11 ≤ sub ∧ sub ≤ 0x20 then (threshWrite fieldOps (sub - 0x10) (ofBytesBE d) f, 0)
    else if sub = 0x40 then fieldRepair (beAt d 0 1) (beAt d 1 2) f
    else if sub = 0x41 then (recordsTake d f, 0)
    else (f, 3)
  else if sub = 0x20 then fieldMarch (beAt d 0 1) (beAt d 1 1) f
  else if sub = 13 then (modSilt f (fun s => { s with ecc := ctrs0 }), 0)
  else if sub = 14 then ({ f with macCnt := ctrs0 }, 0)
  else match fieldBankNo sub with
    | some id => (fieldSetBank f id { fieldBank f id with cnt := ctrs0 }, 0)
    | none => (f, 3)

/-- A write of, or an action on, a field entry, by requester `rid` with sequence `rseq`: the die, and the response code. -/
def fieldWrite (rid rseq : Nat) (f : FieldDie) (idx sub off : Nat) (d : List Byte) : FieldDie × Nat :=
  if 0xA000 ≤ idx ∧ idx ≤ 0xEFFF then boundWrite f idx sub d
  else if idx < 0x6000 then progWrite rid rseq f idx sub off d
  else if idx < 0x7000 then siltEntry rseq f idx sub off d
  else if idx < 0x7800 then audEntry f idx sub d
  else if idx < 0x8000 then snsEntry rseq f idx sub off d
  else integEntry f idx sub d

/-- The response that a write of data to a field entry would get, 0 for OK, without making it. -/
def fieldCheck (f : FieldDie) (idx sub off : Nat) (data : List Byte) : Nat := (fieldWrite 0 0 f idx sub off data).2

/-- The commit groups that bytes `off` to `off + len - 1` of a field entry are linked to (R321), one bit each. -/
def fieldGroups (f : FieldDie) (idx sub _off _len : Nat) : Nat :=
  if 0xA000 ≤ idx ∧ idx ≤ 0xEFFF then
    match bindFind f.cg.bindAct f.cg.nentAct idx sub with
    | some e =>
      let w := bindWords f e
      ((List.range w.2).filterMap (fun i => groupOf f.cg (w.1 + i))).foldl (fun m g => m ||| 2 ^ g) 0
    | none => 0
  else if 0x4010 ≤ idx ∧ idx < 0x4110 then 2 ^ (idx - 0x4010)
  else if 0x6400 ≤ idx ∧ idx < 0x6C00 then 2 ^ tapCgrp (tapAt f.silt (idx - 0x6400)).cfg
  else if 0x7000 ≤ idx ∧ idx < 0x7018 then 2 ^ (sapAt f.aud (idx - 0x7000)).cgrp
  else if idx = 0x7100 then 2 ^ (grpAt f.aud sub).cgrp
  else if idx = 0x7200 then 2 ^ fld f.aud.rsmpLink 15 8
  else if 0x10 ≤ sub then 2 ^ fld f.sns.firCtl 15 8
  else 2 ^ (snsAt f.sns (idx - 0x7800)).cgrp

end Sys2Proof.Machine
end

