-- ==== Sys2Proof/Machine/LegendVal.lean ====
section
/-! DEFINITION. The host side's Legend entries: their values, what a write of each does, what each command does (R278, R279, R300,
R304, R334, R376, R423). Values are big-endian byte strings (R305); codes are those of R340. -/

namespace Sys2Proof.Machine

/-- The key of a fixed entry in the server's tables. -/
def entKey (idx sub : Nat) : Nat := idx * 256 + sub

/-- The default of a profile entry (R334). -/
def profDef (sub : Nat) : List Byte :=
  if sub ≤ 8 ∨ sub = 0x0E ∨ sub = 0x0F then [0, 0, 0, 0]
  else if sub = 0x09 then [2] else if sub = 0x0A then [4] else if sub = 0x0B then [0] else if sub = 0x0C then [1]
  else if sub = 0x0D then [0xFF] else if sub = 0x10 then [0, 0, 0, 0, 0, 0, 0, 0] else []

/-- A profile entry's value. -/
def profGet (t : Tbl (List Byte)) (sub : Nat) : List Byte :=
  match tget [] t sub with
  | [] => profDef sub
  | v => v

/-- A profile with one entry written. -/
def profPut (t : Tbl (List Byte)) (sub : Nat) (v : List Byte) : Tbl (List Byte) := tput [] t sub (if v = profDef sub then [] else v)

/-- IMAGE (R334): the epoch, then subs 01h to 12h in force. -/
def profImage (h : HostDie) : List Byte :=
  bytesBE 4 (h.leg.profEp.getD h.leg.epoch).toNat ++
    ((List.range 18).flatMap (fun i => if i + 1 = 0x11 then fixLen 21 (profGet h.leg.prof 0x11) else profGet h.leg.prof (i + 1)))

/-- 16-bit table entries from `base` on. -/
def words16 (t : Tbl Nat) (base n : Nat) : List Byte := (List.range n).flatMap (fun i => bytesBE 2 (tget 0 t (base + i)))

/-- A map's active entries (R278): `o` and `k` are the bits of OUTSIDE and NOTOKEN. -/
def mapBytes (m : SlotMap) (n o k : Nat) : List Byte :=
  (List.range n).flatMap (fun i => bytesBE 2 (tget 0 m.act i + b2n (tget false m.outside i) * 2 ^ o + b2n (tget false m.noTok i) * 2 ^ k))

/-- Bytes of bits, bit u in byte u / 8. -/
def bitBytes (n : Nat) (p : Nat → Bool) : List Byte :=
  (List.range n).map (fun i => w32 ((List.range 8).foldl (fun a b => a + b2n (p (8 * i + b)) * 2 ^ b) 0) |>.setWidth 8)

/-- SESSIONS (R304): 15 records of RID, role, idle seconds, endpoint type (0 datagram, 1 exchange bank). -/
def sessionBytes (h : HostDie) : List Byte :=
  (List.range 15).flatMap (fun i =>
    match tget none h.leg.sessions i with
    | some s => bytesBE 2 s.rid ++ bytesBE 1 s.role ++ bytesBE 4 ((h.dt.time - s.idle) / 65536000000000) ++ bytesBE 1 (b2n (decide (s.endpoint = 0)))
    | none => List.replicate 8 0)

/-- Values of node control, sessions, profile, events. -/
def valueNode (fd : FieldDie) (h : HostDie) (idx sub : Nat) : List Byte :=
  let l := h.leg
  if idx = 0x0000 then
    (match sub with
     | 1 => bytesBE 4 0x4E412820
     | 2 => bytesBE 4 0x4E412920
     | 3 => bytesBE 8 h.com.fuses.udn.toNat
     | 4 => bytesBE 2 (h.cw.addr % 4096 + b2n h.cw.noaddr * 32768)
     | 5 => bytesBE 1 h.cw.state
     | 6 => bytesBE 4 (leAt h.boot.man 20 4)
     | 7 => bytesBE 4 fd.fb.version.toNat
     | _ => l.name)
  else if idx = 0x0100 then
    (match sub with
     | 4 => sessionBytes h
     | 5 => bytesBE 2 l.idleMax
     | 6 => bytesBE 2 l.udpPort
     | _ => [])
  else if idx = 0x0110 then bytesBE 2 (tget 0 l.tags sub)
  else if idx = 0x0120 then (tget none l.keys sub).getD []
  else if idx = 0x0200 then
    if sub = 0x20 then profImage h
    else if sub = 0x11 ∨ h.cw.isHead = false then profGet l.prof sub else profGet l.profSt sub
  else if idx = 0x0210 then
    (match sub with
     | 1 => bytesBE 4 l.epoch.toNat
     | 3 => bytesBE 1 l.disagree
     | _ => bytesBE 1 (b2n (h.com.weir.farPresent && decide (fd.mute ≠ 0))))
  else if idx = 0x0220 then
    bytesBE 4 (if sub = 1 ∨ (sub = 3 ∧ fd.mer.store1 = false) then l.tag0 else l.tag1).toNat
  else if idx = 0x0300 then (if l.event = [] then [] else eventBytes h l.event)
  else if idx = 0x0400 then bytesBE 4 (ctrGet l.cnt (sub - 1)).toNat
  else if sub = 0x21 then bytesBE 4 l.fired.toNat
  else fixLen 8 (tget [] l.watches (sub - 1))

/-- Values of Datum and Causeway. -/
def valueNet (h : HostDie) (idx sub : Nat) : List Byte :=
  let c := h.cw
  let d := h.dt
  if idx = 0x1000 then
    (match sub with
     | 1 => bytesBE 1 d.cls
     | 2 => bytesBE 4 d.bound
     | 3 => bytesBE 4 (dtStat d).toNat
     | 4 => timeBytes d.time
     | 5 => bytesBE 8 d.anchorM ++ timeBytes d.anchorT
     | 6 => bytesBE 1 (fld d.ctrl 2 0)
     | 7 => bytesBE 2 (fld d.ctrl 31 16) ++ bytesBE 1 (fld d.ctrl 15 8)
     | _ => bytesBE 4 d.hold.toNat)
  else if idx < 0x1103 then bytesBE 4 (dtPortReg h (idx - 0x1100) (4 * (sub - 1))).toNat
  else if idx = 0x2000 then
    if sub ≤ 0x80 then bytesBE 2 (tget 0 c.slotMap.sh (sub - 1))
    else if sub = 0x82 then mapBytes c.slotMap 128 14 13
    else bytesBE 4 c.slotMap.actSeq
  else if idx = 0x2100 then
    if sub ≤ 0x20 then bytesBE 2 (tget 0 c.retMap.sh (sub - 1))
    else if sub = 0x22 then bitBytes 64 (fun u => decide (tget 0 c.tokens u = 1))
    else mapBytes c.retMap 32 13 14
  else if idx = 0x2180 then words16 c.owners (64 * (sub - 1)) 64
  else if idx = 0x2200 then words16 c.srcMap.sh (64 * (sub - 1)) 64
  else if idx = 0x2300 then
    (match sub with
     | 1 => bytesBE 2 (nSlot c)
     | 2 => bytesBE 1 (cwLoop c)
     | 3 => bytesBE 4 c.slead
     | 4 => bytesBE 4 c.ulag
     | 5 => bytesBE 4 c.sleadMin
     | 6 => bytesBE 4 c.ulagMin
     | 7 => bytesBE 1 (loopMin h)
     | 8 => bytesBE 2 c.addrHold
     | _ => bytesBE 1 (fld c.ctrl 5 4))
  else
    (match sub with
     | 1 => bytesBE 4 (cwPort c (idx - 0x2400)).pctl.toNat
     | 2 => bytesBE 4 (cwPstat (cwPort c (idx - 0x2400))).toNat
     | _ => (List.range 8).flatMap (fun i => bytesBE 4 (ctrGet (cwPort c (idx - 0x2400)).cnt i).toNat))

/-- The banks of the host die by the number of Legend 9200h. -/
def hostBankNo (b : Nat) : BankId :=
  match b with
  | 1 => .h0
  | 2 => .h1
  | 3 => .h2
  | 4 => .h3
  | 5 => .n
  | _ => .e

/-- Values of boot, trust, update and integrity. -/
def valueTrust (fd : FieldDie) (h : HostDie) (idx sub : Nat) : List Byte :=
  let b := h.boot
  if idx = 0x8000 then
    (match sub with
     | 1 => bytesBE 1 (lcHost h)
     | 2 => bytesBE 2 (lcOf h.com.fuses + b.lcField * 256 + b2n b.split * 32768)
     | _ => keysBytes h)
  else if idx = 0x8010 then
    (match sub with
     | 1 => bytesBE 1 b.source
     | 2 => bytesBE 4 (quoteFlags h)
     | 3 => bytesBE 4 (leAt b.man 16 4)
     | 4 => bytesBE 4 b.svn.toNat
     | 5 => bytesBE 4 (Config.freeWord 0 120).toNat
     | 6 => fixLen 32 (b.attempts.flatMap (fun a => bytesBE 1 a.1 ++ bytesBE 1 a.2 ++ [0, 0]))
     | 7 => fixLen 1 (tget [] h.leg.extra (entKey 0x8010 7))
     | _ => dirCopy b 0 ++ dirCopy b 1)
  else if idx = 0x8020 then
    if sub ≤ 8 then msGet b (sub - 1)
    else if sub = 0x0A then (List.range 8).flatMap (fun k => bytesBE 2 (tget 0 b.msCnt k))
    else fixLen 48 fd.fb.meas
  else if idx = 0x8030 then
    (match sub with
     | 2 => b.quote
     | 3 => fixLen 96 (Config.ecPublic b.ak)
     | _ => Config.dikCert.take 1024)
  else if idx = 0x8040 then xferStatus b.xfer
  else if idx = 0x9100 then if sub ≤ 0x10 then ledRecord h.com sub else bytesBE 1 (ledThresh h.com.integ (sub - 16))
  else if idx = 0x9200 then
    if sub = 0x21 then bytesBE 1 (if tget [] h.leg.extra (entKey 0x9200 0x21) = [1] then fd.com.integ.result else h.com.integ.result)
    else eccRecord (hostBank h (hostBankNo sub))
  else if sub = 1 then bytesBE 4 b.logSeq
  else b.log.flatMap faultBytes

/-- The value of a host entry. -/
def hostValue (fd : FieldDie) (h : HostDie) (idx sub : Nat) : List Byte :=
  if idx < 0x1000 ∨ idx = 0x9000 then valueNode fd h idx sub else if idx < 0x3000 then valueNet h idx sub else valueTrust fd h idx sub

/-- Sixteen bytes that no rule gives (R310, R344: a challenge). -/
def drawChal (c : Common) : Common × List Byte :=
  (List.range 4).foldl (fun (p : Common × List Byte) i => let d := draw p.1 (110 + i); (d.1, p.2 ++ bytesBE 4 d.2.toNat)) (c, [])

/-- A host entry read (R304, R344): each read of a challenge issues a fresh one. -/
def hostRead (fd : FieldDie) (h : HostDie) (idx sub : Nat) : HostDie × List Byte :=
  if (idx = 0x0100 ∧ sub = 1) ∨ (idx = 0x8000 ∧ sub = 3) then
    let d := drawChal h.com
    let h := { h with com := d.1 }
    if idx = 0x0100 then ({ h with leg := { h.leg with chal := ⟨d.2⟩ :: h.leg.chal } }, d.2)
    else ({ h with boot := { h.boot with chal := some ⟨d.2⟩, issued := d.2 } }, d.2)
  else (h, hostValue fd h idx sub)

/-- Entries that answer STATE while the field side is absent (R6, R304, R13). -/
def needsFar (idx sub : Nat) : Bool := (idx = 0 && (sub = 2 || sub = 7)) || (idx = 0x8020 && sub = 0x10)

/-- Configuration state (R307). -/
def configState (fd : FieldDie) (h : HostDie) : Bool := !h.com.weir.farPresent || !fd.mer.running

/-- Bytes written into a value at an offset. -/
def patch (old : List Byte) (off : Nat) (d : List Byte) : List Byte := fixLen off old ++ d ++ old.drop (off + d.length)

/-- The slots of a map entry list name one slot twice. -/
def twice (t : Tbl Nat) (n : Nat) : Bool :=
  (List.range n).any (fun i => (List.range i).any (fun j =>
    (tget 0 t i).testBit 15 && (tget 0 t j).testBit 15 && decide (tget 0 t i % 512 = tget 0 t j % 512)))

/-- A write of shadow map entries judged (R279). -/
def mapWrite (m : SlotMap) (count : Nat) (unique : Nat) (base : Nat) (vs : List Nat) (mask : Nat) : SlotMap × Nat :=
  let sh := (vs.foldl (fun (p : Tbl Nat × Nat) v => (tput 0 p.1 p.2 (v % (mask + 1) + v / 32768 % 2 * 32768), p.2 + 1)) (m.sh, base)).1
  if vs.any (fun v => decide (count ≤ v % (mask + 1))) then (m, 5)
  else if twice sh unique then (m, 5)
  else if m.pend.isSome then (m, 7)
  else ({ m with sh := sh }, 0)

/-- A map commit judged (R264, R279): `used` is the last sequence used. -/
def mapCommit (m : SlotMap) (count unique mask : Nat) (used : Option Nat) (c : Nat) : SlotMap × Nat :=
  if m.sh.any (fun e => e.2.testBit 15 && decide (count ≤ e.2 % (mask + 1))) ∨ twice m.sh unique = true then (m, 5)
  else if m.pend.isSome then (m, 7)
  else if (match used with | some u => serialGe 32 u c | none => false) = true then (m, 12)
  else ({ m with pend := some c }, 0)

/-- 16-bit numbers of a byte list. -/
def nums16 (d : List Byte) : List Nat := (List.range (d.length / 2)).map (fun i => beAt d (2 * i) 2)

/-- The record of watch `w` (R326): index, sub-index, EN, THRESH. -/
def watchRec (h : HostDie) (w : Nat) : Nat × Nat × Bool × Nat :=
  let r := fixLen 8 (tget [] h.leg.watches w)
  (beAt r 0 2, beAt r 2 1, (beAt r 3 1).testBit 0, beAt r 4 4)

/-- The counter that a watch names as it stands; none where its side is absent. -/
def watchVal (fd : FieldDie) (h : HostDie) (w : Nat) : Option Nat :=
  let r := watchRec h w
  match entryOf fd r.1 r.2.1 with
  | .row e =>
    if e.field = false then some (ofBytesBE (hostValue fd h r.1 r.2.1))
    else if h.com.weir.farPresent then some (ofBytesBE (fieldValue fd r.1 r.2.1)) else none
  | _ => none

/-- A watch's counter is at or above its threshold. -/
def watchHigh (fd : FieldDie) (h : HostDie) (w : Nat) : Bool :=
  match watchVal fd h w with
  | some v => decide ((watchRec h w).2.2.2 ≤ v)
  | none => false

/-- Writes of node control, sessions, profile, events (R304, R326, R334). -/
def writeNode (fd : FieldDie) (h : HostDie) (idx sub off : Nat) (d : List Byte) : HostDie × Nat :=
  let l := h.leg
  let v := ofBytesBE d
  let ok := fun (l : Legend) => (({ h with leg := l } : HostDie), 0)
  if idx = 0x0000 then ok { l with name := d }
  else if idx = 0x0100 then ok (if sub = 5 then { l with idleMax := v } else { l with udpPort := v })
  else if idx = 0x0110 then ok { l with tags := tput 0 l.tags sub (v % 4096 + v / 32768 * 32768) }
  else if idx = 0x0120 then
    if 48 < off + d.length then (h, 5)
    else ok { l with keys := tput none l.keys sub (some (fixLen 48 (patch ((tget none l.keys sub).getD []) off d))) }
  else if idx = 0x0200 then
    let bad := (sub = 9 && decide (2 < v)) || (sub = 0x0A && decide (4 < v)) || (sub = 0x0D && decide (5 < v) && decide (v ≠ 255))
    if bad then (h, 5) else ok { l with profSt := profPut l.profSt sub d }
  else if idx = 0x0220 then
    if h.com.weir.farPresent ∧ (sub = 2) = (fd.mer.store1 = true) then (h, 6)
    else ok (if sub = 1 then { l with tag0 := w32 v } else { l with tag1 := w32 v })
  else if idx = 0x0400 then ok { l with cnt := ctrClear l.cnt (sub - 1) }
  else if sub = 0x21 then
    let high := (List.range 32).foldl (fun (a : W32) w => setBit a w (watchHigh fd h w)) 0
    let held := w32 (ofBytesBE (tget [] l.extra (entKey 0x9000 0x21)))
    let held := (held &&& ~~~ w32 v) ||| (w32 v &&& high)
    ok { l with fired := l.fired &&& ~~~ w32 v, extra := tput [] l.extra (entKey 0x9000 0x21) (bytesBE 4 held.toNat) }
  else
    let r := patch (fixLen 8 (tget [] l.watches (sub - 1))) off d
    if 8 < off + d.length then (h, 5)
    else
      match entryOf fd (beAt r 0 2) (beAt r 2 1) with
      | .row e => if e.fl / 16 % 4 = 1 ∧ e.typ = 4 then ok { l with watches := tput [] l.watches (sub - 1) r } else (h, 5)
      | _ => (h, 5)

/-- Writes of Datum and Causeway (R278, R279, R300). -/
def writeNet (fd : FieldDie) (h : HostDie) (idx sub off : Nat) (d : List Byte) : HostDie × Nat :=
  let c := h.cw
  let v := ofBytesBE d
  if idx = 0x1000 then
    if sub = 6 then if 3 < v then (h, 5) else (dtCtrlWrite (setFld h.dt.ctrl 2 0 v) h, 0)
    else
      let r := patch (valueNet h idx sub) off d
      if 3 < off + d.length ∨ beAt r 2 1 = 0 ∨ 100 < beAt r 2 1 then (h, 5)
      else (dtRegWrite 0x3000 (setFld (setFld h.dt.ctrl 31 16 (beAt r 0 2)) 15 8 (beAt r 2 1)) fd h, 0)
  else if idx < 0x1103 then (dtRegWrite (0x3080 + 16 * (idx - 0x1100) + 4 * (sub - 1)) (w32 v) fd h, 0)
  else if idx = 0x2000 then
    let r := mapWrite c.slotMap (slotCount h) 0 (sub - 1) [v] 1023
    ({ h with cw := { c with slotMap := r.1 } }, r.2)
  else if idx = 0x2100 then
    let r := mapWrite c.retMap (slotCount h) 32 (sub - 1) [v] 511
    ({ h with cw := { c with retMap := r.1 } }, r.2)
  else if idx = 0x2180 ∨ idx = 0x2200 then
    if off % 2 = 1 ∨ d.length % 2 = 1 ∨ 128 < off + d.length then (h, 5)
    else
      let base := 64 * (sub - 1) + off / 2
      if idx = 0x2200 then
        let r := mapWrite c.srcMap (slotCount h) 0 base (nums16 d) 511
        ({ h with cw := { c with srcMap := r.1 } }, r.2)
      else
        (((nums16 d).foldl (fun (p : HostDie × Nat) w =>
          let e := w % 4096 + w / 32768 * 32768
          if tget 0 p.1.cw.owners p.2 = e then (p.1, p.2 + 1)
          else (regrant { p.1 with cw := { p.1.cw with owners := tput 0 p.1.cw.owners p.2 e } } p.2, p.2 + 1)) (h, base)).1, 0)
  else if idx = 0x2300 then
    (match sub with
     | 1 =>
       let top := if c.sys1000 then 256 else 512
       if v % 16 = 0 ∧ 16 ≤ v ∧ v ≤ top then (cwStreamWrite (setFld c.stream 9 0 v) h, 0) else (h, 5)
     | 2 => if 1 ≤ v ∧ v ≤ 15 then (cwStreamWrite (setFld c.stream 19 16 v) h, 0) else (h, 5)
     | 3 => if v < 2 ^ 20 ∧ v * rateHz (hRate h) ≤ 8 * hPeriod h * 1000000000 then (cwRegWrite 0x2010 (w32 v) fd h, 0) else (h, 5)
     | 4 => if v < 2 ^ 20 ∧ v * rateHz (hRate h) ≤ 8 * hPeriod h * 1000000000 then (cwRegWrite 0x2014 (w32 v) fd h, 0) else (h, 5)
     | 8 => ({ h with cw := { c with addrHold := v } }, 0)
     | _ => if v ≤ 2 then (cwCtrlWrite (setFld c.ctrl 5 4 v) h, 0) else (h, 5))
  else if sub = 1 then (pctlSee (idx - 0x2400) (w32 v) fd h, 0)
  else (modPort h (idx - 0x2400) (fun p => { p with cnt := (List.range 8).foldl ctrClear p.cnt }), 0)

/-- Writes of update and integrity (R373, R423). -/
def writeTrust (h : HostDie) (idx sub off : Nat) (d : List Byte) : HostDie × Nat :=
  if idx = 0x8040 then imagePiece h off d
  else if idx = 0x9100 then (threshWrite hostOps (sub - 16) (ofBytesBE d) h, 0)
  else
    let id := hostBankNo sub
    let b := hostBank h id
    (hostSetBank h id { b with cnt := (List.range 3).foldl ctrClear b.cnt, last := 0 }, 0)

/-- A write of a host entry: the die after it and the response code. -/
def hostWrite (fd : FieldDie) (h : HostDie) (idx sub off : Nat) (d : List Byte) : HostDie × Nat :=
  if idx < 0x1000 ∨ idx = 0x9000 then writeNode fd h idx sub off d
  else if idx < 0x3000 then writeNet fd h idx sub off d else writeTrust h idx sub off d

/-! ### Commands -/

/-- What an ACTION on a host entry brings with it: who asks, the endpoint, whether the challenge is past its time, whether the AUTH
answers counted for the lockout fell within 60 s. -/
structure ActCtx where
  rid    : Nat
  role   : Nat
  late   : Bool
  ep     : Nat
  within : Bool
  deriving DecidableEq, Repr

/-- The answer of a command: code, type and bytes of its result. -/
structure ActRes where
  code : Nat
  typ  : Nat
  data : List Byte
  deriving DecidableEq, Repr

/-- A command with no result. -/
def actCode (c : Nat) : ActRes := ⟨c, 0x0E, []⟩

/-- The epoch after the next one is taken (R333): 0 is skipped. -/
def epochNext (e : W32) : W32 := if e + 1 = 0 then 1 else e + 1

/-- OPEN (R310, R311). -/
def openSession (h : HostDie) (x : ActCtx) (d : List Byte) : HostDie × ActRes :=
  let l := h.leg
  let fail := fun (l : Legend) =>
    let n := (if x.within then l.authRun else 0) + 1
    (({ h with leg := { l with authRun := if n = 8 then 0 else n, lockout := decide (n = 8) } } : HostDie), actCode 10)
  let role := beAt d 0 1
  let chal := slice d 1 16
  let known := l.chal.any (fun c => decide (c.bytes = chal)) && !x.late
  let proof := match tget none l.keys (role + 1) with
    | some k => decide (slice d 17 48 = Config.hmac384 k (chal ++ bytesBE 1 role ++ bytesBE 8 h.com.fuses.udn.toNat))
    | none => false
  let free := (List.range 15).find? (fun i => decide (tget none l.sessions i = none))
  if l.lockout then (h, actCode 10)
  else if h.cw.noaddr ∧ h.cw.state ≠ 4 then (h, actCode 6)
  else if d.length ≠ 65 then (h, actCode 4)
  else if 2 < role then (h, actCode 5)
  else
    let l := { l with chal := l.chal.filter (fun c => decide (c.bytes ≠ chal)) }
    if !(known && (proof || (lcHost h ≤ 1 && role = 2))) then fail l
    else
      match free with
      | none => ({ h with leg := l }, actCode 7)
      | some i =>
        let rid := i * 4096 + ownAddr h.cw
        ({ h with leg := { l with sessions := tput none l.sessions i (some ⟨rid, role, x.ep, h.dt.time⟩) } },
         ⟨0, 0x0E, bytesBE 2 rid ++ bytesBE 2 l.idleMax⟩)

/-- Persistent entries of the host side with their numbers of sub-indexes (R313): those of a row, by index and sub-index. -/
def rowKeys (r : LegRow) : List (Nat × Nat) :=
  (List.range (r.hi + 1 - r.lo)).flatMap (fun i => (List.range (r.sh + 1 - r.sl)).map (fun j => (r.lo + i, r.sl + j)))

/-- The persistent fixed entries of a side. -/
def persistKeys (field : Bool) : List (Nat × Nat) :=
  (legRows.filter (fun r => decide (r.field = field) && decide (r.fl % 2 = 1) && decide (r.acc ≠ 0) && decide (r.lo ≠ 0x0200))).flatMap rowKeys

/-- The bound application entries that persist (R313): index, sub-index, bytes. -/
def boundKeys (fd : FieldDie) : List (Nat × Nat × Nat) :=
  (List.range fd.cg.nentAct).filterMap (fun e =>
    let w0 := tget 0 fd.cg.bindAct (2 * e)
    match bindFind fd.cg.bindAct fd.cg.nentAct (fld w0 15 0) (fld w0 23 16) with
    | some k =>
      if k = e ∧ (bindRow fd.cg.bindAct e (fld w0 15 0) (fld w0 23 16)).acc = 1 then
        some (fld w0 15 0, fld w0 23 16, (bindRow fd.cg.bindAct e 0 0).size)
      else none
    | none => none)

/-- The record that SAVE writes (R314): every persistent value that differs from its default. -/
def saveRecord (fd : FieldDie) (h : HostDie) : Tbl (List Byte) :=
  let far := h.com.weir.farPresent
  let d := hostDie0 (bit h.cw.ctrl 8)
  let host := (persistKeys false).foldl (fun (t : Tbl (List Byte)) k =>
    let v := hostValue fd h k.1 k.2
    if v = hostValue fieldDie0 d k.1 k.2 then t else tput [] t (entKey k.1 k.2) v) []
  let prof := if h.cw.isHead then (List.range 18).foldl (fun (t : Tbl (List Byte)) i => tput [] t (entKey 0x0200 (i + 1)) (tget [] h.leg.prof (i + 1))) host else host
  let field := if far then (persistKeys true).foldl (fun (t : Tbl (List Byte)) k =>
    let v := fieldValue fd k.1 k.2
    if v = fieldValue fieldDie0 k.1 k.2 then t else tput [] t (entKey k.1 k.2) v) prof else prof
  if far then (boundKeys fd).foldl (fun (t : Tbl (List Byte)) k => tput [] t (entKey k.1 k.2.1) (fieldValue fd k.1 k.2.1)) field else field

/-- The type of a field entry. -/
def entryType (fd : FieldDie) (idx sub : Nat) : Nat :=
  match entryOf fd idx sub with
  | .row r => r.typ
  | _ => 0x0E

/-- A value written to a field entry by the host firmware, in pieces of at most 256 bytes (R318). -/
def askFieldAll (fd : FieldDie) (h : HostDie) (idx sub : Nat) (v : List Byte) : HostDie :=
  (List.range ((v.length + 255) / 256)).foldl (fun h i =>
    let h := { h with leg := { h.leg with selfSeq := (h.leg.selfSeq + 1) % 65536 } }
    { h with com := weirQueue h.com (paramWriteMsg false (0xF000 + ownAddr h.cw) h.leg.selfSeq idx sub (entryType fd idx sub) (256 * i)
        (slice v (256 * i) 256)) }) h

/-- A persistent value put back without judging (R313, R314). The epoch and an entry of the head's alone are handled by the caller. -/
def putBack (fd : FieldDie) (h : HostDie) (idx sub : Nat) (v : List Byte) : HostDie :=
  if idx = 0x0120 then { h with leg := { h.leg with keys := tput none h.leg.keys sub (if v = [] then none else some v) } }
  else if idx = 0x9000 then { h with leg := { h.leg with watches := tput [] h.leg.watches (sub - 1) v } }
  else (hostWrite fd h idx sub 0 v).1

/-- The default of a field entry (R312): the reset value of what it presents; the words of a coefficient group are 0. -/
def fieldDefault (fd : FieldDie) (idx sub : Nat) : List Byte :=
  if 0x4010 ≤ idx ∧ idx < 0x4110 ∧ (sub = 0x10 ∨ sub = 0x11) then List.replicate (fieldValue fd idx sub).length 0 else fieldValue fieldDie0 idx sub

/-- The order in which DEFAULTS writes the field side's entries, so that none refuses its default: coefficient words, then what disables a function, then
the others, the descriptors of the groups last (log entry 16). -/
def defaultRank (idx sub : Nat) : Nat :=
  if 0x4010 ≤ idx ∧ idx < 0x4110 then (if sub = 0x10 then 0 else 3)
  else if (0x6000 ≤ idx ∧ idx < 0x6400 ∧ sub = 3) ∨ (0x6400 ≤ idx ∧ idx < 0x6C00 ∧ sub = 1) ∨ (0x7000 ≤ idx ∧ idx < 0x7018 ∧ sub = 3) ∨
      (idx = 0x7200 ∧ 0x21 ≤ sub ∧ sub ≤ 0x30) ∨ (0x7800 ≤ idx ∧ idx < 0x7820 ∧ sub = 3) ∨ (0x7900 ≤ idx ∧ sub = 1) ∨ (idx = 0x6C00 ∧ sub = 3) then 1
  else 2

/-- DEFAULTS (R313): the epoch stays as it is (log entry 16). -/
def defaultsAct (fd : FieldDie) (h : HostDie) : HostDie × ActRes :=
  if configState fd h = false then (h, actCode 6)
  else
    let d := hostDie0 (bit h.cw.ctrl 8)
    let h := (persistKeys false).foldl (fun h k => putBack fd h k.1 k.2 (hostValue fieldDie0 d k.1 k.2)) h
    let h := if h.cw.isHead then { h with leg := { h.leg with prof := tput [] [] 0x11 (tget [] h.leg.prof 0x11), profSt := [] } } else h
    let h := if h.com.weir.farPresent then
        let h := (boundKeys fd).foldl (fun h k => askFieldAll fd h k.1 k.2.1 (List.replicate k.2.2 0)) h
        (List.range 4).foldl (fun h r => ((persistKeys true).filter (fun k => decide (defaultRank k.1 k.2 = r))).foldl (fun h k =>
          let v := fieldDefault fd k.1 k.2
          if fieldValue fd k.1 k.2 = v then h else askFieldAll fd h k.1 k.2 v) h) h
      else h
    (safeMove h, actCode 0)

/-- APPLY (R333, R334). -/
def applyProfile (h : HostDie) : HostDie :=
  let l := h.leg
  let e := epochNext l.epoch
  { h with leg := { l with prof := tput [] l.profSt 0x11 (tget [] l.prof 0x11), epoch := e, profEp := some e } }

/-- ADVANCE (R343, R346, R347, R375). -/
def advanceAct (h : HostDie) (late : Bool) (d : List Byte) : HostDie × ActRes :=
  let r := advanceJudge h late d
  if r.2 ≠ 0 then (r.1, actCode r.2)
  else
    let dst := beAt d 0 1
    let h := { r.1 with com := { r.1.com with fuses := lcTake r.1.com.fuses dst } }
    let h := hostFault h 3 [w32 dst]
    let h := splitNow (askMeasure (askField h 0x0E 0x8000 4 d))
    if dst = 4 then (hostRst 0xA5C30001 false (askField h 3 0x8040 0x10 [0xA5, 0xC3]), actCode 0) else (h, actCode 0)

/-- ACTIVATE (R374): the directory written, and with policy 0 only what changed restarted. -/
def imageActivate (h : HostDie) (policy : Nat) : HostDie × ActRes :=
  if h.boot.xfer.state ≠ 3 then (h, actCode 6)
  else if 1 < policy then (h, actCode 5)
  else
    let s := slotFree h.boot
    let dig := imageDigests (slotBlock h.boot s)
    let h := { h with boot := { dirWrite h.boot s with xfer := xfer0 } }
    if policy = 1 then (h, actCode 0)
    else
      let meas := ((h.leg.fieldMs.drop 1).flatMap (fun w => bytesLE 4 w.toNat)).take 48
      let field := decide (dig.getD 2 [] ≠ []) && decide (dig.getD 2 [] ≠ meas) && h.com.weir.farPresent
      let core := decide (dig.take 2 ≠ h.boot.runDig.take 2)
      let h := if field then askField h 3 0x8040 0x10 [0xA5, 0xC3] else h
      (if core then hostRst 0xA5C30001 false h else h, actCode 0)

/-- MARCH on a host bank (R412, R423). -/
def marchAct (h : HostDie) (b mode : Nat) : HostDie × Nat :=
  let h' := { h with leg := { h.leg with extra := tput [] h.leg.extra (entKey 0x9200 0x21) [] } }
  if mode ≠ 1 ∧ mode ≠ 2 ∨ b = 0 ∨ 6 < b then (h, 5)
  else if mode = 2 ∧ hostOps.destrOk h (hostBankNo b) = false then (marchStart hostOps h' (b - 1) mode, 6)
  else if marching h.com.integ (b - 1) then (marchStart hostOps h' (b - 1) mode, 7)
  else (marchStart hostOps h' (b - 1) mode, 0)

/-- The commands of node control, sessions, profile, network. -/
def actNode (fd : FieldDie) (h : HostDie) (x : ActCtx) (idx sub : Nat) (d : List Byte) : HostDie × ActRes :=
  let v := ofBytesBE d
  if idx = 0x0010 then
    (match sub with
     | 1 => (safeMove { h with leg := { h.leg with stopped := true } }, actCode 0)
     | 2 => (safeMove { h with leg := { h.leg with stopped := false } }, actCode 0)
     | _ => defaultsAct fd h)
  else if idx = 0x0100 then
    if sub = 2 then openSession h x d
    else if x.rid % 4096 = ownAddr h.cw ∧ (tget none h.leg.sessions (x.rid / 4096)).isSome then (h, actCode 0) else (h, actCode 6)
  else if idx = 0x0200 then (safeMove (applyProfile h), actCode 0)
  else if idx = 0x0210 then ({ h with leg := { h.leg with epoch := epochNext h.leg.epoch, profEp := some (epochNext h.leg.epoch) } }, actCode 0)
  else if idx = 0x1000 then
    if sub = 9 then
      if d.length ≠ 9 then (h, actCode 4)
      else
        let r := rateJudge fd h (beAt d 0 8) (beAt d 8 1)
        (rateTake fd h (beAt d 0 8) (beAt d 8 1),
         actCode (if r = 1 then 0 else if r = 5 then 7 else if r = 3 then 12 else 5))
    else (timeStep (w32 (2 ^ 31 + v)) h, actCode 0)
  else if idx = 0x2000 then
    let r := mapCommit h.cw.slotMap (slotCount h) 0 1023 h.cw.tookS v
    ({ h with cw := { h.cw with slotMap := r.1 } }, actCode r.2)
  else if idx = 0x2100 then
    let r := mapCommit h.cw.retMap (slotCount h) 32 511 h.cw.sentU v
    ({ h with cw := { h.cw with retMap := r.1 } }, actCode r.2)
  else if idx = 0x2200 then
    let r := mapCommit h.cw.srcMap (slotCount h) 0 511 h.cw.formedS v
    ({ h with cw := { h.cw with srcMap := r.1 } }, actCode r.2)
  else (startEnum h, actCode 0)

/-- The commands of boot, trust, update and integrity. -/
def actTrust (h : HostDie) (x : ActCtx) (idx sub : Nat) (d : List Byte) : HostDie × ActRes :=
  let code := fun (r : HostDie × Nat) => (r.1, actCode r.2)
  if idx = 0x8000 then
    (match sub with
     | 4 => advanceAct h x.late d
     | 5 => code (unlockAct h x.late d)
     | 7 => code (keyAdd h x.late d)
     | _ => code (keyRevoke h x.late d))
  else if idx = 0x8020 then
    if d.length ≠ 49 then (h, actCode 4)
    else if beAt d 0 1 ≠ 6 ∧ beAt d 0 1 ≠ 7 then (h, actCode 5)
    else ({ h with boot := msPush h.boot (beAt d 0 1) (d.drop 1) }, actCode 0)
  else if idx = 0x8040 then
    (match sub with
     | 1 => code (imageOpen h (ofBytesBE d))
     | 4 => imageActivate h (ofBytesBE d)
     | 5 => code (imageAbort h)
     | _ => (h, actCode 0))
  else if idx = 0x9100 then
    let b := beAt d 0 1
    if d.length ≠ 3 then (h, actCode 4)
    else if b = 0 ∨ 6 < b ∨ bankRows (hostBankNo b) ≤ beAt d 1 2 then (h, actCode 5)
    else (repairAsk hostOps (b - 1) (beAt d 1 2) h, actCode 0)
  else if idx = 0x9200 then if d.length ≠ 2 then (h, actCode 4) else code (marchAct h (beAt d 0 1) (beAt d 1 1))
  else ({ h with boot := { h.boot with log := [] } }, actCode 0)

/-- A command of the host side: the die after it, and its answer. -/
def hostAction (fd : FieldDie) (h : HostDie) (x : ActCtx) (idx sub : Nat) (d : List Byte) : HostDie × ActRes :=
  if idx < 0x3000 then actNode fd h x idx sub d else actTrust h x idx sub d

end Sys2Proof.Machine
end

