-- ==== Sys2Proof/Machine/LegendOps.lean ====
section
/-! DEFINITION. The Legend server: judging, the duplicate store, services, forwarding across the Weir, bundles, subscriptions, the
profile (R301 to R340). -/

namespace Sys2Proof.Machine

/-! ### The duplicate store (R327 to R329) -/

/-- The outcomes held of a requester. -/
def dupOuts (h : HostDie) (rid : Nat) : Option (List (Nat × Outcome)) := (h.leg.dups.find? (fun r => decide (r.rid = rid))).map (·.outs)

/-- An outcome stored: the last 16 of each requester. -/
def dupPut (h : HostDie) (rid rseq : Nat) (o : Outcome) : HostDie :=
  let outs := ((rseq, o) :: ((dupOuts h rid).getD []).filter (fun e => decide (e.1 ≠ rseq))).take 16
  { h with leg := { h.leg with dups := ⟨rid, outs⟩ :: h.leg.dups.filter (fun r => decide (r.rid ≠ rid)) } }

/-- What the store says of a request (R328). -/
inductive DupCase where
  | stored (m : LegMsg)
  | stale
  | full
  | serve
  deriving DecidableEq, Repr

/-- The case of a request. -/
def dupCase (h : HostDie) (rid rseq : Nat) : DupCase :=
  match dupOuts h rid with
  | none => if 64 ≤ h.leg.dups.length then .full else .serve
  | some outs =>
    match outs.find? (fun e => decide (e.1 = rseq)) with
    | some (_, .answered m) => .stored m
    | some (_, .abandoned) => .serve
    | none =>
      match outs with
      | [] => .serve
      | (newest, _) :: _ =>
        let d := (newest + 2 ^ 16 - rseq % 2 ^ 16) % 2 ^ 16
        if 1 ≤ d ∧ d ≤ 32767 then .stale else .serve

/-- DUP_EXPIRY on the host side (R327). -/
def dupExpire (h : HostDie) (rid rseq : Nat) : HostDie :=
  { h with leg := { h.leg with dups := (h.leg.dups.map (fun r =>
      if r.rid = rid then { r with outs := r.outs.filter (fun e => decide (e.1 ≠ rseq)) } else r)).filter (fun r => decide (r.outs ≠ [])) } }

/-! ### Answers -/

/-- The parts of a request that its answer repeats. -/
structure Asked where
  svc   : Nat
  rid   : Nat
  rseq  : Nat
  role  : Nat
  flags : Nat
  via   : LegVia
  deriving DecidableEq, Repr

/-- What a service answers: code, item, body, MORE. -/
structure Ans where
  code : Nat
  item : Nat
  body : List Byte
  more : Bool
  deriving DecidableEq, Repr

/-- An event on a counter of the Legend server (R304). -/
def legCount (h : HostDie) (i : Nat) : HostDie := { h with leg := { h.leg with cnt := ctrAdd h.leg.cnt i 1 } }

/-- The message of an answer (R316, R317). -/
def ansMsg (h : HostDie) (q : Asked) (a : Ans) : LegMsg :=
  { svc := 128 + q.svc, flags := 4 * b2n a.more, rid := q.rid, rseq := q.rseq, role := q.role, code := a.code, epoch := h.leg.epoch, item := a.item,
    body := a.body }

/-- A message sent to the requester: to a tool's endpoint, to the node itself, or by its RID; QUIET_OK keeps an OK back (R323). -/
def ansSend (h : HostDie) (q : Asked) (m : LegMsg) : HostDie :=
  if q.flags.testBit 1 ∧ m.code = 0 then h
  else match q.via with
    | .tool e => legLocal h e false m
    | .own => legHere h false m
    | .chain => legSend h false m

/-- An answer stored and sent. -/
def answer (h : HostDie) (q : Asked) (a : Ans) : HostDie :=
  let m := ansMsg h q a
  ansSend (dupPut (if a.code = 10 then legCount h 6 else h) q.rid q.rseq (.answered m)) q m

/-- An error answer names the entry alone (R317). -/
def ansErr (code idx sub : Nat) : Ans := ⟨code, 0, bytesBE 2 idx ++ bytesBE 1 sub, false⟩

/-- A request is still being served (R329). -/
def inFlight (h : HostDie) (rid rseq : Nat) : Bool :=
  (h.leg.fwd ++ h.leg.saving.toList ++ h.leg.quoting.toList).any (fun w => decide (w.rid = rid) && decide (w.rseq = rseq))

/-! ### Judging -/

/-- UTF-8 (R306), within `n` bytes. -/
def utf8Go : Nat → List Byte → Bool
  | 0, l => decide (l = [])
  | n + 1, l =>
    match l with
    | [] => true
    | a :: t =>
      let a := a.toNat
      let cont := fun (k : Nat) => decide (k ≤ t.length) && (t.take k).all (fun b => decide (b.toNat / 64 = 2))
      let b := (byAt t 0).toNat
      if a < 128 then utf8Go n t
      else if 0xC2 ≤ a ∧ a < 0xE0 then cont 1 && utf8Go n (t.drop 1)
      else if 0xE0 ≤ a ∧ a < 0xF0 then
        cont 2 && !(decide (a = 0xE0) && decide (b < 0xA0)) && !(decide (a = 0xED) && decide (0xA0 ≤ b)) && utf8Go n (t.drop 2)
      else if 0xF0 ≤ a ∧ a < 0xF5 then
        cont 3 && !(decide (a = 0xF0) && decide (b < 0x90)) && !(decide (a = 0xF4) && decide (0x90 ≤ b)) && utf8Go n (t.drop 3)
      else false

/-- A byte string is UTF-8. -/
def utf8Ok (l : List Byte) : Bool := utf8Go l.length l

/-- The type and length of a value fit an entry (R306). -/
def typeOk (r : LegRow) (typ : Nat) (d : List Byte) : Bool :=
  decide (typ = r.typ) &&
    (if typ = 0x0D then decide (d.length ≤ 64) && utf8Ok d else if typ = 0x0E then decide (d.length ≤ r.size) else decide (d.length = r.size))

/-- The rank of a role on the wire (R308). -/
def roleRank (role : Nat) : Nat := if role ≤ 2 then role + 1 else 0

/-- The services as access codes judge them (R307): reading, writing, commanding. -/
inductive AccKind where
  | read | write | act
  deriving DecidableEq, Repr

/-- The access code permits the kind. -/
def accOk (r : LegRow) (k : AccKind) : Bool :=
  match k with
  | .read => decide (r.acc = 0) || decide (r.acc = 1) || decide (r.acc = 3)
  | .write => decide (r.acc = 1) || decide (r.acc = 2) || decide (r.acc = 3)
  | .act => decide (r.acc = 4)

/-- Entries of the profile and the stream settings that are RO away from the head (R278, R334). -/
def roHere (h : HostDie) (idx sub : Nat) : Bool := !h.cw.isHead && (idx = 0x0200 || (idx = 0x2300 && decide (sub ≤ 4)))

/-- Steps 3 and 4 of R319: the entry, its access, the role. The number is a response code, 0 where the row follows. -/
def entJudge (fd : FieldDie) (h : HostDie) (k : AccKind) (role idx sub : Nat) : Nat × LegRow :=
  let none' : LegRow := hrow 0 0 0 0 0 0 0 0 0 0
  match entryOf fd idx sub with
  | .noObject => (1, none')
  | .noSub => (2, none')
  | .row r =>
    let need := if k = .read then r.rr else r.wr
    if accOk r k = false ∨ (k = .write ∧ roHere h idx sub) then (3, r)
    else if k = .write ∧ r.acc = 3 ∧ configState fd h = false then (6, r)
    else if roleRank role < need then (if roleRank role = 0 then 10 else 3, r)
    else (0, r)

/-- Head-only entries answer STATE elsewhere, and far entries while the far side is absent (R13, R278, R323). -/
def stateBad (h : HostDie) (r : LegRow) (idx sub : Nat) : Bool :=
  (r.fl.testBit 2 && !h.cw.isHead && !(idx = 0x2300 && decide (sub ≤ 4))) || ((r.field || needsFar idx sub) && !h.com.weir.farPresent)

/-- A value outside its type's own limits (R306). -/
def valueBad (r : LegRow) (off : Nat) (d : List Byte) : Bool :=
  (decide (r.typ = 1) && decide (1 < ofBytesBE d)) || (decide (r.typ ≠ 0x0E) && decide (off ≠ 0))

/-- Steps 5 to 7 of R319 for a value: TYPE, TOO_BIG, STATE, RANGE. -/
def valueJudge (h : HostDie) (r : LegRow) (idx sub typ off : Nat) (d : List Byte) : Nat :=
  if typeOk r typ d = false then 4 else if 256 < d.length then 11 else if stateBad h r idx sub then 6 else if valueBad r off d then 5 else 0

/-! ### Services -/

/-- The fields of a request's body (R317). -/
structure Parts where
  idx  : Nat
  sub  : Nat
  typ  : Nat
  off  : Nat
  data : List Byte
  /-- MAXLEN, or PERIOD. -/
  num  : Nat
  opt  : Nat
  deriving DecidableEq, Repr

/-- A body taken apart; none where it ends inside a field, goes on past its fields, or sets a reserved bit (R318). -/
def parts (svc : Nat) (b : List Byte) : Option Parts :=
  let p : Parts := ⟨beAt b 0 2, beAt b 2 1, 0, 0, [], 0, 0⟩
  if svc = 1 ∨ svc = 7 then (if b.length = 3 then some p else none)
  else if svc = 2 then
    (if 10 ≤ b.length ∧ b.length = 10 + beAt b 8 2 then some { p with typ := beAt b 3 1, off := beAt b 4 4, data := b.drop 10 } else none)
  else if svc = 3 then (if b.length = 9 then some { p with off := beAt b 3 4, num := beAt b 7 2 } else none)
  else if svc = 5 then (if b.length = 6 ∧ beAt b 5 1 ≤ 1 then some { p with num := beAt b 3 2, opt := beAt b 5 1 } else none)
  else if svc = 6 then
    (if 6 ≤ b.length ∧ b.length = 6 + beAt b 4 2 then some { p with typ := beAt b 3 1, data := b.drop 6 } else none)
  else none

/-- A request sent on across the Weir, to be answered by a PARAM_RESP (R329). -/
def forward (h : HostDie) (w : Fwd) (m : WMsg) : HostDie :=
  { h with com := weirQueue h.com m, leg := { h.leg with fwd := h.leg.fwd ++ [w] } }

/-- A request waiting for its answer. -/
def fwdOf (q : Asked) (idx sub : Nat) (k : FwdKind) : Fwd := ⟨q.rid, q.rseq, q.role, q.flags, q.via, idx, sub, k, 0, false⟩

/-- The body of a READ answer. -/
def readBody (idx sub typ : Nat) (v : List Byte) : List Byte := bytesBE 2 idx ++ bytesBE 1 sub ++ bytesBE 1 typ ++ bytesBE 2 v.length ++ v

/-- A READ answer (R318). -/
def readAns (idx sub typ : Nat) (v : List Byte) : Ans := if 256 < v.length then ansErr 11 idx sub else ⟨0, 0, readBody idx sub typ v, false⟩

/-- A READ_BLOCK answer (R317, R318). -/
def blockAns (idx sub typ off max : Nat) (v : List Byte) : Ans :=
  if v.length < off then ansErr 5 idx sub
  else
    let d := slice v off (min max 992)
    ⟨0, 0, bytesBE 2 idx ++ bytesBE 1 sub ++ bytesBE 1 typ ++ bytesBE 4 v.length ++ bytesBE 4 off ++ bytesBE 2 d.length ++ d,
      decide (off + d.length < v.length)⟩

/-- READ and READ_BLOCK (R317). -/
def svcRead (fd : FieldDie) (q : Asked) (p : Parts) (h : HostDie) : HostDie × Option Ans :=
  let j := entJudge fd h .read q.role p.idx p.sub
  let blk := decide (q.svc = 3)
  if j.1 ≠ 0 then (h, some (ansErr j.1 p.idx p.sub))
  else if !blk ∧ j.2.field ∧ h.com.weir.farPresent ∧ 256 < (fieldValue fd p.idx p.sub).length then (h, some (ansErr 11 p.idx p.sub))
  else if stateBad h j.2 p.idx p.sub then (h, some (ansErr 6 p.idx p.sub))
  else if blk ∧ j.2.typ ≠ 0x0E ∧ p.off ≠ 0 then (h, some (ansErr 5 p.idx p.sub))
  else if j.2.field then
    (forward h (fwdOf q p.idx p.sub (.read blk p.off p.num)) (paramReadMsg q.rid q.rseq p.idx p.sub j.2.typ), none)
  else
    let r := hostRead fd h p.idx p.sub
    (r.1, some (if blk then blockAns p.idx p.sub j.2.typ p.off p.num r.2 else readAns p.idx p.sub j.2.typ r.2))

/-- WRITE (R317). -/
def svcWrite (fd : FieldDie) (q : Asked) (p : Parts) (h : HostDie) : HostDie × Option Ans :=
  let j := entJudge fd h .write q.role p.idx p.sub
  let j1 := if (j.1 = 3 ∨ j.1 = 10) ∧ h.boot.inRom ∧ p.idx = 0x8040 ∧ p.sub = 2 then 0 else j.1
  if j1 ≠ 0 then (h, some (ansErr j1 p.idx p.sub))
  else
    let c := valueJudge h j.2 p.idx p.sub p.typ p.off p.data
    if c ≠ 0 then (h, some (ansErr c p.idx p.sub))
    else if j.2.field then
      (forward h (fwdOf q p.idx p.sub .write) (paramWriteMsg (j.2.fl.testBit 1) q.rid q.rseq p.idx p.sub p.typ p.off p.data), none)
    else
      let r := hostWrite fd h p.idx p.sub p.off p.data
      (r.1, some (ansErr r.2 p.idx p.sub))

/-- An ACTION whose entry the host presents and the field side executes: the repair and the test of a field bank (R423). -/
def actsField (idx sub : Nat) (d : List Byte) : Bool :=
  ((idx = 0x9100 && sub = 0x40) || (idx = 0x9200 && sub = 0x20)) && decide (7 ≤ beAt d 0 1)

/-- ACTION (R317). SAVE and QUOTE are answered when they are done. -/
def svcAct (fd : FieldDie) (q : Asked) (x : ActCtx) (p : Parts) (h : HostDie) : HostDie × Option Ans :=
  let j := entJudge fd h .act q.role p.idx p.sub
  let err := fun (c : Nat) => (h, some (ansErr c p.idx p.sub))
  if j.1 ≠ 0 then err j.1
  else if typeOk j.2 p.typ p.data = false then err 4
  else if 256 < p.data.length then err 11
  else if stateBad h j.2 p.idx p.sub then err 6
  else if j.2.field ∨ actsField p.idx p.sub p.data then
    if h.com.weir.farPresent = false then err 6
    else
      let h := if p.idx = 0x9200 then { h with leg := { h.leg with extra := tput [] h.leg.extra (entKey 0x9200 0x21) [1] } } else h
      (forward h (fwdOf q p.idx p.sub .act) (paramWriteMsg false q.rid q.rseq p.idx p.sub p.typ 0 p.data), none)
  else if p.idx = 0x0010 ∧ p.sub = 3 then
    if h.leg.saving.isSome then err 7 else ({ h with leg := { h.leg with saving := some (fwdOf q p.idx p.sub .act) } }, none)
  else if p.idx = 0x8030 then
    if 3 ≤ lcHost h then err 6
    else if h.boot.quoteBusy then err 7
    else
      ({ h with boot := { h.boot with quoteBusy := true, quoteReq := p.data },
                leg := { h.leg with quoting := some (fwdOf q p.idx p.sub .act) } }, none)
  else
    let r := hostAction fd h x p.idx p.sub p.data
    (r.1, some (if r.2.code = 0 then ⟨0, 0, readBody p.idx p.sub r.2.typ r.2.data, false⟩ else ansErr r.2.code p.idx p.sub))

/-- SUBSCRIBE (R324). -/
def svcSubscribe (fd : FieldDie) (q : Asked) (p : Parts) (h : HostDie) : HostDie × Option Ans :=
  let j := entJudge fd h .read q.role p.idx p.sub
  let err := fun (c : Nat) => (h, some (ansErr c p.idx p.sub))
  let ok := fun (h : HostDie) (id : Nat) => (h, some (⟨0, 0, bytesBE 1 id, false⟩ : Ans))
  let same := h.leg.subs.find? (fun s => decide (s.rid = q.rid) && decide (s.idx = p.idx) && decide (s.sub = p.sub))
  let events := decide (p.idx = 0x0300)
  if j.1 ≠ 0 then err j.1
  else if stateBad h j.2 p.idx p.sub then err 6
  else if p.num = 0 then
    match same with
    | some s => ok { h with leg := { h.leg with subs := h.leg.subs.filter (fun t => decide (t.id ≠ s.id)) } } s.id
    | none => ok h 0
  else if !events ∧ (p.num < 10 ∨ 60000 < p.num) then err 5
  else
    match same with
    | some s =>
      ok { h with leg := { h.leg with subs := h.leg.subs.map (fun t =>
        if t.id = s.id then { t with period := p.num, onChg := decide (p.opt = 1) } else t) } } s.id
    | none =>
      match (List.range 32).find? (fun i => h.leg.subs.all (fun t => decide (t.id ≠ i))) with
      | none => err 7
      | some i => ok { h with leg := { h.leg with subs := h.leg.subs ++ [⟨i, q.rid, q.via, p.idx, p.sub, p.num, decide (p.opt = 1), none, 0⟩] } } i

/-- A least role as DESCRIBE gives it (R308). -/
def roleByte (r : Nat) : List Byte := bytesBE 1 (if r = 0 then 0xFF else r - 1)

/-- The default of an entry (R312); none where it is not read or is longer than a READ serves. -/
def entDefault (fd : FieldDie) (h : HostDie) (r : LegRow) (idx sub : Nat) : List Byte :=
  if r.acc = 2 ∨ r.acc = 4 ∨ 256 < r.size ∨ (idx = 0x0100 ∧ sub = 1) ∨ (idx = 0x8000 ∧ sub = 3) then []
  else if 0xA000 ≤ idx then List.replicate r.size 0
  else if r.field then fieldDefault fd idx sub
  else hostValue fieldDie0 (hostDie0 (bit h.cw.ctrl 8)) idx sub

/-- The limits of an entry whose owning chapter states an interval for its value (R317): least, greatest, and the bytes of its type. -/
def entLimits (h : HostDie) (idx sub : Nat) : Option (Nat × Nat × Nat) :=
  let lead := min (2 ^ 20 - 1) (8 * hPeriod h * 1000000000 / rateHz (hRate h))
  if idx = 0x0200 ∧ sub = 9 then some (0, 2, 1)
  else if idx = 0x0200 ∧ sub = 0x0A then some (0, 4, 1)
  else if idx = 0x1000 ∧ sub = 6 then some (0, 3, 1)
  else if idx = 0x2300 ∧ sub = 1 then some (16, if h.cw.sys1000 then 256 else 512, 2)
  else if idx = 0x2300 ∧ sub = 2 then some (1, 15, 1)
  else if idx = 0x2300 ∧ (sub = 3 ∨ sub = 4) then some (0, lead, 4)
  else if idx = 0x2300 ∧ sub = 0x0A then some (0, 2, 1)
  else if idx = 0x4200 ∧ sub = 1 then some (0, 1024, 2)
  else if 0x6400 ≤ idx ∧ idx < 0x6C00 ∧ sub = 2 then some (0, 2 ^ 38 - 1, 8)
  else if idx = 0x8040 ∧ sub = 4 then some (0, 1, 1)
  else none

/-- MIN and MAX as DESCRIBE gives them: each with its LEN, 0 where none applies. -/
def limitBytes (l : Option (Nat × Nat × Nat)) : List Byte :=
  match l with
  | some (a, b, n) => bytesBE 2 n ++ bytesBE n a ++ bytesBE 2 n ++ bytesBE n b
  | none => [0, 0, 0, 0]

/-- DESCRIBE (R317). -/
def svcDescribe (fd : FieldDie) (q : Asked) (p : Parts) (h : HostDie) : HostDie × Option Ans :=
  match entryOf fd p.idx p.sub with
  | .noObject => (h, some (ansErr 1 p.idx p.sub))
  | .noSub => (h, some (ansErr 2 p.idx p.sub))
  | .row r =>
    if roleRank q.role = 0 then (h, some (ansErr 10 p.idx p.sub))
    else
      let d := entDefault fd h r p.idx p.sub
      let acc := if r.acc = 1 ∧ roHere h p.idx p.sub then 0 else r.acc
      (h, some ⟨0, 0, bytesBE 2 p.idx ++ bytesBE 1 p.sub ++ bytesBE 1 r.typ ++ bytesBE 1 acc ++ roleByte r.rr ++ roleByte r.wr ++ bytesBE 1 r.fl ++
        bytesBE 2 (min r.size 65535) ++ limitBytes (entLimits h p.idx p.sub) ++ bytesBE 2 d.length ++ d, false⟩)

/-! ### Bundles (R320 to R322) -/

/-- The items of a WRITE_BUNDLE; none where the body ends inside one or goes on past the last. -/
def items : Nat → List Byte → Option (List Parts)
  | 0, b => if b = [] then some [] else none
  | n + 1, b =>
    if b.length < 10 then none
    else
      match parts 2 (b.take (10 + beAt b 8 2)) with
      | none => none
      | some p => (items n (b.drop (10 + beAt b 8 2))).map (fun l => p :: l)

/-- One item checked without staging it. -/
def itemCheck (fd : FieldDie) (role : Nat) (h : HostDie) (p : Parts) : Nat :=
  let j := entJudge fd h .write role p.idx p.sub
  if j.1 = 1 ∨ j.1 = 2 then j.1
  else if j.2.fl.testBit 3 = false then 3
  else if j.1 ≠ 0 then j.1
  else
    let c := valueJudge h j.2 p.idx p.sub p.typ p.off p.data
    if c ≠ 0 then c
    else if j.2.field then fieldCheck fd p.idx p.sub p.off p.data
    else (hostWrite fd h p.idx p.sub p.off p.data).2

/-- The number and code of the first item that fails. -/
def firstBad (fd : FieldDie) (role : Nat) (h : HostDie) (l : List Parts) : Option (Nat × Nat) :=
  ((l.zipIdx 1).map (fun e => (e.2, itemCheck fd role h e.1))).find? (fun e => decide (e.2 ≠ 0))

/-- An item lies on the field side. -/
def itemFar (fd : FieldDie) (p : Parts) : Bool :=
  match entryOf fd p.idx p.sub with
  | .row r => r.field
  | _ => false

/-- A mask of 256 groups as the BLOB of 4002h: its words ascending, each big-endian (R305). -/
def maskBytes (m : Nat) : List Byte := (List.range 8).flatMap (fun i => bytesBE 4 (m / 2 ^ (32 * i)))

/-- WRITE_BUNDLE (R321): `d` is the body. -/
def svcBundle (fd : FieldDie) (q : Asked) (d : List Byte) (l : List Parts) (h : HostDie) : HostDie × Option Ans :=
  let pass := beAt d 0 8
  let mode := beAt d 8 1
  if l = [] ∨ (mode.testBit 0 ∧ 12 < mode / 16) then (h, some ⟨5, 0, [], false⟩)
  else
    match firstBad fd q.role h l with
    | some (n, c) => (h, some ⟨c, n, match l[n - 1]? with | some p => bytesBE 2 p.idx ++ bytesBE 1 p.sub | none => [], false⟩)
    | none =>
      let own := 0xF000 + ownAddr h.cw
      let send := fun (h : HostDie) (f : Nat → WMsg) =>
        let h := { h with leg := { h.leg with selfSeq := (h.leg.selfSeq + 1) % 65536 } }
        ({ h with com := weirQueue h.com (f h.leg.selfSeq) } : HostDie)
      let h := l.foldl (fun h p =>
        if itemFar fd p then send h (fun n => paramWriteMsg true own n p.idx p.sub p.typ p.off p.data)
        else (hostWrite fd h p.idx p.sub p.off p.data).1) h
      let far := l.filter (itemFar fd)
      let slots := l.any (fun p => decide (p.idx = 0x2000))
      if far = [] then
        let r := mapCommit h.cw.slotMap (slotCount h) 0 1023 h.cw.tookS ((pass + 1) % 2 ^ 32)
        let h := { h with cw := { h.cw with slotMap := r.1 } }
        (h, some ⟨r.2, 0, if r.2 = 0 then bytesBE 8 pass else [], false⟩)
      else
        let mask := far.foldl (fun m p => m ||| fieldGroups fd p.idx p.sub p.off p.data.length) 0
        let h := send h (fun n => paramWriteMsg false own n 0x4002 4 0x0E 0 (maskBytes mask))
        let m : WMsg := ⟨5, 0, 0, [w32 (q.rid * 65536 + q.rseq), w32 pass, w32 (pass / 2 ^ 32), w32 mode, w32 (q.rseq * 65536 + 3)]⟩
        (forward h { fwdOf q 0x4002 5 .bundle with pass := pass, slots := slots } m, none)

/-! ### A request served -/

/-- A request as the services take it. -/
def askedOf (svc : Nat) (q : LegReq) : Asked := ⟨svc, q.rid.toNat, q.rseq.toNat, q.role.toNat, q.flags.toNat, q.via⟩

/-- The service of a request run; none where it is malformed (R318, R323). -/
def service (fd : FieldDie) (svc : Nat) (q : LegReq) (x : ActCtx) (b : List Byte) : Option (HostDie → HostDie × Option Ans) :=
  let a := askedOf svc q
  if q.blen.toNat ≠ b.length ∨ 1008 < b.length ∨ 8 ≤ q.flags.toNat then none
  else if q.group ∧ svc ≠ 1 ∧ svc ≠ 2 ∧ svc ≠ 4 ∧ svc ≠ 6 then none
  else if svc = 4 then
    if b.length < 10 ∨ beAt b 8 1 / 2 % 8 ≠ 0 then none
    else (items (beAt b 9 1) (b.drop 10)).map (fun l => svcBundle fd a b l)
  else
    match parts svc b with
    | none => none
    | some p =>
      if svc = 1 ∨ svc = 3 then some (svcRead fd a p)
      else if svc = 2 then some (svcWrite fd a p)
      else if svc = 5 then some (svcSubscribe fd a p)
      else if svc = 6 then some (svcAct fd a x p)
      else if svc = 7 then some (svcDescribe fd a p)
      else none

/-- A WRITE of an image piece, the one request that a booting ROM serves (R350, R358). -/
def isPiece (svc : Nat) (b : List Byte) : Bool := svc = 2 && decide (beAt b 0 2 = 0x8040) && decide (beAt b 2 1 = 2)

/-- The ROM takes a piece from the source in progress alone: the chain, or the exchange bank; in rescue from either (R350, R358). -/
def pieceFrom (h : HostDie) (q : LegReq) : Bool :=
  match h.boot.sources with
  | 2 :: _ => decide (q.via = .chain)
  | 3 :: _ => decide (q.via = .tool 0)
  | [] => decide (q.via = .chain) || decide (q.via = .tool 0)
  | _ => false

/-- A session whose CLOSE was answered OK is gone (R311). -/
def afterClose (h : HostDie) (svc : Nat) (q : LegReq) (b : List Byte) (a : Ans) : HostDie :=
  if svc = 6 ∧ beAt b 0 2 = 0x0100 ∧ beAt b 2 1 = 3 ∧ a.code = 0 then
    { h with leg := { h.leg with sessions := tput none h.leg.sessions (q.rid.toNat / 4096) none } }
  else h

/-- A Legend request served (R309, R318, R319, R328, R329, R332): `b` is the whole body. -/
def legServe (fd : FieldDie) (svc : Nat) (q : LegReq) (x : ActCtx) (b : List Byte) (h : HostDie) : HostDie :=
  let a := askedOf svc q
  if h.coresRun = false ∨ (h.boot.inRom ∧ (isPiece svc b && pieceFrom h q) = false) then h
  else
    match service fd svc q x b with
    | none => legCount h 4
    | some run =>
      if inFlight h a.rid a.rseq then legCount h 3
      else
        let name := if svc = 4 then [] else b.take 3
        match dupCase h a.rid a.rseq with
        | .stored m => ansSend (legCount h 1) a { m with flags := m.flags ||| 1 }
        | .stale => ansSend (legCount h 2) a (ansMsg h a ⟨8, 0, [], false⟩)
        | .full => ansSend h a (ansMsg h a ⟨7, 0, name, false⟩)
        | .serve =>
          let h := legCount h 0
          if q.epoch ≠ 0 ∧ q.epoch ≠ h.leg.epoch then answer (legCount h 5) a ⟨9, 0, name, false⟩
          else
            let r := run h
            match r.2 with
            | some z => afterClose (answer r.1 a z) svc q b z
            | none => r.1

/-- What a command brings with it where the row gives no more. -/
def ctxOf (q : LegReq) (within : Bool) : ActCtx := ⟨q.rid.toNat, q.role.toNat, q.late, match q.via with | .tool e => e | _ => 1, within⟩

/-! ### The gateway (R309, R311) -/

/-- The session of endpoint `ep` that a message is of: the one that its RID names, else the first (log entry 63). -/
def sessionOf (h : HostDie) (ep rid : Nat) : Option (Nat × Session) :=
  let held := fun (i : Nat) => match tget none h.leg.sessions i with
    | some s => if s.endpoint = ep then some (i, s) else none
    | none => none
  match held (rid / 4096) with
  | some e => some e
  | none => (List.range 15).findSome? held

/-- The gateway replaces RID and ROLE in a tool's message by those of its session, which has now had a request; without a session the role is NONE. -/
def gate (h : HostDie) (q : LegReq) : HostDie × LegReq :=
  match q.via with
  | .tool ep =>
    match sessionOf h ep q.rid.toNat with
    | some (i, s) =>
      ({ h with leg := { h.leg with sessions := tput none h.leg.sessions i (some { s with idle := h.dt.time }) } },
       { q with rid := BitVec.ofNat 16 s.rid, role := BitVec.ofNat 8 s.role })
    | none => (h, { q with role := 0xFF })
  | _ => (h, q)

/-- A tag that the node answers to (R323). -/
def tagged (h : HostDie) (t : Nat) : Bool :=
  decide (t ≠ 0) && (List.range 8).any (fun i => let v := tget 0 h.leg.tags (i + 1); v.testBit 15 && decide (v % 4096 = t))

/-- The message of a request that the gateway sends on. -/
def relayMsg (svc : Nat) (q : LegReq) (b : List Byte) : LegMsg :=
  { svc := svc, flags := q.flags.toNat, rid := q.rid.toNat, rseq := q.rseq.toNat, role := q.role.toNat, code := 0, epoch := q.epoch, item := 0, body := b }

/-- A tool's request for other nodes (R311, R323): refused without a session, or from a session whose gateway has no address; else sent on as a V frame,
which a head that it is meant for too serves. -/
def relay (fd : FieldDie) (svc : Nat) (q : LegReq) (x : ActCtx) (mode dst : Nat) (known : Bool) (b : List Byte) (h : HostDie) : HostDie :=
  let a := askedOf svc q
  let name := if svc = 4 then [] else b.take 3
  let t := cwTx 3 mode dst (legBytes (relayMsg svc q b))
  if h.coresRun = false ∨ h.boot.inRom then h
  else if q.blen.toNat ≠ b.length ∨ 1008 < b.length ∨ 8 ≤ q.flags.toNat then legCount h 4
  else if known = false then ansSend (legCount h 6) a (ansMsg h a ⟨10, 0, name, false⟩)
  else if h.cw.noaddr then ansSend h a (ansMsg h a ⟨6, 0, name, false⟩)
  else if mode = 0 then (match ownPort h.cw dst with | some y => cwQueue h y t | none => h)
  else if h.cw.isHead then
    let h := cwQueueAll h (portsIn h.cw 1) t
    if mode = 1 ∨ tagged h dst then legServe fd svc { q with group := true } x b h else h
  else cwQueueAll h (upPort h.cw).toList t

/-- A Legend request that reaches the node (R309, R311): as it stands, or through the gateway. `within`: see OPEN. -/
def legRequest (fd : FieldDie) (svc : Nat) (q : LegReq) (within : Bool) (b : List Byte) (h : HostDie) : HostDie :=
  let g := gate h q
  match q.via, q.dest with
  | .tool ep, some (mode, dst) =>
    if mode = 0 ∧ h.cw.noaddr = false ∧ dst = h.cw.addr then legServe fd svc g.2 (ctxOf g.2 within) b g.1
    else relay fd svc g.2 (ctxOf g.2 within) mode dst (sessionOf h ep q.rid.toNat).isSome b g.1
  | _, _ => legServe fd svc g.2 (ctxOf g.2 within) b g.1

/-- A row that names one ACTION or READ: the body starts after IDX and SUB. -/
def legNamed (svc idx sub : Nat) (q : LegReq) (fd : FieldDie) (h : HostDie) : HostDie :=
  legRequest fd svc q true (bytesBE 2 idx ++ bytesBE 1 sub ++ q.body) h

/-- A request of a service row: the body is whole. -/
def legRow' (svc : Nat) (q : LegReq) (fd : FieldDie) (h : HostDie) : HostDie := legRequest fd svc q true q.body h

/-! ### Answers that come later -/

/-- The service of a request that waited. -/
def fwdSvc (k : FwdKind) : Nat :=
  match k with
  | .read blk _ _ => if blk then 3 else 1
  | .write => 2
  | .act => 6
  | .bundle => 4

/-- The request that a waiting record answers. -/
def fwdAsked (w : Fwd) : Asked := ⟨fwdSvc w.kind, w.rid, w.rseq, w.role, w.flags, w.via⟩

/-- The answer that a PARAM_RESP makes (R317, R321, R329). A READ_BLOCK takes the bytes of the whole value (log entry 17). -/
def respAns (fd : FieldDie) (w : Fwd) (code len : Nat) (ws : List W32) (h : HostDie) : HostDie × Ans :=
  let typ := entryType fd w.idx w.sub
  let v := unpackWords typ len ws
  if code ≠ 0 then (h, ⟨code, 0, if w.kind = .bundle then [] else bytesBE 2 w.idx ++ bytesBE 1 w.sub, false⟩)
  else
    match w.kind with
    | .read blk off max => (h, if blk then blockAns w.idx w.sub typ off max (fieldValue fd w.idx w.sub) else readAns w.idx w.sub typ v)
    | .write => (h, ansErr 0 w.idx w.sub)
    | .act => (h, ⟨0, 0, readBody w.idx w.sub 0x0E v, false⟩)
    | .bundle =>
      if w.slots then
        let r := mapCommit h.cw.slotMap (slotCount h) 0 1023 h.cw.tookS ((w.pass + 1) % 2 ^ 32)
        ({ h with cw := { h.cw with slotMap := r.1 } }, ⟨r.2, 0, if r.2 = 0 then bytesBE 8 w.pass else [], false⟩)
      else (h, ⟨0, 0, bytesBE 8 w.pass, false⟩)

/-- PARAM_RESP (R329). -/
def paramResp (m : WRx) (fd : FieldDie) (h : HostDie) : HostDie :=
  let w0 := wAt m.payload 0
  match h.leg.fwd.find? (fun w => decide (w.rid = fld w0 31 16) && decide (w.rseq = fld w0 15 0)) with
  | none => h
  | some w =>
    let h := { h with leg := { h.leg with fwd := h.leg.fwd.filter (fun v => !(decide (v.rid = w.rid) && decide (v.rseq = w.rseq))) } }
    let r := respAns fd w (fld (wAt m.payload 1) 7 0) (wAt m.payload 2).toNat (m.payload.drop 3) h
    answer r.1 (fwdAsked w) r.2

/-- WEIR_FORWARD_TIMEOUT (R329). -/
def forwardTimeout (rid rseq : Nat) (h : HostDie) : HostDie :=
  if h.leg.fwd.any (fun w => decide (w.rid = rid) && decide (w.rseq = rseq)) then
    let h := { h with leg := { h.leg with fwd := h.leg.fwd.filter (fun v => !(decide (v.rid = rid) && decide (v.rseq = rseq))) } }
    dupPut (legCount h 7) rid rseq .abandoned
  else h

/-- SAVE_DONE (R314, R315). -/
def saveDone (fd : FieldDie) (h : HostDie) : HostDie :=
  match h.leg.saving with
  | none => h
  | some w =>
    let h := { h with leg := { h.leg with saving := none, record := saveRecord fd h, savedEp := if h.cw.isHead then h.leg.epoch else h.leg.savedEp } }
    answer h (fwdAsked w) ⟨0, 0, readBody w.idx w.sub 0x0E [], false⟩

/-- QUOTE_DONE (R362). -/
def quoteDone (fd : FieldDie) (h : HostDie) : HostDie :=
  match h.leg.quoting with
  | none => h
  | some w =>
    let q := quoteBytes fd h
    let h := { h with leg := { h.leg with quoting := none }, boot := { h.boot with quoteBusy := false, quote := q } }
    answer h (fwdAsked w) ⟨0, 0, readBody w.idx w.sub 0x03 (bytesBE 2 768), false⟩

/-! ### Subscriptions and watches -/

/-- NOTIFY_SEND (R324). -/
def notifySend (n : Nat) (fd : FieldDie) (h : HostDie) : HostDie :=
  match h.leg.subs.find? (fun s => decide (s.id = n)) with
  | none => h
  | some s =>
    match entryOf fd s.idx s.sub with
    | .row r =>
      if s.idx = 0x0300 ∨ (r.field ∧ h.com.weir.farPresent = false) then h
      else
        let v := if r.field then (fieldValue fd s.idx s.sub).take 256 else (hostValue fd h s.idx s.sub).take 256
        if s.onChg ∧ s.last = some v then h
        else
          let h := notifyOut h s r.typ v
          { h with leg := { h.leg with subs := h.leg.subs.map (fun t => if t.id = n then { t with last := some v } else t) } }
    | _ => h

/-- WATCH_CHECK (R326): a watch whose FIRED bit was cleared at or above THRESH waits for a clearing below it. -/
def watchCheck (fd : FieldDie) (h : HostDie) : HostDie :=
  (List.range 32).foldl (fun h w =>
    let r := watchRec h w
    let held := (ofBytesBE (tget [] h.leg.extra (entKey 0x9000 0x21))).testBit w
    if r.2.2.1 && !bit h.leg.fired w && !held && watchHigh fd h w then
      let v := (watchVal fd h w).getD 0
      hostEventRaw { h with leg := { h.leg with fired := setBit h.leg.fired w true } } .watch [w32 r.1, w32 r.2.1, w32 v]
    else h) h

/-! ### The profile -/

/-- PROFILE_FETCH (R335): IMAGE read from the head. -/
def profileFetch (h : HostDie) : HostDie :=
  if h.cw.isHead ∨ h.cw.noaddr ∨ h.leg.profEp = some h.leg.epoch ∨ h.coresRun = false then h
  else
    let h := { h with leg := { h.leg with selfSeq := (h.leg.selfSeq + 1) % 65536 } }
    let m : LegMsg :=
      { svc := 3, flags := 0, rid := 0xF000 + ownAddr h.cw, rseq := h.leg.selfSeq, role := 2, code := 0, epoch := 0, item := 0,
        body := bytesBE 2 0x0200 ++ [0x20] ++ bytesBE 4 0 ++ bytesBE 2 992 }
    match ownPort h.cw 0 with
    | none => h
    | some x => cwQueue { h with leg := { h.leg with out := m :: h.leg.out } } x (cwTx 3 0 0 (legBytes m))

/-- The widths of subs 01h to 11h in IMAGE. -/
def profWidth (sub : Nat) : Nat :=
  if sub ≤ 8 ∨ sub = 0x0E ∨ sub = 0x0F then 4 else if sub ≤ 0x0D then 1 else if sub = 0x10 then 8 else 21

/-- IMAGE taken apart (R334). -/
def profTake (v : List Byte) : Tbl (List Byte) :=
  let p := (List.range 17).foldl (fun (p : Tbl (List Byte) × List Byte) i =>
    (profPut p.1 (i + 1) (p.2.take (profWidth (i + 1))), p.2.drop (profWidth (i + 1)))) ([], v.drop 4)
  profPut p.1 0x12 p.2

/-- The answer to the node's own read of IMAGE. -/
def profileResp (m : LegMsg) (h : HostDie) : HostDie :=
  let b := m.body
  if m.svc = 0x83 ∧ m.code = 0 ∧ beAt b 0 2 = 0x0200 ∧ beAt b 2 1 = 0x20 ∧ 4 ≤ beAt b 12 2 ∧ h.cw.isHead = false then
    let v := slice b 14 (beAt b 12 2)
    let e := w32 (beAt v 0 4)
    { h with leg := { h.leg with prof := profTake v, profEp := some e, stale := h.leg.stale && decide (e ≠ h.leg.epoch) } }
  else h

/-- The disagreement bits (R337); a bit about a field register is 0 while the field side is absent, but FIELD_FW and PAIR. -/
def disagreeBits (fd : FieldDie) (h : HostDie) : Nat :=
  let p := h.leg.prof
  let num := fun (s : Nat) => ofBytesBE (profGet p s)
  let far := h.com.weir.farPresent
  let hv := leAt h.boot.man 20 4
  let fv := fd.fb.version.toNat
  let hs := (List.range 4).map (fun i => num (i + 1))
  let fs := (List.range 4).map (fun i => num (i + 5))
  let mixed := num 9
  let b0 := decide (mixed ≠ 2) && hs.any (· ≠ 0) && !hs.contains hv
  let b1 := decide (mixed ≠ 2) && fs.any (· ≠ 0) && (!far || !fs.contains fv)
  let b2 := decide (mixed = 0) && !(far && (List.range 4).any (fun i => decide (hs.getD i 0 = hv) && decide (fs.getD i 0 = fv)))
  let b3 := far && decide (num 0x0D ≠ 255) && decide (num 0x0D ≠ rateOf fd.mer)
  let tag := (if fd.mer.store1 then h.leg.tag1 else h.leg.tag0).toNat
  let b4 := far && decide (num 0x0E ≠ 0) && decide (tag ≠ num 0x0E) && !(decide (tag = num 0x0F) && decide (fd.mer.pcnt ≤ num 0x10))
  let b5 := far && fd.mer.numConflict
  b2n b0 + 2 * b2n b1 + 4 * b2n b2 + 8 * b2n b3 + 16 * b2n b4 + 32 * b2n b5 + 64 * b2n h.leg.stale

/-- PROFILE_EVALUATE (R259, R336 to R339). -/
def profileEvaluate (fd : FieldDie) (h : HostDie) : HostDie :=
  let d := disagreeBits fd h
  let h := { h with leg := { h.leg with disagree := d } }
  let st := h.cw.state
  let held := h.cw.isHead || decide (h.leg.profEp = some h.leg.epoch) || h.leg.stale
  let clsOk := decide (h.dt.cls ≤ profVal h 0x0A 4)
  let st' :=
    if st = 1 then if h.cw.noaddr ∨ held = false then 1 else if d ≠ 0 then 2 else if clsOk then 3 else 1
    else if (st = 3 ∨ st = 5) ∧ d ≠ 0 then 2
    else if st = 2 ∧ d = 0 then (if datumCond h then 5 else 3)
    else st
  safeMove { h with cw := { h.cw with state := st' } }

/-- PROFILE_STALE (R337, R339). -/
def profileStale (fd : FieldDie) (h : HostDie) : HostDie :=
  if h.cw.isHead ∨ h.leg.profEp = some h.leg.epoch then h
  else profileEvaluate fd { h with leg := { h.leg with stale := true } }

end Sys2Proof.Machine
end

