-- ==== Sys2Proof/Machine/HostRows.lean ====
section
/-! DEFINITION. Commands of the host side: V frames and Legend, boot, power and resets, messages received across the Weir, samples. -/

namespace Sys2Proof.Machine

/-! ### V frames (R258, R309, R323) -/

/-- A Legend message of its bytes (R316). -/
def legMsgOf (b : List Byte) : LegMsg :=
  { svc := beAt b 0 1, flags := beAt b 1 1, rid := beAt b 2 2, rseq := beAt b 4 2, role := beAt b 6 1, code := beAt b 7 1, epoch := w32 (beAt b 8 4),
    item := beAt b 12 2, body := b.drop 16 }

/-- A message as the request that a row carries. -/
def legReqOf (group : Bool) (b : List Byte) : LegReq :=
  let m := legMsgOf b
  { flags := BitVec.ofNat 8 m.flags, rid := BitVec.ofNat 16 m.rid, rseq := BitVec.ofNat 16 m.rseq, role := BitVec.ofNat 8 m.role, epoch := m.epoch,
    blen := BitVec.ofNat 16 (beAt b 14 2), body := m.body, group := group, late := false, via := .chain, dest := none }

/-- A Legend message delivered to the node: a response to the session that asked, or to the node itself; a request served. -/
def legDeliver (group : Bool) (b : List Byte) (fd : FieldDie) (h : HostDie) : HostDie :=
  let m := legMsgOf b
  if b.length < 16 then legCount h 4
  else if 128 ≤ m.svc then
    if beAt b 14 2 ≠ m.body.length ∨ 1008 < m.body.length ∨ 8 ≤ m.flags ∨ m.svc = 128 ∨ 136 < m.svc then legCount h 4
    else if m.rid % 4096 ≠ ownAddr h.cw then h
    else if m.rid / 4096 = 15 then profileResp m h
    else match tget none h.leg.sessions (m.rid / 4096) with
      | some s => legLocal h s.endpoint (decide (m.svc = 0x88)) m
      | none => h
  else
    let q := legReqOf group b
    legServe fd m.svc q (ctxOf q true) q.body h

/-- A Legend message of a tool at endpoint `ep` taken in by the gateway (R309); how a tool names another node than the gateway is not stated, so it is for
the gateway itself (log entry 63). -/
def toolMsg (ep : Nat) (b : List Byte) (fd : FieldDie) (h : HostDie) : HostDie :=
  let q := { legReqOf false b with via := .tool ep }
  if b.length < 16 ∨ 128 ≤ beAt b 0 1 then legCount h 4 else legRequest fd (beAt b 0 1) q true q.body h

/-- The requests posted in the exchange bank taken in order (R402), while the host serves its rings. -/
def takeSlots (fd : FieldDie) : Nat → HostDie → HostDie
  | 0, h => h
  | n + 1, h =>
    if h.spp.reqP = h.spp.reqC ∨ h.spp.sstat.testBit 0 = false ∨ h.coresRun = false then h
    else
      let a := 0x400 * (h.spp.reqC % 32)
      let h := { h with spp := { h.spp with reqC := (h.spp.reqC + 1) % 256 } }
      let r := hostReadBank h .e a 0x400
      takeSlots fd n (match r.2 with
        | some b => toolMsg 0 (b.take (16 + min 1008 (beAt b 14 2))) fd r.1
        | none => legCount r.1 4)

/-- Registers written by the external master; a request posted is taken. -/
def slaveRegTake (a : BitVec 6) (data : List W32) (full : List Nat) (fd : FieldDie) (h : HostDie) : HostDie :=
  let g := slaveRegWrite a data full h
  if g.spp.reqP = h.spp.reqP then g else takeSlots fd 32 g

/-- The one's complement sum of the 16-bit words of a list (Internet headers). -/
def sum16 : List Byte → Nat
  | a :: b :: t => let s := a.toNat * 256 + b.toNat + sum16 t; s % 65536 + s / 65536
  | [a] => a.toNat * 256
  | [] => 0

/-- The Legend message of an Ethernet frame that holds one UDP datagram over IPv4 to UDP_PORT (R309), with its endpoint. The checks are those of the
Internet protocols (PRESUMED, log entry 63). -/
def datagram (h : HostDie) (e : List Byte) : Option (Nat × List Byte) :=
  let ip := e.drop 14
  let n := beAt ip 0 1 % 16 * 4
  let len := beAt ip 2 2
  let u := slice ip n (len - n)
  let ulen := beAt u 4 2
  let pseudo := slice ip 12 8 ++ bytesBE 2 17 ++ bytesBE 2 ulen
  if beAt e 12 2 = 0x0800 ∧ beAt ip 0 1 / 16 = 4 ∧ 20 ≤ n ∧ n ≤ len ∧ len ≤ ip.length ∧ beAt ip 6 2 % 16384 = 0 ∧ beAt ip 9 1 = 17 ∧
      sum16 (ip.take n) = 65535 ∧ 8 ≤ ulen ∧ ulen ≤ u.length ∧ beAt u 2 2 = h.leg.udpPort ∧
      (beAt u 6 2 = 0 ∨ sum16 (pseudo ++ u.take ulen) = 65535) then
    some (beAt ip 12 4 * 65536 + beAt u 0 2, slice u 8 (ulen - 8))
  else none

/-- P_FRAME, and the datagram that it brings to the gateway's host network interface (R251, R309). -/
def pFrameTake (x : Nat) (f : CwRx) (fd : FieldDie) (h : HostDie) : HostDie :=
  let g := pFrame x f h
  if g.ethIn.length = h.ethIn.length then g
  else match (g.ethIn.head?.bind (datagram g)) with
    | some (ep, b) => toolMsg ep b fd g
    | none => g

/-- A whole V message routed (R258): to this node, on, or both. -/
def vRoute (x : Nat) (hdr : List Byte) (b : List Byte) (fd : FieldDie) (h : HostDie) : HostDie :=
  let mode := hDmode hdr
  let dst := hDst hdr
  let fromDown := decide ((cwPort h.cw x).role = 1)
  let up := fromDown && !h.cw.isHead
  let pass := fun (h : HostDie) (ys : List Nat) =>
    if forwards h.cw then cwQueueAll h ys { cwTx 3 mode dst b with src := some (beAt hdr 2 2) } else h
  if mode = 3 then legDeliver false b fd h
  else if mode = 0 then
    if h.cw.noaddr = false ∧ dst = h.cw.addr ∧ up = false then legDeliver false b fd h
    else
      match (if up then upPort h.cw else routePort h.cw dst) with
      | some y => if y = x ∧ fromDown = false then h else pass h [y]
      | none => h
  else if up then pass h (upPort h.cw).toList
  else
    let h := pass h (portsIn h.cw 1)
    if mode = 1 ∨ tagged h dst then legDeliver true b fd h else h

/-- V_FRAME (R258, R272, R309). -/
def vFrame (x : Nat) (f : CwRx) (fd : FieldDie) (h : HostDie) : HostDie :=
  let r := cwCheck h x 3 f
  if r.2 ≠ 0 then r.1
  else
    let q := reassemble (creditResume r.1 x) x f
    match q.2 with
    | some b => vRoute x f.hdr b fd q.1
    | none => q.1

/-! ### Boot -/

/-- An entry that the field side holds: its values are written back once its image runs. -/
def onFieldSide (idx : Nat) : Bool := decide (0x4000 ≤ idx) && decide (idx < 0x8000) || decide (0xA000 ≤ idx)

/-- The host side's part of the Legend record written back at boot (R314). -/
def restoreHost (fd : FieldDie) (h : HostDie) : HostDie :=
  (h.leg.record.filter (fun e => !onFieldSide (e.1 / 256))).foldl (fun h e =>
    let idx := e.1 / 256
    let sub := e.1 % 256
    if idx = 0x0200 then { h with leg := { h.leg with prof := tput [] h.leg.prof sub e.2, profSt := tput [] h.leg.profSt sub e.2 } }
    else putBack fd h idx sub e.2) h

/-- The field side's part (R314), in configuration state, by the host firmware's own writes; an application entry no longer bound is skipped and logged. -/
def restoreField (fd : FieldDie) (h : HostDie) : HostDie :=
  (h.leg.record.filter (fun e => onFieldSide (e.1 / 256))).foldl (fun h e =>
    let idx := e.1 / 256
    let sub := e.1 % 256
    if 0xA000 ≤ idx ∧ (bindFind fd.cg.bindAct fd.cg.nentAct idx sub).isNone then hostFault h 0x11 [w32 idx, w32 sub]
    else askFieldAll fd h idx sub e.2) { h with leg := { h.leg with restoring := false } }

/-- The record written back: the field side's part waits for its image, and is not written while passes run. -/
def restoreRecord (fd : FieldDie) (h : HostDie) : HostDie :=
  let h := restoreHost fd h
  if h.com.weir.farPresent ∧ fd.fb.inRom = false then (if fd.mer.running then h else restoreField fd h)
  else { h with leg := { h.leg with restoring := true } }

/-- The bytes of the record that MS4 measures (R361). -/
def recordBytes (h : HostDie) : List Byte :=
  h.leg.record.flatMap (fun e => bytesBE 3 e.1 ++ bytesBE 4 e.2.length ++ e.2)

/-- STAGE1_START (R314, R356, R359, R361, R367): nothing while no candidate of the source in progress can start. -/
def stage1Start (fd : FieldDie) (h : HostDie) : HostDie :=
  if h.boot.inRom = false ∨ h.coresRun = false ∨ romTests h.com then h
  else
    match chooseImage h with
    | none => h
    | some c =>
      let h := stage1Boot h c
      let h := restoreRecord fd h
      let h := if h.leg.record = [] then h else { h with boot := msPush h.boot 4 (Config.sha384 (recordBytes h)) }
      if h.com.weir.farPresent then
        askMeasure h
      else h

/-- PULL_SEND (R350): a link-scoped ACTION on CA. -/
def pullSend (h : HostDie) : HostDie :=
  match h.boot.inRom, h.boot.sources with
  | true, 2 :: _ =>
    if portUp h.cw 0 = false then h
    else
      let m : LegMsg :=
        { svc := 6, flags := 0, rid := 0xF000 + ownAddr h.cw, rseq := h.boot.pulls % 65536, role := 0xFF, code := 0, epoch := 0, item := 0,
          body := bytesBE 2 0x8040 ++ [0x06, 0x0E] ++ bytesBE 2 13 ++ bytesBE 4 0x4E412820 ++ bytesBE 8 h.com.fuses.udn.toNat ++ bytesBE 1 (lcHost h) }
      cwQueue { h with boot := { h.boot with pulls := h.boot.pulls + 1 } } 0 (cwTx 3 3 0 (legBytes m))
  | _, _ => h

/-- A token judged on the field die (R344, R348): by its own copy of the keys and its own record of the challenges used, `issued` being the value most
recently read; the challenge is used up. -/
def judgeField (issued : List Byte) (late : Bool) (kind : Nat) (t : List Byte) (f : FieldDie) : FieldDie × Bool :=
  ({ f with chalUsed := issued }, tokenBase f.com.fuses t && chalOk issued f.chalUsed late t && decide (beAt t 0 1 = kind))

/-- What an accepted UNLOCK token does on the field die (R345). -/
def unlockOn (arg : Nat) (f : FieldDie) : FieldDie :=
  let f := if arg.testBit 1 then { f with com := { f.com with testCtrl := portUnlock f.com.testCtrl (lcFieldIn f) } } else f
  fieldFault { f with fb := { f.fb with rootLock := true } } 4 [w32 arg]

/-- An UNLOCK token written to 8000h of the field side. -/
def unlockField (issued t : List Byte) (f : FieldDie) : FieldDie × Bool :=
  let r := judgeField issued false 1 t f
  if r.2 then (unlockOn (beAt t 1 1) r.1, true) else r

/-- TEST_TOKEN on the field die's port (R344, R345): the challenge is the host die's, which the Weir must reach (log entry 18); an accepted token opens the
ports that ARG names on both dies, and MS5 and the fault log take it. -/
def testTokenField (t : List Byte) (late : Bool) (d : Dies) : Dies :=
  let fd := d.field
  if fd.com.runs = false ∨ lcFieldIn fd = 4 ∨ fd.com.weir.farPresent = false ∨ d.host.com.runs = false ∨ d.host.boot.chal = none then d
  else
    let r := judgeField d.host.boot.issued late 1 t fd
    let h := { d.host with boot := { d.host.boot with chal := none } }
    if r.2 then ⟨unlockHost { h with boot := msToken h.boot t } (beAt t 1 1), unlockOn (beAt t 1 1) r.1⟩ else ⟨h, r.1⟩

/-! ### Power -/

/-- What a power-on reset of the host die keeps (R32, R433): fuses, flash and what is stored there, the model's count of draws. -/
def hostKept (h : HostDie) (head : Bool) : HostDie :=
  let d := hostDie0 head
  { d with com := { d.com with supply := h.com.supply, por := true, pwrStat := h.com.pwrStat, fuses := h.com.fuses, free := h.com.free },
           boot := { d.boot with flash := h.boot.flash, log := h.boot.log, logSeq := h.boot.logSeq, repairs := h.boot.repairs,
                                    repairsF := h.boot.repairsF, faultsIn := h.boot.faultsIn },
           leg := { d.leg with record := h.leg.record, savedEp := h.leg.savedEp }, coresRun := false }

/-- HOST_POWER_ON (R431 steps 1 to 4, R435). -/
def hostPowerOn (io3v3 : Bool) (h : HostDie) : HostDie :=
  hostKept { h with com := { h.com with supply := true, pwrStat := bitAt 0 io3v3 } } false

/-- HOST_POWER_ON_RESET_RELEASE (R431 step 5): nothing while the reset is not held. -/
def hostRelease (head : Bool) (boot : Nat) (bad : List (Nat × Nat)) (h : HostDie) : HostDie :=
  if h.com.supply = false ∨ h.com.por = false then h
  else
    let d := hostKept h head
    romStart { d with com := { d.com with por := false, integ := { d.com.integ with badSpares := bad, march := marchBoot d.com.fuses } }, boot := { d.boot with straps := boot } }

/-! ### Received messages -/

/-- STREAM_RET (R18, R265). -/
def streamRetOk (m : WRx) (h : HostDie) : Bool :=
  let n := periodAt h (wAt m.payload 0).toNat
  decide ((wAt m.payload 1).toNat = n) && decide (m.payload.length = 2 + 32 * n)

/-- The return words of a period kept for the node's U frame. -/
def streamRet (m : WRx) (h : HostDie) : HostDie :=
  { h with cw := { h.cw with rets := (((wAt m.payload 0).toNat, m.payload.drop 2) :: h.cw.rets).take 8 } }

/-- The host firmware's records of what happened on the field die (R375, R408, R413, R418, R419, R421): its faults go to the fault log, its repairs and its
retirement to the configuration store. -/
def fieldNews (fd : FieldDie) (h : HostDie) : HostDie :=
  if h.boot.inRom ∨ h.coresRun = false then h
  else
    let l := fd.com.faults
    let n := if h.boot.faultsIn ≤ l.length then l.length - h.boot.faultsIn else l.length
    let h := (l.take n).reverse.foldl (fun h e => hostFault h e.1 e.2) h
    let now := fd.com.integ.remap ++ (if fd.retired = 0 then [] else [(⟨12, fd.retired⟩, 0)])
    let new := (now.filter (fun e => !h.boot.repairsF.any (fun r => r.row == e.1 && r.spare == e.2))).map (fun e => (⟨e.1, e.2, fd.mer.pcnt⟩ : RepairRec))
    { h with boot := { h.boot with faultsIn := l.length, repairsF := h.boot.repairsF.filter (fun r => !new.any (fun e => e.row == r.row)) ++ new } }

/-- STATUS (R18, R294, R446): with it the host firmware takes the field side's news (log entry 64). -/
def statusRx (m : WRx) (fd : FieldDie) (h : HostDie) : HostDie :=
  let t := Config.statusTemp m.payload
  let h := fieldNews fd h
  classFall fd { h with far := 0x80000000 ||| w32 t.toNat, farFresh := true, dt := { h.dt with histF := histAdd h.dt.histF t.toInt 60000 } }

/-- The blocks of the image that runs, as its source holds them. -/
def runBlock (h : HostDie) (k : Nat) : List Byte :=
  if h.boot.source = 1 ∨ h.boot.source = 2 then slotBlock h.boot (h.boot.source - 1) k else pushBlock h.boot k

/-- Block `k` of the FIELD_IMAGE component of the running image (R351, R365): none past its end. -/
def fieldBlock (h : HostDie) (k : Nat) : Option (List Byte) :=
  match (manComps h.boot.man).find? (fun c => decide (c.typ = 3)) with
  | some c => if k < c.count then some (runBlock h (streamOfData (c.first + k))) else none
  | none => none

/-- The four quarters of a block queued (R18, R365); the image identity is the low half of the SEQ of the field manifest (log entry 19). -/
def queueBlock (h : HostDie) (k : Nat) : HostDie :=
  match fieldBlock h k with
  | none => h
  | some b =>
    let id := leAt ((fieldBlock h 0).getD []) 16 2
    (List.range 4).foldl (fun h q =>
      { h with com := weirQueue h.com ⟨9, 0, 0, [w32 (id * 65536 + k), w32 q] ++ wordsOfBytes (slice b (1024 * q) 1024)⟩ }) h

/-- A repair record as its bytes (R419; the layout is log entry 23). -/
def recordOf (r : RepairRec) : List Byte :=
  let d := bytesBE 1 r.row.res ++ bytesBE 1 (if r.row.res = 11 then 13 else if r.row.res = 12 then 0 else if r.row.res ≤ 3 then r.row.res + 8 else if r.row.res = 6 then 12 else r.row.res + 3) ++
    bytesBE 2 r.row.row ++ bytesBE 2 r.spare ++ bytesBE 8 r.pcnt
  d ++ bytesBE 4 (crc32 d).toNat

/-- Stage 1 sends the field records before block 0 (R419), 14 in a write. -/
def recordsSend : Nat → List RepairRec → HostDie → HostDie
  | 0, _, h => h
  | n + 1, l, h => if l = [] then h else recordsSend n (l.drop 14) (askField h 0x0E 0x9100 0x41 ((l.take 14).flatMap recordOf))

/-- IMAGE_RESULT (R365, R366): stage 1 sends what the field ROM wants. -/
def imageResult (m : WRx) (h : HostDie) : HostDie :=
  let v := fld (wAt m.payload 1) 7 0
  let want := fld (wAt m.payload 2) 15 0
  if 4 ≤ v then { h with leg := { h.leg with extra := tput [] h.leg.extra (entKey 0x8010 7) (bytesBE 1 v) } }
  else if h.boot.inRom ∨ h.coresRun = false then h
  else if v = 0 then queueBlock (recordsSend 64 h.boot.repairsF h) 0
  else queueBlock h want

/-- MEASURE (R314, R341, R361, R367, R374): MS2 takes a digest that it does not hold yet; a field image other than the running one's is
restarted; with the right one running, the field values of the record are written back. -/
def measureRx (m : WRx) (fd : FieldDie) (h : HostDie) : HostDie :=
  let dig := fun (ws : List W32) => ((ws.drop 1).take 12).flatMap (fun w => bytesLE 4 w.toNat)
  let d := dig m.payload
  let fresh := decide (tget 0 h.boot.msCnt 2 = 0) || decide (dig h.leg.fieldMs ≠ d)
  let h := { h with leg := { h.leg with fieldMs := m.payload }, boot := { h.boot with lcField := fld (wAt m.payload 0) 14 12 } }
  if h.boot.inRom ∨ h.coresRun = false then splitNow h
  else
    let h := if fld (wAt m.payload 0) 3 0 = 2 ∧ fresh then { h with boot := msPush h.boot 2 d } else h
    let was := h.boot.split
    let h := splitNow h
    let h := if h.boot.split && !was then splitFix h else h
    let want := h.boot.runDig.getD 2 []
    if want ≠ [] ∧ want ≠ d then askField h 3 0x8040 0x10 [0xA5, 0xC3]
    else if h.leg.restoring ∧ fld (wAt m.payload 0) 3 0 = 2 ∧ fd.mer.running = false then restoreField fd h else h

/-! ### Subscriptions that end -/

/-- SUBSCRIPTION_LAPSE (R324): a gateway renews the subscriptions of its open sessions, so one of those on the gateway itself goes on. -/
def subLapse (n : Nat) (h : HostDie) : HostDie :=
  let open' := fun (t : Sub) => match t.via with
    | .tool ep => (sessionOf h ep t.rid).any (fun e => decide (e.2.rid = t.rid))
    | _ => false
  { h with leg := { h.leg with subs := h.leg.subs.filter (fun t => decide (t.id ≠ n) || open' t) } }

/-! ### Samples -/

/-- A reading of a die's sensor (R446). -/
def sampleCom (t : BitVec 12) (c : Common) : Common :=
  { c with temp := t, tmax := if c.tmax.toInt < t.toInt then t else c.tmax, hot := c.hot || decide (420 ≤ t.toInt) }

/-- TEMP_SAMPLE on the host die (R294, R446): TSENS_FAR loses VALID where no STATUS came within the period. -/
def tempHost (t : BitVec 12) (fd : FieldDie) (h : HostDie) : HostDie :=
  let was := h.com.hot
  let h := { h with com := sampleCom t h.com, far := if h.farFresh then h.far else h.far &&& 0x7FFFFFFF, farFresh := false,
                    dt := { h.dt with histH := histAdd h.dt.histH t.toInt 6000 } }
  let h := if h.com.hot && !was then hostEventRaw h .hot [w32 t.toNat] else h
  classFall fd h

/-- TEMP_SAMPLE on the field die. -/
def tempField (t : BitVec 12) (f : FieldDie) : FieldDie :=
  let was := f.com.hot
  let f := { f with com := sampleCom t f.com }
  if f.com.hot && !was then fieldEvent f .hot [w32 t.toNat] else f

/-- DUP_EXPIRY on the field side (R327). -/
def fieldDupExpire (f : FieldDie) (rid rseq : Nat) : FieldDie :=
  let keep := fun (r : FieldDup) => if r.rid = rid then { r with outs := r.outs.filter (fun e => decide (e.1 ≠ rseq)) } else r
  { f with dups := (f.dups.map keep).filter (fun r => decide (r.outs ≠ [])) }

/-! ### The commands -/

def execHostPowerOn (io : Bool) (s : State) := ans s (fun d => { d with host := hostPowerOn io d.host })
def execHostPowerOnResetRelease (head : Bool) (boot : BitVec 3) (bad : List (Nat × Nat)) (s : State) :=
  ans s (fun d => { d with host := hostRelease head boot.toNat bad d.host })
def execStreamRet (rx : Side) (m : WRx) (s : State) := ans s (fun d => rxHost 1 m (streamRetOk m d.host) rx (streamRet m) d)
def execParamResp (rx : Side) (m : WRx) (s : State) := ans s (fun d => rxHost 4 m true rx (paramResp m d.field) d)
def execStatusMsg (rx : Side) (m : WRx) (s : State) := ans s (fun d => rxHost 6 m true rx (statusRx m d.field) d)
def execEventMsg (rx : Side) (m : WRx) (s : State) :=
  ans s (rxCom rx 7 m true (fun d =>
    match rx with
    | .host => onHost (fun h => hostEventWords h m.payload) d
    | .field => onField (fun f => { f with com := { f.com with events := m.payload :: f.com.events } }) d))
def execImageResult (rx : Side) (m : WRx) (s : State) := ans s (rxHost 10 m (decide (m.payload.length = 4)) rx (imageResult m))
def execMeasureMsg (rx : Side) (m : WRx) (s : State) := ans s (fun d => rxHost 11 m (decide (m.payload.length = 13)) rx (measureRx m d.field) d)
def execPFrame (x : Port) (f : CwRx) (s : State) := hostSeeCmd (pFrameTake (portNo x) f) s
def execSlaveRegWrite (a : BitVec 6) (data : RegWords) (s : State) := hostSeeCmd (slaveRegTake a data.words data.full) s
def execVFrame (x : Port) (f : CwRx) (s : State) := hostSeeCmd (vFrame (portNo x) f) s
def execSlotMapCommit (q : LegReq) (s : State) := hostSeeCmd (legNamed 6 0x2000 0x81 q) s
def execReturnCommit (q : LegReq) (s : State) := hostSeeCmd (legNamed 6 0x2100 0x21 q) s
def execSourceCommit (q : LegReq) (s : State) := hostSeeCmd (legNamed 6 0x2200 0x09 q) s
def execReadReq (q : LegReq) (s : State) := hostSeeCmd (legRow' 1 q) s
def execWriteReq (q : LegReq) (s : State) := hostSeeCmd (legRow' 2 q) s
def execReadBlock (q : LegReq) (s : State) := hostSeeCmd (legRow' 3 q) s
def execWriteBundle (q : LegReq) (s : State) := hostSeeCmd (legRow' 4 q) s
def execSubscribeReq (q : LegReq) (s : State) := hostSeeCmd (legRow' 5 q) s
def execActionReq (q : LegReq) (s : State) := hostSeeCmd (legRow' 6 q) s
def execDescribeReq (q : LegReq) (s : State) := hostSeeCmd (legRow' 7 q) s
def execNotifySend (n : Nat) (s : State) := hostSeeCmd (notifySend n) s
def execSubscriptionLapse (n : Nat) (s : State) := hostCmd (subLapse n) s
def execWatchCheck (s : State) := hostSeeCmd watchCheck s
def execDupExpiry (d : Side) (rid rseq : BitVec 16) (s : State) :=
  integCmd d (fun h => dupExpire h rid.toNat rseq.toNat) (fun f => fieldDupExpire f rid.toNat rseq.toNat) s
def execWeirForwardTimeout (rid rseq : BitVec 16) (s : State) := hostCmd (forwardTimeout rid.toNat rseq.toNat) s
def execSessionChallengeRead (q : LegReq) (s : State) := hostSeeCmd (legNamed 1 0x0100 0x01 q) s
def execOpenSession (q : LegReq) (ep : BitVec 48) (within : Bool) (s : State) :=
  hostSeeCmd (fun fd h => legRequest fd 6 { q with via := .tool ep.toNat } within (bytesBE 2 0x0100 ++ [0x02] ++ q.body) h) s
def execOpenLockoutEnd (s : State) := hostCmd (fun h => { h with leg := { h.leg with lockout := false } }) s
def execCloseSession (q : LegReq) (s : State) := hostSeeCmd (legNamed 6 0x0100 0x03 q) s
def execSessionIdle (n : Nat) (s : State) := hostCmd (fun h => { h with leg := { h.leg with sessions := tput none h.leg.sessions n none } }) s
def execSafeCmd (q : LegReq) (s : State) := hostSeeCmd (legNamed 6 0x0010 0x01 q) s
def execResumeCmd (q : LegReq) (s : State) := hostSeeCmd (legNamed 6 0x0010 0x02 q) s
def execSaveCmd (q : LegReq) (s : State) := hostSeeCmd (legNamed 6 0x0010 0x03 q) s
def execSaveDone (s : State) := hostSeeCmd saveDone s
def execDefaultsCmd (q : LegReq) (s : State) := hostSeeCmd (legNamed 6 0x0010 0x04 q) s
def execBump (q : LegReq) (s : State) := hostSeeCmd (legNamed 6 0x0210 0x02 q) s
def execApplyProfile (q : LegReq) (s : State) := hostSeeCmd (legNamed 6 0x0200 0x21 q) s
def execProfileFetch (s : State) := hostCmd profileFetch s
def execProfileEvaluate (s : State) := hostSeeCmd profileEvaluate s
def execProfileStale (s : State) := hostSeeCmd profileStale s
def execLifecycleAdvance (q : LegReq) (s : State) := hostSeeCmd (legNamed 6 0x8000 0x04 q) s
def execLifecycleChallengeRead (q : LegReq) (s : State) := hostSeeCmd (legNamed 1 0x8000 0x03 q) s
def execUnlock (q : LegReq) (s : State) := hostSeeCmd (legNamed 6 0x8000 0x05 q) s
def execTestToken (d : Side) (t : TokenIn) (s : State) :=
  match d with
  | .host => hostCmd (testTokenHost t.bytes t.late) s
  | .field => ans s (testTokenField t.bytes t.late)
def execKeyAdd (q : LegReq) (s : State) := hostSeeCmd (legNamed 6 0x8000 0x07 q) s
def execKeyRevoke (q : LegReq) (s : State) := hostSeeCmd (legNamed 6 0x8000 0x08 q) s
def execPullSend (s : State) := hostCmd pullSend s
def execPull (q : LegReq) (s : State) := hostSeeCmd (legNamed 6 0x8040 0x06 q) s
def execStage1Start (s : State) := hostSeeCmd stage1Start s
def execQuote (q : LegReq) (s : State) := hostSeeCmd (legNamed 6 0x8030 0x01 q) s
def execQuoteDone (s : State) := hostSeeCmd quoteDone s
def execImageOpen (q : LegReq) (s : State) := hostSeeCmd (legNamed 6 0x8040 0x01 q) s
def execImageActivate (q : LegReq) (s : State) := hostSeeCmd (legNamed 6 0x8040 0x04 q) s
def execImageAbort (q : LegReq) (s : State) := hostSeeCmd (legNamed 6 0x8040 0x05 q) s
def execFaultLogClear (q : LegReq) (s : State) := hostSeeCmd (legNamed 6 0x9300 0x03 q) s
def execTempSample (d : Side) (t : BitVec 12) (s : State) :=
  match d with
  | .host => hostSeeCmd (tempHost t) s
  | .field => fieldCmd (tempField t) s

end Sys2Proof.Machine
end

