-- ==== Sys2Proof/Machine/FieldRows.lean ====
section
/-! DEFINITION. Commands of the field side and of both: its boot, messages received, resets, the pass timer, DMA, registers. -/

namespace Sys2Proof.Machine

/-! ### The field store of answers (R327, R328) -/

/-- The answers held of a requester. -/
def fdupOuts (f : FieldDie) (rid : Nat) : Option (List (Nat × List W32)) := (f.dups.find? (fun r => decide (r.rid = rid))).map (·.outs)

/-- An answer stored: the last 16 of each requester. -/
def fdupPut (f : FieldDie) (rid rseq : Nat) (ws : List W32) : FieldDie :=
  let outs := ((rseq, ws) :: ((fdupOuts f rid).getD []).filter (fun e => decide (e.1 ≠ rseq))).take 16
  { f with dups := ⟨rid, outs⟩ :: f.dups.filter (fun r => decide (r.rid ≠ rid)) }

/-- A PARAM_RESP queued. -/
def respQueue (f : FieldDie) (ws : List W32) : FieldDie := { f with com := weirQueue f.com ⟨4, 0, 0, ws⟩ }

/-- An answer stored and queued. -/
def respStore (f : FieldDie) (rid rseq : Nat) (m : WMsg) : FieldDie := respQueue (fdupPut f rid rseq m.payload) m.payload

/-- A request judged by the store (R328): served once, an answer held sent again, an old number answered DUP. -/
def fdupServe (rid rseq idx sub : Nat) (serve : FieldDie → FieldDie) (f : FieldDie) : FieldDie :=
  let err := fun (c : Nat) => respQueue f (paramRespMsg rid rseq idx sub c 1 []).payload
  match fdupOuts f rid with
  | none => if 64 ≤ f.dups.length then err 7 else serve f
  | some outs =>
    match outs.find? (fun e => decide (e.1 = rseq)) with
    | some (_, ws) => respQueue f ws
    | none =>
      match outs with
      | [] => serve f
      | (newest, _) :: _ =>
        let d := (newest + 2 ^ 16 - rseq) % 2 ^ 16
        if 1 ≤ d ∧ d ≤ 32767 then err 8 else serve f

/-! ### Trust on the field die (R341, R343, R345, R348, R368) -/

/-- ADVANCE as the host firmware completes it: the state alone where no token is needed (R341, R343). -/
def fieldAdvance (issued d : List Byte) (f : FieldDie) : FieldDie × Nat :=
  let dst := beAt d 0 1
  let own := lcOf f.com.fuses
  let r := if d.length = 1 then (f, true) else judgeField issued false (if dst = 4 then 3 else 2) (d.drop 1) f
  if 4 < dst ∨ dst ≤ own then (f, 5)
  else if r.2 then
    let g := { r.1 with lcHost := max f.lcHost dst }
    (fieldFault { g with com := { g.com with fuses := lcTake f.com.fuses dst } } 3 [w32 own, w32 dst], 0)
  else (r.1, 10)

/-- KEY_ADD on the field die's own slots. -/
def fieldKeyAdd (issued d : List Byte) (f : FieldDie) : FieldDie × Nat :=
  let u := f.com.fuses
  let put := fun (f : FieldDie) (k : Nat) (dig : List Byte) =>
    if 4 ≤ k ∨ u.programmed.testBit k then (f, 6)
    else
      let g := { f with com := { f.com with fuses := { u with programmed := u.programmed ||| 2 ^ k, digests := tput [] u.digests k dig } } }
      (ledCheck fieldOps (fieldFault g 5 [w32 k]) ⟨16, 0⟩, 0)
  if lcFieldIn f ≤ 1 then (if d.length = 49 then put f (beAt d 0 1) (d.drop 1) else (f, 6))
  else if lcFieldIn f = 2 ∧ d.length = 224 then
    let r := judgeField issued false 4 d f
    if r.2 then put r.1 (beAt d 1 1) (slice d 28 48) else (r.1, 6)
  else (f, 6)

/-- KEY_REVOKE on the field die's own slots. -/
def fieldKeyRevoke (issued t : List Byte) (f : FieldDie) : FieldDie × Nat :=
  let u := f.com.fuses
  let k := beAt t 1 1
  if t.length ≠ 224 then (f, 6)
  else
    let r := judgeField issued false 5 t f
    if r.2 = false ∨ beAt t 2 1 = k ∨ slotLive u k = false ∨ liveSlots u = [k] then (r.1, 6)
    else (fieldFault { r.1 with com := { f.com with fuses := { u with revoked := u.revoked ||| 2 ^ k } } } 5 [w32 k], 0)

/-- 8000h, as the field controller serves it. -/
def fieldTrust (issued : List Byte) (sub : Nat) (d : List Byte) (f : FieldDie) : FieldDie × Nat :=
  if sub = 4 then fieldAdvance issued d f
  else if sub = 5 then
    let r := unlockField issued d f
    (r.1, if r.2 then 0 else 10)
  else if sub = 7 then fieldKeyAdd issued d f
  else fieldKeyRevoke issued d f

/-- 8040h sub 10h (R368). -/
def remoteRestart (v : Nat) (f : FieldDie) : FieldDie × Nat := if v = 0xA5C3 then (ctrlReset 18 f, 0) else (f, 5)

/-! ### PARAM_WRITE and PARAM_READ (R18, R34, R301) -/

/-- Entries that the bridge serves in hardware: the binding points, the bundle, the restart, the measurement (R34, R149, R321, R367, R368). -/
def bridgeServes (idx sub : Nat) : Bool :=
  (decide (0xA000 ≤ idx) && decide (idx ≤ 0xEFFF)) || decide (idx = 0x4000) || (decide (idx = 0x4002) && (decide (sub = 4) || decide (sub = 5))) ||
    (decide (0x4010 ≤ idx) && decide (idx < 0x4110) && decide (sub = 0x10)) || (decide (0x6400 ≤ idx) && decide (idx < 0x6C00) && decide (sub = 2)) ||
    (decide (0x7000 ≤ idx) && decide (idx < 0x7018) && decide (sub = 1)) || (decide (idx = 0x7100) && decide (sub ≤ 4)) ||
    (decide (idx = 0x7200) && decide (sub ≤ 0x10)) || (decide (0x7800 ≤ idx) && decide (idx < 0x7820) && decide (sub = 1)) ||
    (decide (idx = 0x7800) && decide (0x10 ≤ sub) && decide (sub ≤ 0x17)) || (decide (idx = 0x8040) && decide (sub = 0x10)) ||
    (decide (idx = 0x8020) && decide (sub = 0x10))

/-- The field side answers BUSY: its controller is in reset or restarting (R34). Repair records are the ROM's to take (R419). -/
def fieldBusy (f : FieldDie) (idx sub : Nat) : Bool :=
  f.fb.inRom && !bridgeServes idx sub && !(decide (idx = 0x9100) && decide (sub = 0x41))

/-- Host entries that the field controller executes on its own part (R348, R423). -/
def fieldOwn (idx sub : Nat) : Bool :=
  (decide (idx = 0x8000) && (decide (sub = 4) || decide (sub = 5) || decide (sub = 7) || decide (sub = 8))) ||
    (decide (idx = 0x9100) && decide (sub = 0x40)) || (decide (idx = 0x9200) && decide (sub = 0x20))

/-- A write or an action judged and made: the die and the response code. -/
def fieldTake (issued : List Byte) (rid rseq idx sub typ off : Nat) (d : List Byte) (f : FieldDie) : FieldDie × Nat :=
  if fieldBusy f idx sub then (f, 7)
  else
    match entryOf f idx sub with
    | .noObject => (f, 1)
    | .noSub => (f, 2)
    | .row r =>
      if idx = 0x8000 ∧ fieldOwn idx sub then fieldTrust issued sub d f
      else if r.field = false ∧ fieldOwn idx sub = false then (f, 1)
      else if accOk r .write = false ∧ accOk r .act = false then (f, 3)
      else if typ ≠ r.typ then (f, 4)
      else if valueBad r off d then (f, 5)
      else if idx = 0x8040 then remoteRestart (ofBytesBE d) f
      else fieldWrite rid rseq f idx sub off d

/-- The length and the byte offset of a PARAM_WRITE by its word 2 (R18): the length alone, but for a BLOB that is no bound entry (log entry 15). No length
above 512 fits any value. -/
def writeSpan (f : FieldDie) (idx sub : Nat) (w : W32) : Nat × Nat :=
  match entryOf f idx sub with
  | .row r => if idx < 0xA000 ∧ r.typ = 0x0E then (fld w 8 0, fld w 31 9) else (min w.toNat 512, 0)
  | _ => (min w.toNat 512, 0)

/-- PARAM_WRITE; `issued` is the challenge most recently read at 8000h (R344). -/
def paramWriteRx (issued : List Byte) (m : WRx) (f : FieldDie) : FieldDie :=
  let p := m.payload
  let rid := fld (wAt p 0) 31 16
  let rseq := fld (wAt p 0) 15 0
  let idx := fld (wAt p 1) 31 16
  let sub := fld (wAt p 1) 15 8
  let typ := fld (wAt p 1) 7 0
  fdupServe rid rseq idx sub (fun f =>
    let n := writeSpan f idx sub (wAt p 2)
    let r := fieldTake issued rid rseq idx sub typ n.2 (unpackWords typ n.1 (p.drop 3)) f
    respStore r.1 rid rseq (paramRespMsg rid rseq idx sub r.2 1 [])) f

/-- The MEASURE message (R367). -/
def measureMsg (f : FieldDie) : WMsg :=
  ⟨11, 0, 0, w32 (2 + 256 * b2n f.fb.unver + 512 * b2n (bit f.com.testCtrl 2) + 4096 * (lcOf f.com.fuses % 8)) ::
    wordsOfBytes (fixLen 48 f.fb.meas)⟩

/-- MEASURE queued. -/
def measureSend (f : FieldDie) : FieldDie := { f with com := weirQueue f.com (measureMsg f) }

/-- PARAM_READ: a value of up to 256 bytes. -/
def paramReadRx (m : WRx) (f : FieldDie) : FieldDie :=
  let p := m.payload
  let rid := fld (wAt p 0) 31 16
  let rseq := fld (wAt p 0) 15 0
  let idx := fld (wAt p 1) 31 16
  let sub := fld (wAt p 1) 15 8
  let out := fun (f : FieldDie) (c typ : Nat) (d : List Byte) => respQueue f (paramRespMsg rid rseq idx sub c typ d).payload
  if idx = 0x8020 ∧ sub = 0x10 then out (measureSend f) 0 0x0E f.fb.meas
  else if fieldBusy f idx sub then out f 7 1 []
  else
    match entryOf f idx sub with
    | .noObject => out f 1 1 []
    | .noSub => out f 2 1 []
    | .row r =>
      if r.field = false then out f 1 1 []
      else if accOk r .read = false then out f 3 1 []
      else
        let v := fieldRead f idx sub
        out v.1 0 r.typ (v.2.take 256)

/-- BUNDLE_COMMIT, once (R327): its answer is the one that `bundleRx` queues. -/
def bundleOnce (m : WRx) (f : FieldDie) : FieldDie :=
  let rid := fld (wAt m.payload 0) 31 16
  let rseq := fld (wAt m.payload 0) 15 0
  fdupServe rid rseq 0x4002 5 (fun f =>
    let r := bundleWords m.payload (.legend rid rseq) f
    fdupPut (bundleRx m f) rid rseq (paramRespMsg rid rseq 0x4002 5 (verdictCode r.2) 1 []).payload) f

/-! ### The field ROM (R354, R365 to R367) -/

/-- An IMAGE_RESULT (R366). -/
def resultMsg (f : FieldDie) (block verdict : Nat) : WMsg :=
  ⟨10, 0, 0, [w32 (f.fb.ident.getD 0 * 65536 + block), w32 verdict, w32 f.fb.next, w32 (leAt f.fb.man 16 4)]⟩

/-- It queued. -/
def resultSend (f : FieldDie) (block verdict : Nat) : FieldDie := { f with com := weirQueue f.com (resultMsg f block verdict) }

/-- FIELD_READY_SEND: not in VOID, where the ROM halts (R347). -/
def readySend (f : FieldDie) : FieldDie :=
  if f.fb.inRom ∧ lcFieldIn f ≠ 4 ∧ romTests f.com = false ∧ f.com.weir.linkUp ∧ f.fb.ident = none then resultSend f 0xFFFF 0 else f

/-- The ROM waits again. -/
def romWait (f : FieldDie) : FieldDie :=
  { f with fb := { f.fb with ident := none, next := 0, quarter := 0, block := [], missing := false, man := [], hashes := [] } }

/-- Data block `i` copied to the destinations that hold it (R353): bank F, or the field bus with the shadow tables. -/
def componentPut (man : List Byte) (i : Nat) (b : List Byte) (f : FieldDie) : FieldDie :=
  match (manComps man).find? (fun c => decide (c.first ≤ i) && decide (i < c.first + c.count)) with
  | none => f
  | some c =>
    let off := 4096 * (i - c.first)
    let d := b.take (c.size - off)
    let a := c.dest + off
    if c.typ = 0x11 then fieldWriteBank f .f a d
    else if a < 0x10000 then
      (d.zipIdx a).foldl (fun f p =>
        let o := p.2 / 4 * 4
        let put := fun (w : W32) => setFld w (8 * (p.2 % 4) + 7) (8 * (p.2 % 4)) p.1.toNat
        if o < 0x4000 then { f with eng := { f.eng with dtSh := tput 0 f.eng.dtSh ((o - 0x2000) / 4) (put (tget 0 f.eng.dtSh ((o - 0x2000) / 4))) } }
        else modCg f (fun c => bindPut ((o - 0x4000) / 4) (put (tget 0 c.bindSh ((o - 0x4000) / 4))) c)) f
    else ((wordPieces 1025 a d).foldl (fun f p => (fieldBusWr f p.1 p.2).1) f)

/-- The image has arrived whole: judged, measured, started (R354, R366, R367). -/
def imageStart (f : FieldDie) : FieldDie :=
  let m := f.fb.man
  let good := manSigned f.com.fuses (fieldKeyOf f.com.fuses) m
  let entry := match (manComps m).find? (fun k => decide (k.typ = 0x11)) with | some k => k.dest + k.entry | none => 0
  let fb := { f.fb with verdict := if good then 4 else 5, unver := !good, rootLock := !good, meas := Config.sha384 (m.take 3808),
                        version := w32 (leAt m 20 4), entry := entry }
  let f := measureSend { f with fb := fb, com := { f.com with testCtrl := portState f.com.testCtrl (lcFieldIn f) } }
  let f := resultSend f 0xFFFF (if good then 4 else 5)
  { f with fb := { f.fb with inRom := false } }

/-- A complete block judged: BLOCK_OK and what follows, BLOCK_BAD, IMAGE_BAD or TARGET. -/
def blockJudge (b : List Byte) (f : FieldDie) : FieldDie :=
  let k := f.fb.next
  let clear := { f with fb := { f.fb with quarter := 0, block := [], missing := false } }
  if k = 0 then
    if leAt b 8 4 ≠ 0x4E4129 then romWait (resultSend { clear with fb := { clear.fb with man := b, verdict := 7 } } 0xFFFF 7)
    else if manOk true b = false then romWait (resultSend { clear with fb := { clear.fb with man := b, verdict := 6 } } 0xFFFF 6)
    else resultSend { clear with fb := { clear.fb with man := b, next := 1 } } 0 1
  else if blockOk f.fb.man f.fb.hashes k b then
    let s := streamBlock k
    let f := { clear with fb := { clear.fb with next := k + 1, hashes := if s.1 then b else f.fb.hashes } }
    let f := if s.1 then f else componentPut f.fb.man s.2 b f
    let f := resultSend f k 1
    if k + 1 = manBlocks f.fb.man then imageStart f else f
  else resultSend clear k 2

/-- A block or quarter that was not expected: one MISSING (R365). -/
def missOnce (f : FieldDie) : FieldDie :=
  if f.fb.missing then f else resultSend { f with fb := { f.fb with missing := true } } f.fb.next 3

/-- The quarter expected next is taken; another starts one MISSING. -/
def quarterTake (b q : Nat) (ws : List W32) (f : FieldDie) : FieldDie :=
  if b = f.fb.next ∧ q = f.fb.quarter then
    let g := { f with fb := { f.fb with block := f.fb.block ++ ws, quarter := q + 1, missing := false } }
    if q = 3 then blockJudge (g.fb.block.flatMap (fun w => bytesLE 4 w.toNat)) g else g
  else missOnce f

/-- IMAGE_BLOCK. -/
def imageBlockRx (m : WRx) (f : FieldDie) : FieldDie :=
  let id := fld (wAt m.payload 0) 31 16
  let b := fld (wAt m.payload 0) 15 0
  let q := fld (wAt m.payload 1) 1 0
  if f.fb.inRom = false ∨ lcFieldIn f = 4 ∨ romTests f.com then f
  else
    let f := if b = 0 ∧ f.fb.ident ≠ some id then { (romWait f) with fb := { (romWait f).fb with ident := some id } } else f
    if f.fb.ident = none ∨ f.fb.ident = some id then quarterTake b q (m.payload.drop 2) f else missOnce f

/-! ### Power and resets (R32 to R34, R431 to R434) -/

/-- What a power-on reset of the field die keeps: fuses, recorded DRAM redirects (R417), the model's count of draws. -/
def fieldKept (f : FieldDie) : FieldDie :=
  let i := f.com.integ
  { fieldDie0 with com := { common0 with supply := f.com.supply, por := true, pwrStat := f.com.pwrStat, fuses := f.com.fuses, free := f.com.free,
                                         integ := { integ0 with remap := i.remap.filter (fun e => decide (e.1.res = 11)), dramUsed := i.dramUsed } },
                   pil := { pilot0 with supplyLow := f.pil.supplyLow } }

/-- FIELD_POWER_ON (R432, R435). -/
def fieldPowerOn (io avdd avss : Bool) (f : FieldDie) : FieldDie :=
  fieldKept { f with com := { f.com with supply := true, pwrStat := bitAt 0 io ||| bitAt 1 avdd ||| bitAt 2 avss },
                     pil := { f.pil with supplyLow := !(avdd && avss) } }

/-- FIELD_POWER_ON_RESET_RELEASE (R432): nothing while the reset is not held. -/
def fieldRelease (f : FieldDie) : FieldDie :=
  if f.com.supply = false ∨ f.com.por = false then f
  else
    let d := fieldKept f
    { d with com := { d.com with por := false, integ := { d.com.integ with march := marchBoot d.com.fuses } } }

/-- RESET_BALL_LOW (R434). -/
def resetBallLow (d : Side) (ds : Dies) : Dies :=
  match d with
  | .host => if ds.host.com.runs then { ds with host := hostKept ds.host ds.host.cw.isHead } else ds
  | .field => if ds.field.com.runs then { ds with field := fieldKept ds.field } else ds

/-- CTRL_RST (R32, R33): by the register with its key, or by the test port while that is open (R345). -/
def ctrlRst (v : W32) (viaTest : Bool) (f : FieldDie) : FieldDie :=
  if viaTest then (if portOpen f.com.testCtrl (lcFieldIn f) then ctrlReset 10 f else f) else if fld v 31 16 = 0xA5C3 ∧ bit v 0 then ctrlReset 2 f else f

/-! ### The pass (R42, R53, R338) -/

/-- The profile mutes the audio outputs (R338): in SAFE, and in QUARANTINE where the profile says so. -/
def muteWanted (h : HostDie) : Bool := decide (h.cw.state = 5) || (decide (h.cw.state = 2) && decide (profGet h.leg.prof 0x0C = [1]))

/-- The mute as the host firmware has it, where the host is there to say. -/
def muteFrom (h : HostDie) (f : FieldDie) : FieldDie :=
  if h.com.runs ∧ f.com.weir.farPresent then { f with muting := muteWanted h } else f

/-- A field command that starts with the mute of the host firmware. -/
def passCmd (act : FieldDie → FieldDie) (ds : Dies) : Dies := onField (fun f => act (muteFrom ds.host f)) ds

/-! ### DMA (R377 to R388) -/

/-- A DMA operation on the engine of one die. -/
def dmaCmd (d : Side) (h : HostDie → HostDie) (f : FieldDie → FieldDie) (s : State) : Host.Outcome State Fault Refusal :=
  match d with
  | .host => hostCmd h s
  | .field => fieldHeard f s

/-- An open field test port reaches the engine registers while RUN is 0 (R77, R345). How the port names one is open: by its code of R78 (DESIGN CHOICE,
log entry 60). -/
def portReaches (f : FieldDie) : Bool := portOpen f.com.testCtrl (lcFieldIn f) && !bit f.mer.ctrl 0

/-- A read and a write of the engine register with code `c` through the test port: a reserved code reads 0, and takes no write. -/
def portRegRead (c : Nat) (f : FieldDie) : FieldDie := if portReaches f then setRead f (w32 ((codeRead f c).getD 0)) else f
def portRegWrite (c : Nat) (v : W32) (f : FieldDie) : FieldDie :=
  if portReaches f ∧ codeWritable c then
    match codeTarget f.eng c v.toNat with
    | some ws => { f with eng := ws.foldl (fun e w => putReg w.1 w.2.1 w.2.2 e) f.eng }
    | none => f
  else f

/-- A write of a register of the die `d`; `viaTest`: through its test port. -/
def regWrite (d : Side) (o : Nat) (v : W32) (viaTest : Bool) (ds : Dies) : Dies :=
  match d with
  | .host => if viaTest then ds else onHost (hostRegWrite o v ds.field) ds
  | .field => onField (if viaTest then portRegWrite o v else fieldRegWrite o v) ds

/-- STATUS_SEND (R18, R446): once per millisecond, from hardware sources. -/
def statusSend (f : FieldDie) : FieldDie := { f with com := weirQueue f.com ⟨6, 0, 0, Config.statusWords f.com.temp⟩ }

/-! ### The commands -/

def execFieldPowerOn (io avdd avss : Bool) (s : State) := ansHeard s (fun d => { d with field := fieldPowerOn io avdd avss d.field })
def execFieldPowerOnResetRelease (s : State) := ansHeard s (fun d => { d with field := fieldRelease d.field })
def execResetBallLow (d : Side) (s : State) := ansHeard s (resetBallLow d)
def execCtrlRst (v : W32) (viaTest : Bool) (s : State) := fieldHeard (ctrlRst v viaTest) s
def execFieldRestart (m : WRx) (s : State) := ansHeard s (fun d => rxField 2 m true .field (paramWriteRx d.host.boot.issued m) d)
def execRepairRecordRestore (m : WRx) (bad : List (Nat × Nat)) (s : State) :=
  ansHeard s (fun d => rxField 2 m true .field (fun f => paramWriteRx d.host.boot.issued m (spareReport fieldOps bad f)) d)
def execStreamIn (rx : Side) (m : WRx) (s : State) := ans s (fun d => rxField 0 m (streamForm d.field.mer m) rx (streamIn m) d)
def execParamWrite (rx : Side) (m : WRx) (s : State) := ansHeard s (fun d => rxField 2 m true rx (paramWriteRx d.host.boot.issued m) d)
def execParamRead (rx : Side) (m : WRx) (s : State) := ans s (rxField 3 m true rx (paramReadRx m))
def execBundleCommit (rx : Side) (m : WRx) (s : State) := ans s (rxField 5 m true rx (bundleOnce m))
def execTimeMark (rx : Side) (m : WRx) (ahead : Nat) (s : State) := ansHeard s (rxField 8 m true rx (timeMarkTake m.payload ahead))
def execImageBlock (rx : Side) (m : WRx) (s : State) := ans s (rxField 9 m true rx (imageBlockRx m))
def execFieldReadySend (s : State) := fieldCmd readySend s
def execPassTimerWrap (s : State) := ansHeard s (passCmd passWrap)
def execSeam (mm : Option MacMismatch) (s : State) := ansHeard s (passCmd (seam mm))
def execFieldBankAccess (a : BusAcc) (s : State) := fieldHeard (bankAccess a) s
def execAtomicAddAlias (a : BusAcc) (s : State) := fieldHeard (bankAccess a) s
def execAtomicSwapAlias (a : BusAcc) (s : State) := fieldHeard (bankAccess a) s
def execDmaQueueEnable (d : Side) (n : Nat) (v : W32) (s : State) := dmaCmd d (dmaCtlWrite hostDma n v) (dmaCtlWrite fieldDma n v) s
def execDmaQueueDisable (d : Side) (n : Nat) (v : W32) (s : State) := dmaCmd d (dmaCtlWrite hostDma n v) (dmaCtlWrite fieldDma n v) s
def execDmaResume (d : Side) (n : Nat) (v : W32) (s : State) := dmaCmd d (dmaCtlWrite hostDma n v) (dmaCtlWrite fieldDma n v) s
def execDmaAudit (d : Side) (n : Nat) (v : W32) (s : State) := dmaCmd d (dmaCtlWrite hostDma n v) (dmaCtlWrite fieldDma n v) s
def execDmaPidxWrite (d : Side) (n : Nat) (v : W32) (s : State) := dmaCmd d (dmaPidx hostDma n v) (dmaPidx fieldDma n v) s
def execDmaDescFetch (d : Side) (n : Nat) (s : State) := dmaCmd d (dmaFetch hostDma n) (dmaFetch fieldDma n) s
def execDmaNop (d : Side) (n : Nat) (s : State) := dmaCmd d (dmaNop hostDma n) (dmaNop fieldDma n) s
def execDmaCopy (d : Side) (n beats : Nat) (s : State) := dmaCmd d (dmaMove hostDma 1 n beats) (dmaMove fieldDma 1 n beats) s
def execDmaFill (d : Side) (n beats : Nat) (s : State) := dmaCmd d (dmaMove hostDma 2 n beats) (dmaMove fieldDma 2 n beats) s
def execRegisterWrite (d : Side) (o : RegAt) (v : W32) (s : State) := ansHeard s (regWrite d o.off v o.viaTest)
def execReadSnapshot (d : Side) (o : RegAt) (s : State) :=
  if o.viaTest then dmaCmd d id (portRegRead o.off) s else dmaCmd d (hostSnap o.off) (fieldSnap o.off) s
def execStatusSend (s : State) := fieldCmd statusSend s

end Sys2Proof.Machine
end

