-- ==== Sys2Proof/Machine/Dispatch.lean ====
section
/-! DEFINITION. One arm for each command: its meaning, or a refusal by name. -/

namespace Sys2Proof.Machine

/-- The effect of a command on everything but the queue. -/
def exec (i : Instr) (s : State) : Host.Outcome State Fault Refusal :=
  match i with
  | .hostPowerOn io3v3 => Sys2Proof.Machine.execHostPowerOn io3v3 s
  | .hostPowerOnResetRelease head boot bad => Sys2Proof.Machine.execHostPowerOnResetRelease head boot bad s
  | .fieldPowerOn io3v3 avddOk avssOk => Sys2Proof.Machine.execFieldPowerOn io3v3 avddOk avssOk s
  | .fieldPowerOnResetRelease => Sys2Proof.Machine.execFieldPowerOnResetRelease s
  | .resetBallLow side => Sys2Proof.Machine.execResetBallLow side s
  | .coreRst v viaTest => Sys2Proof.Machine.execCoreRst v viaTest s
  | .ctrlRst v viaTest => Sys2Proof.Machine.execCtrlRst v viaTest s
  | .switchRst v => Sys2Proof.Machine.execSwitchRst v s
  | .engineRst v => Sys2Proof.Machine.execEngineRst v s
  | .engineResetApply => Sys2Proof.Machine.execEngineResetApply s
  | .engineResetRelease => Sys2Proof.Machine.execEngineResetRelease s
  | .fieldRestart m => Sys2Proof.Machine.execFieldRestart m s
  | .commonModeTransient rx corrupt shift => Sys2Proof.Machine.execCommonModeTransient rx corrupt shift s
  | .weirBringUp => Sys2Proof.Machine.execWeirBringUp s
  | .weirLinkUp => Sys2Proof.Machine.execWeirLinkUp s
  | .weirEnableWrite side v => Sys2Proof.Machine.execWeirEnableWrite side v s
  | .heartbeatSend side => Sys2Proof.Machine.execHeartbeatSend side s
  | .heartbeat rx m => Sys2Proof.Machine.execHeartbeat rx m s
  | .farSideAbsent side => Sys2Proof.Machine.execFarSideAbsent side s
  | .weirMessageSent side => Sys2Proof.Machine.execWeirMessageSent side s
  | .bufferRelease side cls => Sys2Proof.Machine.execBufferRelease side cls s
  | .auditSend side => Sys2Proof.Machine.execAuditSend side s
  | .auditNow side v => Sys2Proof.Machine.execAuditNow side v s
  | .auditMsg rx m => Sys2Proof.Machine.execAuditMsg rx m s
  | .resync rx m => Sys2Proof.Machine.execResync rx m s
  | .resyncAckSend side cls => Sys2Proof.Machine.execResyncAckSend side cls s
  | .resyncAck rx m => Sys2Proof.Machine.execResyncAck rx m s
  | .laneFailed rx lane => Sys2Proof.Machine.execLaneFailed rx lane s
  | .spareSwitch side => Sys2Proof.Machine.execSpareSwitch side s
  | .tickEdge e ph => Sys2Proof.Machine.execTickEdge e ph s
  | .tickLaneTimeout => Sys2Proof.Machine.execTickLaneTimeout s
  | .tickMissing => Sys2Proof.Machine.execTickMissing s
  | .streamIn rx m => Sys2Proof.Machine.execStreamIn rx m s
  | .streamRet rx m => Sys2Proof.Machine.execStreamRet rx m s
  | .paramWrite rx m => Sys2Proof.Machine.execParamWrite rx m s
  | .paramRead rx m => Sys2Proof.Machine.execParamRead rx m s
  | .paramResp rx m => Sys2Proof.Machine.execParamResp rx m s
  | .bundleCommit rx m => Sys2Proof.Machine.execBundleCommit rx m s
  | .statusMsg rx m => Sys2Proof.Machine.execStatusMsg rx m s
  | .eventMsg rx m => Sys2Proof.Machine.execEventMsg rx m s
  | .timeMark rx m ahead => Sys2Proof.Machine.execTimeMark rx m ahead s
  | .imageBlock rx m => Sys2Proof.Machine.execImageBlock rx m s
  | .imageResult rx m => Sys2Proof.Machine.execImageResult rx m s
  | .measureMsg rx m => Sys2Proof.Machine.execMeasureMsg rx m s
  | .passTimerWrap => Sys2Proof.Machine.execPassTimerWrap s
  | .seam mm => Sys2Proof.Machine.execSeam mm s
  | .runWrite1 v => Sys2Proof.Machine.execRunWrite1 v s
  | .runWrite0 v => Sys2Proof.Machine.execRunWrite0 v s
  | .firstPassStart => Sys2Proof.Machine.execFirstPassStart s
  | .swapReq v => Sys2Proof.Machine.execSwapReq v s
  | .swapCancel v => Sys2Proof.Machine.execSwapCancel v s
  | .mpy op => Sys2Proof.Machine.execMpy op s
  | .mpyxy op => Sys2Proof.Machine.execMpyxy op s
  | .mac op => Sys2Proof.Machine.execMac op s
  | .msu op => Sys2Proof.Machine.execMsu op s
  | .macxy op => Sys2Proof.Machine.execMacxy op s
  | .msuxy op => Sys2Proof.Machine.execMsuxy op s
  | .macl op => Sys2Proof.Machine.execMacl op s
  | .mac2 op => Sys2Proof.Machine.execMac2 op s
  | .mac2n op => Sys2Proof.Machine.execMac2n op s
  | .tapOp op => Sys2Proof.Machine.execTapOp op s
  | .tapc op => Sys2Proof.Machine.execTapc op s
  | .macph op => Sys2Proof.Machine.execMacph op s
  | .macrz op => Sys2Proof.Machine.execMacrz op s
  | .macry op => Sys2Proof.Machine.execMacry op s
  | .extOp op => Sys2Proof.Machine.execExtOp op s
  | .extsOp op => Sys2Proof.Machine.execExtsOp op s
  | .accClr op => Sys2Proof.Machine.execAccClr op s
  | .accMov op => Sys2Proof.Machine.execAccMov op s
  | .accAdd op => Sys2Proof.Machine.execAccAdd op s
  | .accSub op => Sys2Proof.Machine.execAccSub op s
  | .accNeg op => Sys2Proof.Machine.execAccNeg op s
  | .accAbs op => Sys2Proof.Machine.execAccAbs op s
  | .accShl op => Sys2Proof.Machine.execAccShl op s
  | .accShr op => Sys2Proof.Machine.execAccShr op s
  | .accLdf op => Sys2Proof.Machine.execAccLdf op s
  | .accLdi op => Sys2Proof.Machine.execAccLdi op s
  | .aluAdd op => Sys2Proof.Machine.execAluAdd op s
  | .aluSub op => Sys2Proof.Machine.execAluSub op s
  | .aluNeg op => Sys2Proof.Machine.execAluNeg op s
  | .aluAbs op => Sys2Proof.Machine.execAluAbs op s
  | .aluMin op => Sys2Proof.Machine.execAluMin op s
  | .aluMax op => Sys2Proof.Machine.execAluMax op s
  | .aluCmp op => Sys2Proof.Machine.execAluCmp op s
  | .aluMov op => Sys2Proof.Machine.execAluMov op s
  | .aluAvg op => Sys2Proof.Machine.execAluAvg op s
  | .logicAnd op => Sys2Proof.Machine.execLogicAnd op s
  | .logicOr op => Sys2Proof.Machine.execLogicOr op s
  | .logicXor op => Sys2Proof.Machine.execLogicXor op s
  | .logicAndn op => Sys2Proof.Machine.execLogicAndn op s
  | .logicNot op => Sys2Proof.Machine.execLogicNot op s
  | .logicTst op => Sys2Proof.Machine.execLogicTst op s
  | .shfLsl op => Sys2Proof.Machine.execShfLsl op s
  | .shfLsr op => Sys2Proof.Machine.execShfLsr op s
  | .shfAsr op => Sys2Proof.Machine.execShfAsr op s
  | .shfRor op => Sys2Proof.Machine.execShfRor op s
  | .shfLslReg op => Sys2Proof.Machine.execShfLslReg op s
  | .shfLsrReg op => Sys2Proof.Machine.execShfLsrReg op s
  | .shfAsrReg op => Sys2Proof.Machine.execShfAsrReg op s
  | .shfRorReg op => Sys2Proof.Machine.execShfRorReg op s
  | .normAc op => Sys2Proof.Machine.execNormAc op s
  | .normD op => Sys2Proof.Machine.execNormD op s
  | .cvtQ131ToQ329 op => Sys2Proof.Machine.execCvtQ131ToQ329 op s
  | .cvtQ329ToQ131 op => Sys2Proof.Machine.execCvtQ329ToQ131 op s
  | .cvtF32ToQ131 op => Sys2Proof.Machine.execCvtF32ToQ131 op s
  | .cvtQ131ToF32 op => Sys2Proof.Machine.execCvtQ131ToF32 op s
  | .clamp op => Sys2Proof.Machine.execClamp op s
  | .peak op => Sys2Proof.Machine.execPeak op s
  | .movr op => Sys2Proof.Machine.execMovr op s
  | .busOp op => Sys2Proof.Machine.execBusOp op s
  | .smov op => Sys2Proof.Machine.execSmov op s
  | .sfill op => Sys2Proof.Machine.execSfill op s
  | .atadd op => Sys2Proof.Machine.execAtadd op s
  | .atswp op => Sys2Proof.Machine.execAtswp op s
  | .ldp op => Sys2Proof.Machine.execLdp op s
  | .macp op => Sys2Proof.Machine.execMacp op s
  | .opiMov op => Sys2Proof.Machine.execOpiMov op s
  | .opiAdd op => Sys2Proof.Machine.execOpiAdd op s
  | .opiAnd op => Sys2Proof.Machine.execOpiAnd op s
  | .opiOr op => Sys2Proof.Machine.execOpiOr op s
  | .opiXor op => Sys2Proof.Machine.execOpiXor op s
  | .ldx op => Sys2Proof.Machine.execLdx op s
  | .ldy op => Sys2Proof.Machine.execLdy op s
  | .ldz op => Sys2Proof.Machine.execLdz op s
  | .stx op => Sys2Proof.Machine.execStx op s
  | .sty op => Sys2Proof.Machine.execSty op s
  | .stz op => Sys2Proof.Machine.execStz op s
  | .opim op => Sys2Proof.Machine.execOpim op s
  | .nopOp op => Sys2Proof.Machine.execNopOp op s
  | .rpt op => Sys2Proof.Machine.execRpt op s
  | .rptChan op => Sys2Proof.Machine.execRptChan op s
  | .rptSpan op => Sys2Proof.Machine.execRptSpan op s
  | .repi op => Sys2Proof.Machine.execRepi op s
  | .ldctx op => Sys2Proof.Machine.execLdctx op s
  | .stctx op => Sys2Proof.Machine.execStctx op s
  | .evt op => Sys2Proof.Machine.execEvt op s
  | .phaseOp op => Sys2Proof.Machine.execPhaseOp op s
  | .nopn op => Sys2Proof.Machine.execNopn op s
  | .userInstruction op => Sys2Proof.Machine.execUserInstruction op s
  | .reservedOpcode w => Sys2Proof.Machine.execReservedOpcode w s
  | .merEvtRead => Sys2Proof.Machine.execMerEvtRead s
  | .uctlCopy v => Sys2Proof.Machine.execUctlCopy v s
  | .fieldBankAccess a => Sys2Proof.Machine.execFieldBankAccess a s
  | .eccWriteback bank cw => Sys2Proof.Machine.execEccWriteback bank cw s
  | .atomicAddAlias a => Sys2Proof.Machine.execAtomicAddAlias a s
  | .atomicSwapAlias a => Sys2Proof.Machine.execAtomicSwapAlias a s
  | .xScrub w => Sys2Proof.Machine.execXScrub w s
  | .cgDescWrite g v => Sys2Proof.Machine.execCgDescWrite g v s
  | .bundleReq v => Sys2Proof.Machine.execBundleReq v s
  | .bundleCancel v => Sys2Proof.Machine.execBundleCancel v s
  | .bindCopy v => Sys2Proof.Machine.execBindCopy v s
  | .siltReady => Sys2Proof.Machine.execSiltReady s
  | .siltWindowAccess a => Sys2Proof.Machine.execSiltWindowAccess a s
  | .siltLineWrite l word v => Sys2Proof.Machine.execSiltLineWrite l word v s
  | .siltTapConfigWrite e v => Sys2Proof.Machine.execSiltTapConfigWrite e v s
  | .delayLoWrite e v => Sys2Proof.Machine.execDelayLoWrite e v s
  | .delayHiWrite e v => Sys2Proof.Machine.execDelayHiWrite e v s
  | .captureArm v => Sys2Proof.Machine.execCaptureArm v s
  | .captureFreeze v => Sys2Proof.Machine.execCaptureFreeze v s
  | .capturePostDone => Sys2Proof.Machine.execCapturePostDone s
  | .captureEnWrite v => Sys2Proof.Machine.execCaptureEnWrite v s
  | .playbackStart v => Sys2Proof.Machine.execPlaybackStart v s
  | .playbackStop v => Sys2Proof.Machine.execPlaybackStop v s
  | .siltCtrlEnWrite v => Sys2Proof.Machine.execSiltCtrlEnWrite v s
  | .siltPatrol cw => Sys2Proof.Machine.execSiltPatrol cw s
  | .sapCfgWrite p v => Sys2Proof.Machine.execSapCfgWrite p v s
  | .sapEnableWrite p v => Sys2Proof.Machine.execSapEnableWrite p v s
  | .sapBallFrame p l r edgesL edgesR => Sys2Proof.Machine.execSapBallFrame p l r edgesL edgesR s
  | .sapGlitch p right => Sys2Proof.Machine.execSapGlitch p right s
  | .sapClockLost p => Sys2Proof.Machine.execSapClockLost p s
  | .sapClockReturn p => Sys2Proof.Machine.execSapClockReturn p s
  | .groupFrame g => Sys2Proof.Machine.execGroupFrame g s
  | .rateWindow p frames ticks8 => Sys2Proof.Machine.execRateWindow p frames ticks8 s
  | .mclkCtlWrite v => Sys2Proof.Machine.execMclkCtlWrite v s
  | .oscModeWrite v => Sys2Proof.Machine.execOscModeWrite v s
  | .oscTrimWrite v => Sys2Proof.Machine.execOscTrimWrite v s
  | .familyWrite v => Sys2Proof.Machine.execFamilyWrite v s
  | .pllLock => Sys2Proof.Machine.execPllLock s
  | .oscLocalLock => Sys2Proof.Machine.execOscLocalLock s
  | .rsmpLock j => Sys2Proof.Machine.execRsmpLock j s
  | .snsCfgWrite op v => Sys2Proof.Machine.execSnsCfgWrite op v s
  | .snsEnableWrite op v => Sys2Proof.Machine.execSnsEnableWrite op v s
  | .smclkWrite v => Sys2Proof.Machine.execSmclkWrite v s
  | .senseBoundary op bits => Sys2Proof.Machine.execSenseBoundary op bits s
  | .stuck op recent => Sys2Proof.Machine.execStuck op recent s
  | .stuckClear op recent => Sys2Proof.Machine.execStuckClear op recent s
  | .snsFirWrite set tap v => Sys2Proof.Machine.execSnsFirWrite set tap v s
  | .pdacCodeWrite c v => Sys2Proof.Machine.execPdacCodeWrite c v s
  | .pdacSrcWrite c v => Sys2Proof.Machine.execPdacSrcWrite c v s
  | .pdacAmpWrite c v => Sys2Proof.Machine.execPdacAmpWrite c v s
  | .pdacFtwWrite c v => Sys2Proof.Machine.execPdacFtwWrite c v s
  | .pdacSpanWrite c v => Sys2Proof.Machine.execPdacSpanWrite c v s
  | .pdacSpanClamp c => Sys2Proof.Machine.execPdacSpanClamp c s
  | .pdacSpanRelease c => Sys2Proof.Machine.execPdacSpanRelease c s
  | .deglitchHoldEnd c => Sys2Proof.Machine.execDeglitchHoldEnd c s
  | .pdacEnWrite c v => Sys2Proof.Machine.execPdacEnWrite c v s
  | .supplyLow avddOk avssOk => Sys2Proof.Machine.execSupplyLow avddOk avssOk s
  | .supplyRecover => Sys2Proof.Machine.execSupplyRecover s
  | .sineUpdate u => Sys2Proof.Machine.execSineUpdate u s
  | .syncReq v => Sys2Proof.Machine.execSyncReq v s
  | .portLinkUp x speed1000 anDone remoteFault => Sys2Proof.Machine.execPortLinkUp x speed1000 anDone remoteFault s
  | .portLinkDown x => Sys2Proof.Machine.execPortLinkDown x s
  | .speedTryTimeout x => Sys2Proof.Machine.execSpeedTryTimeout x s
  | .portEnWrite x v => Sys2Proof.Machine.execPortEnWrite x v s
  | .cwEnWrite v => Sys2Proof.Machine.execCwEnWrite v s
  | .mdioGo v => Sys2Proof.Machine.execMdioGo v s
  | .mdioFrameDone rdata => Sys2Proof.Machine.execMdioFrameDone rdata s
  | .sFrame x f cut => Sys2Proof.Machine.execSFrame x f cut s
  | .sFrameSend cut => Sys2Proof.Machine.execSFrameSend cut s
  | .sFrameMissing => Sys2Proof.Machine.execSFrameMissing s
  | .streamInHandoff late => Sys2Proof.Machine.execStreamInHandoff late s
  | .uFrame x f => Sys2Proof.Machine.execUFrame x f s
  | .uFrameSend cut => Sys2Proof.Machine.execUFrameSend cut s
  | .gapFrameSend x room t => Sys2Proof.Machine.execGapFrameSend x room t s
  | .tReq x f => Sys2Proof.Machine.execTReq x f s
  | .tReqSend x t1 => Sys2Proof.Machine.execTReqSend x t1 s
  | .tResp x f => Sys2Proof.Machine.execTResp x f s
  | .calDone x => Sys2Proof.Machine.execCalDone x s
  | .timeLost => Sys2Proof.Machine.execTimeLost s
  | .vFrame x f => Sys2Proof.Machine.execVFrame x f s
  | .pFrame x f => Sys2Proof.Machine.execPFrame x f s
  | .learnAge mac => Sys2Proof.Machine.execLearnAge mac s
  | .discover x f => Sys2Proof.Machine.execDiscover x f s
  | .discoverSend => Sys2Proof.Machine.execDiscoverSend s
  | .headListenTimeout => Sys2Proof.Machine.execHeadListenTimeout s
  | .reenum v => Sys2Proof.Machine.execReenum v s
  | .report x f => Sys2Proof.Machine.execReport x f s
  | .reportTimeout => Sys2Proof.Machine.execReportTimeout s
  | .reportResend => Sys2Proof.Machine.execReportResend s
  | .assignMsg x f => Sys2Proof.Machine.execAssignMsg x f s
  | .grant x f => Sys2Proof.Machine.execGrant x f s
  | .revoke x f => Sys2Proof.Machine.execRevoke x f s
  | .relocate x f => Sys2Proof.Machine.execRelocate x f s
  | .routeMsg x f => Sys2Proof.Machine.execRouteMsg x f s
  | .leave x f => Sys2Proof.Machine.execLeave x f s
  | .addrHoldExpiry addr => Sys2Proof.Machine.execAddrHoldExpiry addr s
  | .offlineTimeout => Sys2Proof.Machine.execOfflineTimeout s
  | .upstreamLost => Sys2Proof.Machine.execUpstreamLost s
  | .tokenAuditSend => Sys2Proof.Machine.execTokenAuditSend s
  | .tokenAudit x f => Sys2Proof.Machine.execTokenAudit x f s
  | .dispute x f => Sys2Proof.Machine.execDispute x f s
  | .crelOnly x f => Sys2Proof.Machine.execCrelOnly x f s
  | .cauditSend => Sys2Proof.Machine.execCauditSend s
  | .cwAuditNow v => Sys2Proof.Machine.execCwAuditNow v s
  | .caudit x f => Sys2Proof.Machine.execCaudit x f s
  | .cresync x f => Sys2Proof.Machine.execCresync x f s
  | .cresyncAck x f => Sys2Proof.Machine.execCresyncAck x f s
  | .cinit x f => Sys2Proof.Machine.execCinit x f s
  | .slotMapCommit q => Sys2Proof.Machine.execSlotMapCommit q s
  | .returnCommit q => Sys2Proof.Machine.execReturnCommit q s
  | .sourceCommit q => Sys2Proof.Machine.execSourceCommit q s
  | .tickEmit m => Sys2Proof.Machine.execTickEmit m s
  | .timeMarkSend => Sys2Proof.Machine.execTimeMarkSend s
  | .rateChangeReq v => Sys2Proof.Machine.execRateChangeReq v s
  | .timeStep v => Sys2Proof.Machine.execTimeStep v s
  | .srcOfsWrite v => Sys2Proof.Machine.execSrcOfsWrite v s
  | .tppsEdge est => Sys2Proof.Machine.execTppsEdge est s
  | .srcLost => Sys2Proof.Machine.execSrcLost s
  | .classRise => Sys2Proof.Machine.execClassRise s
  | .holdoverExpiry => Sys2Proof.Machine.execHoldoverExpiry s
  | .readReq q => Sys2Proof.Machine.execReadReq q s
  | .writeReq q => Sys2Proof.Machine.execWriteReq q s
  | .readBlock q => Sys2Proof.Machine.execReadBlock q s
  | .writeBundle q => Sys2Proof.Machine.execWriteBundle q s
  | .subscribeReq q => Sys2Proof.Machine.execSubscribeReq q s
  | .describeReq q => Sys2Proof.Machine.execDescribeReq q s
  | .notifySend n => Sys2Proof.Machine.execNotifySend n s
  | .subscriptionLapse n => Sys2Proof.Machine.execSubscriptionLapse n s
  | .watchCheck => Sys2Proof.Machine.execWatchCheck s
  | .dupExpiry side rid rseq => Sys2Proof.Machine.execDupExpiry side rid rseq s
  | .weirForwardTimeout rid rseq => Sys2Proof.Machine.execWeirForwardTimeout rid rseq s
  | .sessionChallengeRead q => Sys2Proof.Machine.execSessionChallengeRead q s
  | .openSession q endpoint within => Sys2Proof.Machine.execOpenSession q endpoint within s
  | .openLockoutEnd => Sys2Proof.Machine.execOpenLockoutEnd s
  | .closeSession q => Sys2Proof.Machine.execCloseSession q s
  | .sessionIdle n => Sys2Proof.Machine.execSessionIdle n s
  | .safeCmd q => Sys2Proof.Machine.execSafeCmd q s
  | .resumeCmd q => Sys2Proof.Machine.execResumeCmd q s
  | .saveCmd q => Sys2Proof.Machine.execSaveCmd q s
  | .saveDone => Sys2Proof.Machine.execSaveDone s
  | .defaultsCmd q => Sys2Proof.Machine.execDefaultsCmd q s
  | .bump q => Sys2Proof.Machine.execBump q s
  | .applyProfile q => Sys2Proof.Machine.execApplyProfile q s
  | .profileFetch => Sys2Proof.Machine.execProfileFetch s
  | .profileEvaluate => Sys2Proof.Machine.execProfileEvaluate s
  | .lifecycleAdvance q => Sys2Proof.Machine.execLifecycleAdvance q s
  | .lifecycleChallengeRead q => Sys2Proof.Machine.execLifecycleChallengeRead q s
  | .unlock q => Sys2Proof.Machine.execUnlock q s
  | .testToken side token => Sys2Proof.Machine.execTestToken side token s
  | .testCtrlWrite side v => Sys2Proof.Machine.execTestCtrlWrite side v s
  | .keyAdd q => Sys2Proof.Machine.execKeyAdd q s
  | .keyRevoke q => Sys2Proof.Machine.execKeyRevoke q s
  | .bootSourceAbandon => Sys2Proof.Machine.execBootSourceAbandon s
  | .pullSend => Sys2Proof.Machine.execPullSend s
  | .pull q => Sys2Proof.Machine.execPull q s
  | .stage1Start => Sys2Proof.Machine.execStage1Start s
  | .fieldReadySend => Sys2Proof.Machine.execFieldReadySend s
  | .quote q => Sys2Proof.Machine.execQuote q s
  | .quoteDone => Sys2Proof.Machine.execQuoteDone s
  | .msExtend v => Sys2Proof.Machine.execMsExtend v s
  | .ksDerive v => Sys2Proof.Machine.execKsDerive v s
  | .ksLockWrite v => Sys2Proof.Machine.execKsLockWrite v s
  | .imageOpen q => Sys2Proof.Machine.execImageOpen q s
  | .imageEraseDone => Sys2Proof.Machine.execImageEraseDone s
  | .imageActivate q => Sys2Proof.Machine.execImageActivate q s
  | .imageAbort q => Sys2Proof.Machine.execImageAbort q s
  | .faultLogClear q => Sys2Proof.Machine.execFaultLogClear q s
  | .dmaQueueEnable die n v => Sys2Proof.Machine.execDmaQueueEnable die n v s
  | .dmaQueueDisable die n v => Sys2Proof.Machine.execDmaQueueDisable die n v s
  | .dmaResume die n v => Sys2Proof.Machine.execDmaResume die n v s
  | .dmaAudit die n v => Sys2Proof.Machine.execDmaAudit die n v s
  | .dmaPidxWrite die n v => Sys2Proof.Machine.execDmaPidxWrite die n v s
  | .dmaDescFetch die n => Sys2Proof.Machine.execDmaDescFetch die n s
  | .dmaNop die n => Sys2Proof.Machine.execDmaNop die n s
  | .dmaCopy die n beats => Sys2Proof.Machine.execDmaCopy die n beats s
  | .dmaFill die n beats => Sys2Proof.Machine.execDmaFill die n beats s
  | .dmaSpp n rx => Sys2Proof.Machine.execDmaSpp n rx s
  | .sppEnWrite x v => Sys2Proof.Machine.execSppEnWrite x v s
  | .sppSelectLost x => Sys2Proof.Machine.execSppSelectLost x s
  | .xipRead off => Sys2Proof.Machine.execXipRead off s
  | .xipEnWrite v => Sys2Proof.Machine.execXipEnWrite v s
  | .slaveRegRead a words => Sys2Proof.Machine.execSlaveRegRead a words s
  | .slaveRegWrite a data => Sys2Proof.Machine.execSlaveRegWrite a data s
  | .exchangeRead a words collide late => Sys2Proof.Machine.execExchangeRead a words collide late s
  | .exchangeWrite a data collide full => Sys2Proof.Machine.execExchangeWrite a data collide full s
  | .slaveCsRelease bits => Sys2Proof.Machine.execSlaveCsRelease bits s
  | .responseDrop => Sys2Proof.Machine.execResponseDrop s
  | .marchGo side v => Sys2Proof.Machine.execMarchGo side v s
  | .marchAbort side v => Sys2Proof.Machine.execMarchAbort side v s
  | .marchDone side bank rows => Sys2Proof.Machine.execMarchDone side bank rows s
  | .repairRequest side v => Sys2Proof.Machine.execRepairRequest side v s
  | .repairStart side bank row => Sys2Proof.Machine.execRepairStart side bank row s
  | .repairCopyDone side spareBad => Sys2Proof.Machine.execRepairCopyDone side spareBad s
  | .repairRecordRestore m bad => Sys2Proof.Machine.execRepairRecordRestore m bad s
  | .tempSample side t => Sys2Proof.Machine.execTempSample side t s
  | .registerWrite side off v => Sys2Proof.Machine.execRegisterWrite side off v s
  | .readSnapshot side off => Sys2Proof.Machine.execReadSnapshot side off s
  | .weirReservedType rx top m => Sys2Proof.Machine.execWeirReservedType rx top m s
  | .statusSend => Sys2Proof.Machine.execStatusSend s
  | .oscSlewEnd => Sys2Proof.Machine.execOscSlewEnd s
  | .wckiEdge est => Sys2Proof.Machine.execWckiEdge est s
  | .actionReq q => Sys2Proof.Machine.execActionReq q s
  | .profileStale => Sys2Proof.Machine.execProfileStale s
  | .sppSelectIdle x => Sys2Proof.Machine.execSppSelectIdle x s

end Sys2Proof.Machine
end

