-- ==== Sys2Proof/Machine/Sequencer.lean ====
section
/-! DEFINITION. What the block does of itself while no command waits (log entry 6): the pass sequencer issues the loaded program. -/

namespace Sys2Proof.Machine

/-- The next instruction's word: the one fetched with a REPI in progress (R113), else the one that follows. -/
def nextWord (f : FieldDie) : FieldDie × W64 :=
  match f.eng.repi with
  | some r => (f, r.word)
  | none => nextFetch f.eng f

/-- The command that the clocked parts perform next: the instruction at the sequencer's address while slots remain before the seam, then the
seam, then the wrap of the pass timer (R42, R44, R53); none while no pass runs. -/
def autoCmd (s : State) : Option (State × Instr) :=
  let f := s.dies.field
  if f.com.runs = false ∨ f.mer.running = false then none
  else if engRuns f = false then some (s, .passTimerWrap)
  else if seamSlot f.mer ≤ f.mer.slot then some (s, .seam none)
  else
    let r := nextWord f
    some ({ s with dies := { s.dies with field := r.1 } }, decodeMeridian r.2)

/-- The step on an empty queue. -/
def autoStep (s : State) : Host.Outcome State Fault Refusal :=
  match autoCmd s with
  | some (t, i) => exec i t
  | none => .next s

end Sys2Proof.Machine
end

