-- ==== Sys2Proof/WellFormed.lean ====
section
/-! DEFINITION. Well-formed commands: operands that name something the part has. -/

namespace Sys2Proof

/-- A message has as many words as its operand can count (R16). -/
def wxWf (m : WRx) : Bool := decide (m.payload.length < 4096)

/-- A frame's header is 16 bytes (R248) and its FCS one of the three cases (R249). -/
def cwWf (f : CwRx) : Bool := decide (f.hdr.length = 16) && decide (f.fcs ≤ 2)

/-- A Legend request as it fits a frame sequence (R316). -/
def legWf (q : LegReq) : Bool := decide (q.body.length ≤ 1008)

/-- A bus access of 1, 2 or 4 bytes, aligned, within 32 address bits (R145, R164). -/
def accWf (a : BusAcc) : Bool :=
  (decide (a.size = 1) || decide (a.size = 2) || decide (a.size = 4)) && decide (a.addr % a.size = 0) && decide (a.addr < 2 ^ 32)

/-- An engine command whose fields spell its own row (R87). -/
def engWf (c : Instr) : Bool := (encodeMeridian c).isSome

/-- A register offset of a die (R7): a word of the register space. -/
def regWf (o : Nat) : Bool := decide (o % 4 = 0) && decide (o < 0x30000)

/-- A DMA queue of a die (R377): 48 on the host die, 16 on the field die. -/
def dmaWf (d : Side) (n : Nat) : Bool := decide (n < match d with | .host => 48 | .field => 16)

/-- The commands of the Causeway and of Legend. -/
def netWf (c : Instr) : Bool :=
  match c with
  | .sFrame _ f _ | .uFrame _ f | .tReq _ f | .tResp _ f | .vFrame _ f | .pFrame _ f | .discover _ f | .report _ f | .assignMsg _ f | .grant _ f
  | .revoke _ f | .relocate _ f | .routeMsg _ f | .leave _ f | .tokenAudit _ f | .dispute _ f | .crelOnly _ f | .caudit _ f | .cresync _ f
  | .cresyncAck _ f | .cinit _ f => cwWf f
  | .slotMapCommit q | .returnCommit q | .sourceCommit q | .readReq q | .writeReq q | .readBlock q | .writeBundle q | .subscribeReq q
  | .describeReq q | .sessionChallengeRead q | .openSession q _ _ | .closeSession q | .safeCmd q | .resumeCmd q | .saveCmd q | .defaultsCmd q
  | .bump q | .applyProfile q | .lifecycleAdvance q | .lifecycleChallengeRead q | .unlock q | .keyAdd q | .keyRevoke q | .pull q | .quote q
  | .imageOpen q | .imageActivate q | .imageAbort q | .faultLogClear q | .actionReq q => legWf q
  | .notifySend n | .subscriptionLapse n => decide (n < 32)
  | .sessionIdle n => decide (n < 16)
  | .testToken _ t => decide (t.bytes.length = 224)
  | _ => true

/-- The commands of the converters' side: banks, groups, Silt, ports, sense inputs, pilot DACs. -/
def partWf (c : Instr) : Bool :=
  match c with
  | .fieldBankAccess a | .atomicAddAlias a | .atomicSwapAlias a | .siltWindowAccess a => accWf a
  | .xScrub w => decide (w < 0x20000)
  | .cgDescWrite g _ => decide (g < 256)
  | .siltLineWrite l w _ => decide (l < 1024) && decide (w < 3)
  | .siltTapConfigWrite e _ | .delayLoWrite e _ | .delayHiWrite e _ => decide (e < 2048)
  | .siltPatrol w => decide (w < 2 ^ 27)
  | .sapCfgWrite p _ | .sapEnableWrite p _ => decide (p < 24)
  | .sapBallFrame p l r a b => decide (p < 24) && decide (l.length + r.length ≤ 129) && decide (a ≤ 64) && decide (b ≤ 64)
  | .sapGlitch p _ | .sapClockLost p | .sapClockReturn p | .rateWindow p _ _ => decide (p < 24)
  | .groupFrame g => decide (1 ≤ g) && decide (g ≤ 4)
  | .rsmpLock j => decide (j < 16)
  | .snsCfgWrite i _ | .snsEnableWrite i _ | .stuck i _ | .stuckClear i _ => decide (i < 32)
  | .senseBoundary i bits => decide (i < 32) && decide (bits.length = 64)
  | .snsFirWrite k t _ => decide (k < 8) && decide (t < 32)
  | .pdacCodeWrite c _ | .pdacSrcWrite c _ | .pdacAmpWrite c _ | .pdacFtwWrite c _ | .pdacSpanWrite c _ | .pdacEnWrite c _ => decide (c < 8)
  | .pdacSpanClamp c | .pdacSpanRelease c | .deglitchHoldEnd c => decide (c < 8)
  | .sineUpdate u => decide (u < 16)
  | _ => true

/-- A command is well formed. -/
def Instr.wf (c : Instr) : Bool :=
  match c with
  | .fieldRestart m | .heartbeat _ m | .auditMsg _ m | .resync _ m | .resyncAck _ m | .streamIn _ m | .streamRet _ m | .paramWrite _ m
  | .paramRead _ m | .paramResp _ m | .bundleCommit _ m | .statusMsg _ m | .eventMsg _ m | .timeMark _ m _ | .imageBlock _ m | .imageResult _ m
  | .measureMsg _ m | .repairRecordRestore m _ | .weirReservedType _ _ m => wxWf m
  | .laneFailed _ l => decide (l ≤ 4)
  | .reservedOpcode w => decide (decodeMeridian w = .reservedOpcode w)
  | .dmaQueueEnable d n _ | .dmaQueueDisable d n _ | .dmaResume d n _ | .dmaAudit d n _ | .dmaPidxWrite d n _ => dmaWf d n
  | .dmaDescFetch d n | .dmaNop d n | .dmaCopy d n _ | .dmaFill d n _ => dmaWf d n
  | .dmaSpp n rx => decide (n < 48) && decide (rx.length ≤ 65536)
  | .sppEnWrite x _ | .sppSelectLost x | .sppSelectIdle x => decide (x < 2)
  | .slaveRegRead _ n => decide (n.words ≤ 64)
  | .slaveRegWrite _ d => decide (d.words.length ≤ 64)
  | .exchangeRead _ n _ _ => decide (n ≤ 16384)
  | .exchangeWrite _ d _ _ => decide (d.length ≤ 16384)
  | .marchDone _ b _ => decide (b < 6)
  | .repairStart _ b r => decide (1 ≤ b) && decide (b ≤ 13) && decide (r < 2 ^ 32)
  | .registerWrite d o _ | .readSnapshot d o => if o.viaTest then decide (d = .field) && decide (o.off < 128) else regWf o.off
  | .mpy _ | .mpyxy _ | .mac _ | .msu _ | .macxy _ | .msuxy _ | .macl _ | .mac2 _ | .mac2n _ | .tapOp _ | .tapc _ | .macph _ | .macrz _ | .macry _
  | .extOp _ | .extsOp _ | .accClr _ | .accMov _ | .accAdd _ | .accSub _ | .accNeg _ | .accAbs _ | .accShl _ | .accShr _ | .accLdf _ | .accLdi _
  | .aluAdd _ | .aluSub _ | .aluNeg _ | .aluAbs _ | .aluMin _ | .aluMax _ | .aluCmp _ | .aluMov _ | .aluAvg _ | .logicAnd _ | .logicOr _
  | .logicXor _ | .logicAndn _ | .logicNot _ | .logicTst _ | .shfLsl _ | .shfLsr _ | .shfAsr _ | .shfRor _ | .shfLslReg _ | .shfLsrReg _
  | .shfAsrReg _ | .shfRorReg _ | .normAc _ | .normD _ | .cvtQ131ToQ329 _ | .cvtQ329ToQ131 _ | .cvtF32ToQ131 _ | .cvtQ131ToF32 _ | .clamp _
  | .peak _ | .movr _ | .busOp _ | .smov _ | .sfill _ | .atadd _ | .atswp _ | .ldp _ | .macp _ | .opiMov _ | .opiAdd _ | .opiAnd _ | .opiOr _
  | .opiXor _ | .ldx _ | .ldy _ | .ldz _ | .stx _ | .sty _ | .stz _ | .opim _ | .nopOp _ | .rpt _ | .rptChan _ | .rptSpan _ | .repi _ | .ldctx _
  | .stctx _ | .evt _ | .phaseOp _ | .nopn _ | .userInstruction _ => engWf c
  | c => netWf c && partWf c

end Sys2Proof
end

