-- ==== Sys2Proof/Safety.lean ====
section
/-! DEFINITION. What claims call safe: a step that answers a next state, memories in their canonical form, a die held in reset. -/

namespace Sys2Proof.Machine

/-- A step that stops neither with a fault nor with a refusal. -/
def goesOn (o : Host.Outcome State Fault Refusal) : Prop := ∃ t, o = .next t

/-- The state with another field die. -/
def State.setField (s : State) (f : FieldDie) : State := { s with dies := { s.dies with field := f } }

/-- The state with another host die. -/
def State.setHost (s : State) (h : HostDie) : State := { s with dies := { s.dies with host := h } }

/-- The state with another Weir bridge on one die. -/
def weirSet (d : Side) (w : Weir) (s : State) : State :=
  match d with
  | .host => s.setHost { s.dies.host with com := { s.dies.host.com with weir := w } }
  | .field => s.setField { s.dies.field with com := { s.dies.field.com with weir := w } }

/-- The state `u` that a command leaves behind in `s`, once the host side has judged its class where the field side's part in it has moved (R295, R299). -/
def judged (s u : State) : State := { u with dies := heard s.dies u.dies }

/-- A command answers a next state that has the property. -/
def answers (c : Instr) (s : State) (p : State → Prop) : Prop := ∃ t, exec c s = .next t ∧ p t

/-- The engine may issue, outside every repeat, and no earlier result becomes visible in the next slot: what the next slot shows is the
instruction's own (R42, R44, R99, R106). -/
def engQuiet (f : FieldDie) : Prop :=
  f.com.runs = true ∧ f.mer.running = true ∧ f.mer.seamDone = false ∧ f.mer.slot < seamSlot f.mer ∧ lvlLive f.eng.l0 = false ∧
    lvlLive f.eng.l1 = false ∧ f.eng.repi = none ∧ ∀ x ∈ f.eng.fly, f.mer.slot + 1 < x.due

/-- The frame of instructions that take `n` slots and `n` addresses: they may change the engine registers under `ks`, and change nothing else of
the block. -/
def nSlots (n : Nat) (s t : State) (ks : List Nat) : Prop :=
  let f := s.dies.field
  let g := t.dies.field
  s.setField { f with eng := { f.eng with regs := g.eng.regs, ip := f.eng.ip + n }, mer := { f.mer with slot := f.mer.slot + n } } = t ∧
    ∀ k, k ∉ ks → engReg g.eng k = engReg f.eng k

/-- The frame of one instruction of one slot. -/
def oneSlot (s t : State) (ks : List Nat) : Prop := nSlots 1 s t ks

/-- A NOP. -/
def nop : Instr := .nopOp ⟨0, 0, 0, 0, 0, 0, 0, 0, 0, 0, 0⟩

/-- A command, then two NOPs: the state three slots after it issued has the property. -/
def answers3 (c : Instr) (s : State) (p : State → Prop) : Prop :=
  ∃ t u v, exec c s = .next t ∧ exec nop t = .next u ∧ exec nop u = .next v ∧ p v

/-- FL holds Z, N, V and Q (R76). -/
def flagsAre (e : Eng) (z n v q : Bool) : Prop :=
  (engReg e 0x53).testBit 0 = z ∧ (engReg e 0x53).testBit 1 = n ∧ (engReg e 0x53).testBit 2 = v ∧ (engReg e 0x53).testBit 3 = q

/-- ACC of every operand field is 00b (R89). -/
def noOperands (i : FmtA) : Prop := i.xop.toNat / 128 = 0 ∧ i.yop.toNat / 128 = 0 ∧ i.zop.toNat / 128 = 0

/-- An exact value in `n` bits: clamped where `sat`, else its low bits (R82, R83). -/
def fitted (n : Nat) (sat : Bool) (x : Int) : BitVec n :=
  BitVec.ofInt n (if sat then (if x < -(2 : Int) ^ (n - 1) then -(2 : Int) ^ (n - 1) else if (2 : Int) ^ (n - 1) ≤ x then (2 : Int) ^ (n - 1) - 1 else x) else x)

/-- An exact value does not fit `n` bits. -/
def tooBig (n : Nat) (x : Int) : Bool := decide (x < -(2 : Int) ^ (n - 1)) || decide ((2 : Int) ^ (n - 1) ≤ x)

/-- The registers that an instruction writes: its own, and FL where `on`. -/
def withFl (on : Bool) (k : Nat) : List Nat := if on then [k, 0x53] else [k]

/-- A data operation (R84, R124): D[n] takes the exact value, clamped where `sat`; FL is set from the result where `on`; nothing else changes. -/
def dataResult (s t : State) (on sat : Bool) (n : Nat) (x : Int) : Prop :=
  let v := fitted 32 sat x
  dW t.dies.field.eng n = v ∧
    (on = true → flagsAre t.dies.field.eng (decide (v = 0)) v.msb (tooBig 32 x) (sat && tooBig 32 x)) ∧ oneSlot s t (withFl on n)

/-- An accumulator operation (R82, R84, R123): AC[a] takes the exact value, clamped where `sat`; FL as for a data operation. -/
def accResult (s t : State) (on sat : Bool) (a : Nat) (x : Int) : Prop :=
  let v := fitted 72 sat x
  acI t.dies.field.eng a = v.toInt ∧
    (on = true → flagsAre t.dies.field.eng (decide (v = 0)) v.msb (tooBig 72 x) (sat && tooBig 72 x)) ∧ oneSlot s t (withFl on (0x30 + a))

/-- The offset of pointer `p` after live operands (R93, R102): the first that names it moves it, X before Y before Z. -/
def ptrAfter (e : Eng) (ops : List BusOp) (p : Nat) : Nat :=
  match ops.find? (fun o => decide (o.ptr = p)) with
  | some o => (opNext e o).getD (axN e p)
  | none => axN e p

/-- The frame of an instruction of one slot with bus operands: the results `ws` join those on their way, the registers under `ks` may change, the
pointers of the live operands `ops` move on, and nothing else of the block changes. -/
def busSlot (s t : State) (ws : List Fly) (ks : List Nat) (ops : List BusOp) : Prop :=
  let f := s.dies.field
  let g := t.dies.field
  s.setField { f with eng := { f.eng with regs := g.eng.regs, fly := f.eng.fly ++ ws, ip := f.eng.ip + 1 },
                      mer := { f.mer with slot := f.mer.slot + 1 } } = t ∧
    (∀ k, k ∉ ks → (∀ o ∈ ops, k ≠ 0x10 + o.ptr) → engReg g.eng k = engReg f.eng k) ∧
    ∀ p, p < 8 → axN g.eng p % 2 ^ 17 = ptrAfter f.eng ops p % 2 ^ 17

/-- A result of the instruction that issues now, visible `lat` slots on. -/
def later (f : FieldDie) (lat : Nat) (w : FlyW) : Fly := ⟨f.mer.slot + lat, f.mer.slot, w⟩

/-- A live single read operand of one bus that meets no fault in a quiet engine (R89, R93, R97). -/
def liveRead (bus : Nat) (o : BusOp) : Prop := o.acc = 1 ∧ o.mode ≠ 7 ∧ (bus < 2 → o.special = false)

/-- A live write operand (R89, R93). -/
def liveWrite (bus : Nat) (o : BusOp) : Prop := o.acc = 2 ∧ o.mode ≠ 7 ∧ (bus < 2 → o.special = false)

/-- The word address of a live operand (R93). -/
def opWordAt (e : Eng) (bus : Nat) (o : BusOp) : Nat := opAddr e bus o (opOffset e o)

/-- The word that a live single read operand delivers. -/
def opWord (f : FieldDie) (bus : Nat) (o : BusOp) : W32 := (busRd f bus (opWordAt f.eng bus o)).2

/-- A word of bank Z that a read finds without a Silt window (R138, R167). -/
def noWindow (f : FieldDie) (o : BusOp) : Prop := opWordAt f.eng 2 o < 0x20000 ∨ 0x28000 ≤ opWordAt f.eng 2 o

/-- No codeword of a bank that the engine reads is in error (R403). -/
def cleanField (f : FieldDie) : Prop := f.bk.p0.err = [] ∧ f.bk.p1.err = [] ∧ f.bk.x.err = [] ∧ f.bk.y.err = [] ∧ f.bk.z.err = []

/-- The twelve SRAM banks of both dies. -/
def allBanks (d : Dies) : List Bank :=
  [d.host.h0, d.host.h1, d.host.h2, d.host.h3, d.host.n, d.host.e, d.field.bk.f, d.field.bk.p0, d.field.bk.p1, d.field.bk.x, d.field.bk.y,
   d.field.bk.z]

/-- Every byte memory of the block is in its canonical form: the banks and the Silt store. -/
def Memory.wf (d : Dies) : Bool := (allBanks d).all (fun b => memWf b.mem) && memWf d.field.silt.dram

/-- A message that the side `d` accepts (R19). -/
def accepted (d : Side) (type : Nat) (m : WRx) (ok : Bool) (s : State) : Prop :=
  (comOf d s.dies).runs = true ∧ wEnabled (comOf d s.dies).weir = true ∧ wDrop (comOf d s.dies).weir d type m ok = none

/-- The state once a message of a credited class has been accepted (R19, R24): it is accounted and holds a buffer. -/
def took (d : Side) (k : WClass) (s : State) : State :=
  let w := (comOf d s.dies).weir
  weirSet d { w with acct := w.acct.set k ((w.acct.get k + 1) % 65536), held := w.held.set k (w.held.get k + 1) } s

/-- No answer to the requester is held on the field side, and the store has room (R327, R328). -/
def newAsker (f : FieldDie) (rid : Nat) : Prop := fdupOuts f rid = none ∧ f.dups.length < 64

/-- A bundle of the groups of `mask` for pass `p` is accepted (R150). -/
def bundleFree (f : FieldDie) (mask p : Nat) : Prop :=
  f.cg.pending.length < 8 ∧ mask ≠ 0 ∧ isLate f.mer p = false ∧
    ∀ k ∈ maskGroups mask, cgEn (cgDesc f.cg k) = true ∧ cgPending f.cg k = false ∧ gliding f.cg k = false

/-- Byte `o` of a field bank is a cell of its own: no frame word, no marked word, no coefficient, no window (R58, R71, R148, R167). -/
def plainCell (f : FieldDie) (id : BankId) (o : Nat) : Prop :=
  match id with
  | .f | .p0 | .p1 => True
  | .x => 0x800 ≤ o ∧ xMarked f.bk (o / 4) = false
  | .y => 0x40000 ≤ o
  | .z => o < 0x80000
  | _ => False

/-- Bytes written from byte `o` of a field bank on, where no codeword of it is in error. -/
def cellsPut (f : FieldDie) (id : BankId) (o : Nat) (b : List Byte) : FieldDie :=
  fieldSetBank f id { fieldBank f id with mem := wrBytes (fieldBank f id).mem o b }

/-- A Causeway frame of class `cls` that port `x` of a running host side accepts (R246, R248, R249, R251). -/
def cwGood (h : HostDie) (x cls : Nat) (f : CwRx) : Prop :=
  h.com.runs = true ∧ (cwPort h.cw x).link = true ∧ isPlain h.cw x = false ∧ f.hdr.length = 16 ∧ f.etype.toNat = h.cw.etype ∧ f.etype ≠ 0x8808 ∧
    f.dst.toNat = cwMac ∧ f.full = false ∧ 34 + f.payload.length ≤ 2200 ∧ beAt f.hdr 14 2 = hcrc (f.hdr.take 14) ∧ beAt f.hdr 0 1 / 16 = 1 ∧ hClass f.hdr = cls ∧
    cls < 7 ∧ (cls = 5 ∨ hSys f.hdr = h.cw.sys) ∧ f.fcs = 0 ∧ roleTakes (cwPort h.cw x).role cls = true

/-- The port once an accepted frame of another class than S has been heard: the peer is there, CREL is taken, and a stopped port whose partner has
released everything goes on (R25, R273). -/
def cwHeard (h : HostDie) (x : Nat) (f : CwRx) : HostDie :=
  let p := cwPort h.cw x
  { h with cw := cwSetPort h.cw x { p with peer := true, farRel := hCrel f.hdr, stopped := p.stopped && decide (hCrel f.hdr ≠ p.sent) } }

/-- An accepted link frame of operation `op` whose body is `b`. -/
def cwMsg (h : HostDie) (x cls : Nat) (op : Byte) (b : List Byte) (f : CwRx) : Prop := cwGood h x cls f ∧ cwBody f = op :: b

/-- A V or P frame that is whole in one fragment (R272). -/
def cwWhole (f : CwRx) : Prop := (hFlags f.hdr).testBit 6 = true ∧ (hFlags f.hdr).testBit 5 = true

/-- The host die with another port. -/
def withPort (h : HostDie) (x : Nat) (p : CwPort) : HostDie := { h with cw := cwSetPort h.cw x p }

/-- The ports from `h` to `g` whose queues took the frame `t` at their end are exactly those that `p` names; nothing else of the ports changed. -/
def queuedOn (h g : HostDie) (p : Nat → Bool) (t : CwTx) : Prop :=
  ∀ y, y < 3 → cwPort g.cw y = (if p y then { cwPort h.cw y with txq := (cwPort h.cw y).txq ++ [t] } else cwPort h.cw y)

/-- The downstream ports with a link. -/
def isDown (h : HostDie) (y : Nat) : Bool := (portsIn h.cw 1).contains y

/-- The host side serves Legend requests: stage 1 or firmware runs on its cores. -/
def serving (h : HostDie) : Prop := h.com.runs = true ∧ h.coresRun = true ∧ h.boot.inRom = false

/-- The request is for the node itself, and the gateway, where it came through it, has put in RID and ROLE of its session already (R311). -/
def gated (h : HostDie) (q : LegReq) : Prop := gate h q = (h, q) ∧ q.dest = none

/-- A request that is served afresh (R328, R332). -/
def fresh (h : HostDie) (q : LegReq) : Prop :=
  inFlight h q.rid.toNat q.rseq.toNat = false ∧ dupCase h q.rid.toNat q.rseq.toNat = .serve ∧ (q.epoch = 0 ∨ q.epoch = h.leg.epoch)

/-- The header of a request agrees with a body of `n` bytes (R316, R318). -/
def framed (q : LegReq) (n : Nat) : Prop := q.blen.toNat = n ∧ n ≤ 1008 ∧ q.flags.toNat < 8

/-- A well-formed request of service `svc` whose body is `b`, of a row that carries the whole body. -/
def asksWhole (h : HostDie) (q : LegReq) (b : List Byte) : Prop := fresh h q ∧ q.body = b ∧ framed q b.length ∧ q.group = false

/-- A well-formed ACTION of a row that names its entry: the argument `d` of type `typ` (R317). -/
def asksAct (h : HostDie) (q : LegReq) (typ : Nat) (d : List Byte) : Prop :=
  fresh h q ∧ q.body = bytesBE 1 typ ++ bytesBE 2 d.length ++ d ∧ framed q (6 + d.length) ∧ d.length ≤ 256 ∧ typ < 256

/-- The state in which the answer `a` to `q` has been stored and sent by the host die `g` (R316, R328). -/
def replied (svc : Nat) (q : LegReq) (g : HostDie) (a : Ans) (s t : State) : Prop := t = s.setHost (answer g (askedOf svc q) a)

/-- An OK answer without data but the entry's name. -/
def okAct (idx sub : Nat) (d : List Byte) : Ans := ⟨0, 0, bytesBE 2 idx ++ bytesBE 1 sub ++ [0x0E] ++ bytesBE 2 d.length ++ d, false⟩

/-- The requester is a tool that speaks datagrams with the gateway, so what is sent to it shows in `out` (R309). -/
def localAsker (q : LegReq) : Prop := ∃ ep, q.via = .tool ep ∧ ep ≠ 0

/-- The host die with another Legend server. -/
def withLeg (h : HostDie) (l : Legend) : HostDie := { h with leg := l }

/-- The host die with another boot part. -/
def withBoot (h : HostDie) (b : Boot) : HostDie := { h with boot := b }

/-- The boot part with one more record in the fault log (R375). -/
def logged (h : HostDie) (b : Boot) (code : Nat) (data : List W32) : Boot :=
  { b with log := ⟨b.logSeq + 1, h.dt.time, code, data⟩ :: (if b.log.length < 32768 then b.log else b.log.take 32640), logSeq := (b.logSeq + 1) % 2 ^ 32 }

/-- The host die once its firmware has asked the field side to write an entry (R316, R348). -/
def asked (h : HostDie) (typ idx sub : Nat) (d : List Byte) : HostDie :=
  let n := (h.leg.selfSeq + 1) % 65536
  { withLeg h { h.leg with selfSeq := n } with com := weirQueue h.com (paramWriteMsg false (0xF000 + ownAddr h.cw) n idx sub typ 0 d) }

/-- The host die with other fuses. -/
def withFuses (h : HostDie) (f : Fuses) : HostDie := { h with com := { h.com with fuses := f } }

/-- The boot part once a token has been accepted: its challenge is used, MS5 extended (R344, R361). -/
def tokenTaken (b : Boot) (t : List Byte) : Boot := msToken { b with chal := none } t

/-- The DMA engine of a die. -/
def dmaOf (d : Side) (s : State) : Dma := (comOf d s.dies).dma

/-- The state with another DMA engine on one die. -/
def withDma (d : Side) (e : Dma) (s : State) : State :=
  match d with
  | .host => s.setHost { s.dies.host with com := { s.dies.host.com with dma := e } }
  | .field => s.setField { s.dies.field with com := { s.dies.field.com with dma := e } }

/-- The queues of a die (R377). -/
def queuesOf (d : Side) : Nat :=
  match d with
  | .host => 48
  | .field => 16

/-- The bus of a die delivers the bytes `bs` from address `a` and changes nothing else. -/
def busReads (d : Side) (s : State) (a n : Nat) (bs : List Byte) : Prop :=
  match d with
  | .host => hostBusRd s.dies.host a n = (s.dies.host, .ok bs)
  | .field => fieldBusRd s.dies.field a n = (s.dies.field, .ok bs)

/-- The state after a write on the bus of a die. -/
def busWrote (d : Side) (s : State) (a : Nat) (bs : List Byte) : State :=
  match d with
  | .host => s.setHost (hostBusWr s.dies.host a bs).1
  | .field => s.setField (fieldBusWr s.dies.field a bs).1

/-- The bus of a die takes the write. -/
def busTakes (d : Side) (s : State) (a : Nat) (bs : List Byte) : Bool :=
  match d with
  | .host => (hostBusWr s.dies.host a bs).2
  | .field => (fieldBusWr s.dies.field a bs).2

/-- The state `s` with a DMA engine in which queue `n` has the property and every other queue is as it was. -/
def queueNow (d : Side) (n : Nat) (s t : State) (p : DmaQ → Prop) : Prop :=
  ∃ e, t = withDma d e s ∧ p (dmaQ e n) ∧ ∀ k, k ≠ n → dmaQ e k = dmaQ (dmaOf d s) k

/-- The host die with other serial ports. -/
def withSpp (h : HostDie) (x : SppBlk) : HostDie := { h with spp := x }

/-- The state with another integrity record on one die. -/
def withInteg (d : Side) (i : Integ) (s : State) : State :=
  match d with
  | .host => s.setHost { s.dies.host with com := { s.dies.host.com with integ := i } }
  | .field => s.setField { s.dies.field with com := { s.dies.field.com with integ := i } }

/-- The bank that a BANK field of MEM_CTRL names on a die (R412). -/
def integBank (d : Side) (k : Nat) : Option BankId :=
  match d with
  | .host => hostOps.bankAt k
  | .field => fieldOps.bankAt k

/-- A bank of the block. -/
def bankOf (d : Side) (s : State) (id : BankId) : Bank :=
  match d with
  | .host => hostBank s.dies.host id
  | .field => fieldBank s.dies.field id

/-- The field die is `f`, and holds its reset or has no supply; no command that waits powers it on or releases its reset. -/
def fieldHeld (f : FieldDie) (s : State) : Prop :=
  s.dies.field = f ∧ f.com.runs = false ∧ ∀ c ∈ s.pending, c ≠ .fieldPowerOnResetRelease ∧ ∀ a b d, c ≠ .fieldPowerOn a b d

/-- The same of the host die. -/
def hostHeld (h : HostDie) (s : State) : Prop :=
  s.dies.host = h ∧ h.com.runs = false ∧ ∀ c ∈ s.pending, (∀ a b l, c ≠ .hostPowerOnResetRelease a b l) ∧ ∀ a, c ≠ .hostPowerOn a

end Sys2Proof.Machine
end

