-- ==== Sys2Proof/Certificates/Slice0/Obligations.lean ====
section
/-! DEFINITION. The statements for the provers, family by family. -/

open Sys2Proof Sys2Proof.Machine

/-- A step takes the command at the front of the queue and is what that command does, with the queue's rest (the queue is the model's, log entry 6). -/
def Obligations.StepRunsFrontCommand : Prop :=
  ∀ (c : Instr) (rest : List Instr) (s : State), step { s with pending := c :: rest } = exec c { s with pending := rest }

/-! ### The engine -/

/-- R124: ALU, LOGIC and SHF write D[RA] with their result; CMP and TST write no register and set FL whatever F holds. Codes not listed are
reserved. -/
def Obligations.DataOperations : Prop :=
  (∀ w : W64, (wbits w 54 6 = 0x11 ∧ 8 < wbits w 6 5) ∨ (wbits w 54 6 = 0x12 ∧ 5 < wbits w 6 5) ∨ (wbits w 54 6 = 0x13 ∧ 7 < wbits w 6 5) →
    decodeMeridian w = .reservedOpcode w) ∧
  ∀ (s : State) (i : FmtA), engQuiet s.dies.field → noOperands i → condTrue s.dies.field i.cond = true →
    let f := s.dies.field
    let a := dW f.eng i.ra.toNat
    let b := dW f.eng i.rb.toNat
    let n := i.shift.toNat
    let m := b.toNat % 32
    (∀ p ∈ [(Instr.aluAdd i, a.toInt + b.toInt), (.aluSub i, a.toInt - b.toInt), (.aluNeg i, -b.toInt),
        (.aluAbs i, if b.toInt < 0 then -b.toInt else b.toInt), (.aluMin i, if a.slt b then a.toInt else b.toInt),
        (.aluMax i, if a.slt b then b.toInt else a.toInt), (.aluMov i, b.toInt), (.aluAvg i, (a.toInt + b.toInt + 1) / 2),
        (.logicAnd i, (a &&& b).toInt), (.logicOr i, (a ||| b).toInt), (.logicXor i, (a ^^^ b).toInt), (.logicAndn i, (a &&& ~~~ b).toInt),
        (.logicNot i, (~~~ b).toInt), (.shfLsl i, a.toInt * 2 ^ n), (.shfLsr i, (a >>> n).toInt), (.shfAsr i, a.toInt / 2 ^ n),
        (.shfRor i, (a.rotateRight n).toInt), (.shfLslReg i, a.toInt * 2 ^ m), (.shfLsrReg i, (a >>> m).toInt), (.shfAsrReg i, a.toInt / 2 ^ m),
        (.shfRorReg i, (a.rotateRight m).toInt)],
      answers p.1 s (fun t => dataResult s t (i.f = 1) (i.sat = 1) i.ra.toNat p.2)) ∧
    ∀ p ∈ [(Instr.aluCmp i, a.toInt - b.toInt), (.logicTst i, (a &&& b).toInt)], answers p.1 s (fun t =>
      let v := fitted 32 (i.sat = 1) p.2
      flagsAre t.dies.field.eng (decide (v = 0)) v.msb (tooBig 32 p.2) (decide (i.sat = 1) && tooBig 32 p.2) ∧ oneSlot s t [0x53])

/-- R125: NORM counts the bits below the sign bit that equal it; CVT between the fixed-point formats; CLAMP and PEAK. -/
def Obligations.NormConvertClamp : Prop :=
  ∀ (s : State) (i : FmtA), engQuiet s.dies.field → noOperands i → condTrue s.dies.field i.cond = true →
    let f := s.dies.field
    let a := dW f.eng i.ra.toNat
    let b := dW f.eng i.rb.toNat
    let ac := BitVec.ofInt 72 (acI f.eng i.acd.toNat)
    (∀ n : Nat, n < 72 → (∀ k, k < n → ac.getLsbD (70 - k) = ac.msb) → (n < 71 → ac.getLsbD (70 - n) ≠ ac.msb) →
      answers (.normAc i) s (fun t => dataResult s t (i.f = 1) false i.ra.toNat n)) ∧
    (∀ n : Nat, n < 32 → (∀ k, k < n → b.getLsbD (30 - k) = b.msb) → (n < 31 → b.getLsbD (30 - n) ≠ b.msb) →
      answers (.normD i) s (fun t => dataResult s t (i.f = 1) false i.ra.toNat n)) ∧
    answers (.cvtQ131ToQ329 i) s (fun t => dataResult s t (i.f = 1) false i.ra.toNat ((b.toInt + 2) / 4)) ∧
    answers (.cvtQ329ToQ131 i) s (fun t => dataResult s t (i.f = 1) true i.ra.toNat (b.toInt * 4)) ∧
    (i.sub = 0 → answers (.clamp i) s (fun t =>
      let r := min (max a.toInt (-b.toInt)) b.toInt
      dW t.dies.field.eng i.ra.toNat = BitVec.ofInt 32 r ∧
        (i.f = 1 → flagsAre t.dies.field.eng (decide (r = 0)) (decide (r < 0)) (decide (r ≠ a.toInt)) (decide (r ≠ a.toInt))) ∧
        oneSlot s t (withFl (i.f = 1) i.ra.toNat))) ∧
    (i.sub = 0 → answers (.peak i) s (fun t =>
      dataResult s t (i.f = 1) false i.rb.toNat (max b.toInt (min 2147483647 (if a.toInt < 0 then -a.toInt else a.toInt)))))

/-- R125: the conversions from and to F32. From F32 the value rounds half up and saturates, a NaN gives 0 and sets V; to F32 it rounds half up to 24
significant bits. -/
def Obligations.FloatConversions : Prop :=
  ∀ (s : State) (i : FmtA), engQuiet s.dies.field → noOperands i → condTrue s.dies.field i.cond = true →
    let f := s.dies.field
    let w := (dW f.eng i.rb.toNat).toNat
    let ex := w / 2 ^ 23 % 256
    let frac : Int := if ex = 0 then (w % 2 ^ 23 : Nat) else (w % 2 ^ 23 + 2 ^ 23 : Nat)
    let mant : Int := if w / 2 ^ 31 = 1 then -frac else frac
    let d := (dW f.eng i.rb.toNat).toInt
    let cut := Nat.log2 d.natAbs + 1 - 24
    let rnd := if cut = 0 then d else (d + 2 ^ (cut - 1)) / 2 ^ cut
    (ex < 255 → answers (.cvtF32ToQ131 i) s (fun t =>
      dataResult s t (i.f = 1) true i.ra.toNat ((mant * 2 ^ (max 1 ex + 1) + 2 ^ 119) / 2 ^ 120))) ∧
    (ex = 255 → w % 2 ^ 23 = 0 → answers (.cvtF32ToQ131 i) s (fun t =>
      dW t.dies.field.eng i.ra.toNat = (if w / 2 ^ 31 = 1 then 0x80000000 else 0x7FFFFFFF) ∧
        (i.f = 1 → flagsAre t.dies.field.eng false (decide (w / 2 ^ 31 = 1)) true true) ∧ oneSlot s t (withFl (i.f = 1) i.ra.toNat))) ∧
    (ex = 255 → w % 2 ^ 23 ≠ 0 → answers (.cvtF32ToQ131 i) s (fun t =>
      dW t.dies.field.eng i.ra.toNat = 0 ∧ (i.f = 1 → flagsAre t.dies.field.eng true false true false) ∧
        oneSlot s t (withFl (i.f = 1) i.ra.toNat))) ∧
    answers (.cvtQ131ToF32 i) s (fun t =>
      let r := (dW t.dies.field.eng i.ra.toNat).toNat
      (d = 0 → r = 0) ∧
      (d ≠ 0 → r / 2 ^ 31 = (if d < 0 then 1 else 0) ∧ (r % 2 ^ 23 + 2 ^ 23) * 2 ^ (r / 2 ^ 23 % 256) = rnd.natAbs * 2 ^ (cut + 119)) ∧
        oneSlot s t (withFl (i.f = 1) i.ra.toNat))

/-- R123 and the accumulation from PH of R117: accumulator operations with latency 1. Codes 0Ah to 1Fh of ACC are reserved. -/
def Obligations.AccumulatorOperations : Prop :=
  (∀ w : W64, wbits w 54 6 = 0x10 → 0x0A ≤ wbits w 6 5 → decodeMeridian w = .reservedOpcode w) ∧
  ∀ (s : State) (i : FmtA), engQuiet s.dies.field → noOperands i → condTrue s.dies.field i.cond = true →
    let f := s.dies.field
    let ac := acI f.eng i.acd.toNat
    let src := acI f.eng i.rb.toNat
    let d := (dW f.eng i.ra.toNat).toInt
    let n := i.shift.toNat
    let al (p : Int) : Int := if i.pf = 0 then p * 4 else if i.pf = 2 then p * 16 else p
    let acc0 := if i.sub.toNat % 2 = 1 then 0 else ac
    (∀ p ∈ [(Instr.accClr i, (0 : Int)), (.accMov i, src), (.accAdd i, ac + src), (.accSub i, ac - src), (.accNeg i, -ac),
        (.accAbs i, if ac < 0 then -ac else ac), (.accShl i, ac * 2 ^ n), (.accShr i, ac / 2 ^ n), (.accLdf i, d * 2 ^ 31), (.accLdi i, d)],
      answers p.1 s (fun t => accResult s t (i.f = 1) (i.sat = 1) i.acd.toNat p.2)) ∧
    (i.sub.toNat < 4 → answers (.macph i) s (fun t =>
      accResult s t (i.f = 1) (i.sat = 1) i.acd.toNat
        (if i.sub.toNat < 2 then acc0 + al (phI f.eng i.rb.toNat) else acc0 - al (phI f.eng i.rb.toNat))))

/-- R99, R100, R117: a product into PH and an accumulation are visible three slots after their issue, and nothing else has changed by then. -/
def Obligations.ProductsVisibleAfterThreeSlots : Prop :=
  ∀ (s : State) (i : FmtA), engQuiet s.dies.field → s.dies.field.eng.fly = [] → s.dies.field.mer.slot + 2 < seamSlot s.dies.field.mer →
    noOperands i → i.sub.toNat < 2 → condTrue s.dies.field i.cond = true →
    let f := s.dies.field
    let a := (dW f.eng i.ra.toNat).toInt
    let b := (dW f.eng i.rb.toNat).toInt
    let a1 := (dW f.eng (i.ra.toNat + 1)).toInt
    let b1 := (dW f.eng (i.rb.toNat + 1)).toInt
    let al (p : Int) : Int := if i.pf = 0 then p * 4 else if i.pf = 2 then p * 16 else p
    let acc0 (k : Nat) : Int := if i.sub.toNat % 2 = 1 then 0 else acI f.eng k
    let two (x y : Int) (t : State) : Prop :=
      acI t.dies.field.eng i.acd.toNat = (fitted 72 (i.sat = 1) x).toInt ∧
        acI t.dies.field.eng ((i.acd.toNat + 1) % 8) = (fitted 72 (i.sat = 1) y).toInt
    answers3 (.mpy i) s (fun t =>
      phI t.dies.field.eng i.acd.toNat = a * b ∧
        (i.f = 1 → flagsAre t.dies.field.eng (decide (a * b = 0)) (decide (a * b < 0)) false false) ∧
        nSlots 3 s t (withFl (i.f = 1) (0x48 + i.acd.toNat % 4))) ∧
    (∀ p ∈ [(Instr.mac i, acc0 i.acd.toNat + al (a * b)), (.msu i, acc0 i.acd.toNat - al (a * b)),
        (.mac2 i, acc0 i.acd.toNat + al (a * b) + al (a1 * b1)), (.mac2n i, acc0 i.acd.toNat + al (a * b) - al (a1 * b1))],
      answers3 p.1 s (fun t =>
        let v := fitted 72 (i.sat = 1) p.2
        acI t.dies.field.eng i.acd.toNat = v.toInt ∧
          (i.f = 1 → flagsAre t.dies.field.eng (decide (v = 0)) v.msb (tooBig 72 p.2) (decide (i.sat = 1) && tooBig 72 p.2)) ∧
          nSlots 3 s t (withFl (i.f = 1) (0x30 + i.acd.toNat)))) ∧
    answers3 (.macp i) s (fun t =>
      let x := acc0 i.acd.toNat + al (a * b)
      let y := acc0 ((i.acd.toNat + 1) % 8) + al (a1 * b)
      two x y t ∧
        (i.f = 1 → flagsAre t.dies.field.eng (decide (fitted 72 (i.sat = 1) x = 0)) (fitted 72 (i.sat = 1) x).msb (tooBig 72 x || tooBig 72 y)
          (decide (i.sat = 1) && (tooBig 72 x || tooBig 72 y))) ∧
        nSlots 3 s t (withFl (i.f = 1) (0x30 + i.acd.toNat) ++ [0x30 + (i.acd.toNat + 1) % 8]))

/-- R89, R93, R102, R117, R120: a multiply that takes operands from the buses uses the words read in its issue slot; its pointers move on. -/
def Obligations.MultipliesFromBuses : Prop :=
  ∀ (s : State) (i : FmtA), engQuiet s.dies.field → cleanField s.dies.field → i.sub.toNat < 2 → condTrue s.dies.field i.cond = true →
    let f := s.dies.field
    let ox := busOp i.xop
    let oy := busOp i.yop
    let oz := busOp i.zop
    let x := (opWord f 0 ox).toInt
    let y := (opWord f 1 oy).toInt
    let a := (dW f.eng i.ra.toNat).toInt
    let b := (dW f.eng i.rb.toNat).toInt
    let al (p : Int) : Int := if i.pf = 0 then p * 4 else if i.pf = 2 then p * 16 else p
    let mac (p : Int) : Fly := later f 3 (.mac i.acd.toNat (i.sub.toNat % 2 = 1) p (i.sat = 1) (i.f = 1))
    (liveRead 0 ox → liveRead 1 oy → oz.acc = 0 →
      answers (.mpyxy i) s (fun t =>
        busSlot s t (later f 3 (.reg (0x48 + i.acd.toNat % 4) (2 ^ 64 - 1) (wrapN 64 (x * y))) ::
          (if i.f = 1 then [later f 3 (.reg 0x53 0xF (flagsOf (plainRes (x * y))))] else [])) [] [ox, oy]) ∧
      answers (.macxy i) s (fun t => busSlot s t [mac (al (x * y))] [] [ox, oy]) ∧
      answers (.msuxy i) s (fun t => busSlot s t [mac (-(al (x * y)))] [] [ox, oy]) ∧
      answers (.macl i) s (fun t =>
        busSlot s t [later f 2 (.reg i.ra.toNat (2 ^ 32 - 1) (wrapN 32 x)), later f 2 (.reg i.rb.toNat (2 ^ 32 - 1) (wrapN 32 y)), mac (al (a * b))]
          [] [ox, oy]) ∧
      (let up := opAddr f.eng 0 ox (modAdd f.eng true ox.ptr (opOffset f.eng ox) 1)
       up % 2 ≠ opWordAt f.eng 0 ox % 2 →
        answers (.tapOp i) s (fun t => busSlot s t [mac (al (x * y)), later f 2 (.bank 0 up (opWord f 0 ox))] [] [ox, oy]))) ∧
    (liveRead 1 oy → ox.acc = 0 → oz.acc = 0 → answers (.macry i) s (fun t => busSlot s t [mac (al (a * y))] [] [oy])) ∧
    (liveRead 2 oz → noWindow f oz → ox.acc = 0 → oy.acc = 0 →
      answers (.macrz i) s (fun t => busSlot s t [mac (al (a * (opWord f 2 oz).toInt))] [] [oz])) ∧
    (ox.acc = 3 → ox.mode ≠ 7 → ox.special = false → oy.acc = 3 → oy.mode ≠ 7 → oy.special = false → oz.acc = 0 → i.sub = 0 →
      let x1 := opAddr f.eng 0 ox (modAdd f.eng false ox.ptr (opOffset f.eng ox) 1)
      let y1 := opAddr f.eng 1 oy (modAdd f.eng false oy.ptr (opOffset f.eng oy) 1)
      x1 % 2 ≠ opWordAt f.eng 0 ox % 2 → y1 % 2 ≠ opWordAt f.eng 1 oy % 2 →
        answers (.tapc i) s (fun t =>
          busSlot s t [mac (al (x * y) + al ((busRd f 0 x1).2.toInt * (busRd f 1 y1).2.toInt))] [] [ox, oy]))

/-- R83, R122, R144: EXT extracts an accumulator into D[RA]; EXTS also writes the result on each bus with a write operand, for engine reads from
slot t + 3. -/
def Obligations.Extractions : Prop :=
  ∀ (s : State) (i : FmtA), engQuiet s.dies.field → i.sub.toNat < 2 → i.ofmt ≠ 3 → condTrue s.dies.field i.cond = true →
    let f := s.dies.field
    let v := acI f.eng i.acd.toNat * 2 ^ i.shift.toNat
    let k := if i.ofmt = 0 then 31 else if i.ofmt = 1 then 33 else 0
    let r : Int := if 0 < k then (v + 2 ^ (k - 1)) / 2 ^ k else v
    let ovf := tooBig 32 r || tooBig 72 v
    let w := if ovf ∧ i.sat = 1 then (if r < 0 then 0x80000000 else 0x7FFFFFFF) else BitVec.ofInt 32 r
    let regs (t : State) : Prop :=
      dW t.dies.field.eng i.ra.toNat = w ∧ (i.sub = 1 → acI t.dies.field.eng i.acd.toNat = 0) ∧
        (i.f = 1 → flagsAre t.dies.field.eng (decide (w = 0)) w.msb ovf (decide (i.sat = 1) && ovf))
    let ks := withFl (i.f = 1) i.ra.toNat ++ (if i.sub = 1 then [0x30 + i.acd.toNat] else [])
    (noOperands i → answers (.extOp i) s (fun t => regs t ∧ oneSlot s t ks)) ∧
    ∀ bs : List Nat, bs ⊆ [0, 1, 2] → bs.Nodup → bs.Pairwise (· < ·) →
      (∀ b, b < 3 → if b ∈ bs then liveWrite b (busOp (if b = 0 then i.xop else if b = 1 then i.yop else i.zop))
        else (busOp (if b = 0 then i.xop else if b = 1 then i.yop else i.zop)).acc = 0) →
      let op (b : Nat) : BusOp := busOp (if b = 0 then i.xop else if b = 1 then i.yop else i.zop)
      answers (.extsOp i) s (fun t =>
        regs t ∧ busSlot s t (bs.map (fun b => later f 3 (.bank b (opWordAt f.eng b (op b)) w))) ks (bs.map op))
/-- R78, R79, R84, R90, R99, R101, R126: MOVR copies a register by its code, and the rows of OPI put REG op IMM into REG; each write becomes visible with
the latency of its destination, and changes nothing else. A write to a read-only or reserved code is ignored and sets REG_CODE; a reserved code reads as 0
and sets REG_CODE. MOVR with F 1 sets FL from the value copied, with the same latency, whether or not the copy is made; where FL is its destination too, both are written and WRITE_CLASH
sets. -/
def Obligations.RegisterMoves : Prop :=
  ∀ (s : State), engQuiet s.dies.field →
    let f := s.dies.field
    -- the engine at issue: REG_CODE is recorded where a code is bad
    let base (bad : Bool) : Eng := if bad then (isaFault 4 f).eng else f.eng
    let next (e : Eng) : State := s.setField { f with eng := { e with ip := f.eng.ip + 1 }, mer := { f.mer with slot := f.mer.slot + 1 } }
    let wrote (ws : List (Nat × Nat × Nat)) (e : Eng) : Eng := ws.foldl (fun e w => putReg w.1 w.2.1 w.2.2 e) e
    let coming (ws : List (Nat × Nat × Nat)) (e : Eng) : Eng := { e with fly := e.fly ++ ws.map (fun w => later f 2 (.reg w.1 w.2.1 w.2.2)) }
    let put (bad : Bool) (c : Nat) (v : W32) (more : List (Nat × Nat × Nat)) (t : State) : Prop :=
      ∃ ws, codeTarget f.eng c v.toNat = some ws ∧
        t = next (if codeLat c = 1 then wrote (ws ++ more) (base bad) else coming (ws ++ more) (base bad))
    let flags (v : W32) : List (Nat × Nat × Nat) := [(0x53, 15, b2n (decide (v = 0)) + 2 * b2n v.msb)]
    (∀ i : FmtM, condTrue f i.cond = true → movBits i 30 29 = 0 → movBits i 21 20 = 0 → movBits i 19 18 = 0 → movBits i 10 6 = 0 →
      let a := movBits i 37 31
      let c := movBits i 28 22
      let v := w32 ((codeRead f a).getD 0)
      let bad := (codeRead f a).isNone
      (codeWritable c = true → movBits i 53 53 = 0 → answers (.movr i) s (put bad c v [])) ∧
      (codeWritable c = true → movBits i 53 53 = 1 → c ≠ 0x53 → answers (.movr i) s (put bad c v (flags v))) ∧
      (movBits i 53 53 = 1 → c = 0x53 → answers (.movr i) s (fun t => t = next (wrote (flags v) { (isaFault 5 { f with eng := base bad }).eng with
        regs := (wrote [(0x53, 15, v.toNat)] f.eng).regs }))) ∧
      (codeWritable c = false → movBits i 53 53 = 0 → exec (.movr i) s = .next (next (base true))) ∧
      (codeWritable c = false → movBits i 53 53 = 1 → exec (.movr i) s = .next (next (wrote (flags v) (base true))))) ∧
    (∀ i : FmtB, condTrue f i.cond = true → i.rsv = 0 → codeWritable i.reg.toNat = false →
      ∀ c ∈ [Instr.opiMov i, .opiAdd i, .opiAnd i, .opiOr i, .opiXor i], exec c s = .next (next (base true))) ∧
    ∀ i : FmtB, condTrue f i.cond = true → i.rsv = 0 → codeWritable i.reg.toNat = true →
      let c := i.reg.toNat
      let v := w32 ((codeRead f c).getD 0)
      answers (.opiMov i) s (put false c i.imm []) ∧ answers (.opiAdd i) s (put false c (v + i.imm) []) ∧
        answers (.opiAnd i) s (put false c (v &&& i.imm) []) ∧ answers (.opiOr i) s (put false c (v ||| i.imm) []) ∧
        answers (.opiXor i) s (put false c (v ^^^ i.imm) [])

/-- R99, R117, R131: LDX, LDY and LDZ load a data register, STX, STY and STZ write a bank word, OPIM moves a pointer, each visible two slots on. -/
def Obligations.ImmediateAccesses : Prop :=
  ∀ (s : State) (i : FmtB), engQuiet s.dies.field → cleanField s.dies.field → condTrue s.dies.field i.cond = true →
    i.iop = 0 → i.rsv = 0 → i.imm.toNat < 2 ^ 18 →
    let f := s.dies.field
    let a := i.imm.toNat % 2 ^ 17
    let z := i.imm.toNat
    let c := i.reg.toNat
    let load (v : W32) : Fly := later f 2 (.reg c (2 ^ 32 - 1) v.toNat)
    (c < 16 → answers (.ldx i) s (fun t => busSlot s t [load (busRd f 0 a).2] [] []) ∧
      answers (.ldy i) s (fun t => busSlot s t [load (busRd f 1 a).2] [] []) ∧
      ((z < 0x20000 ∨ 0x28000 ≤ z) → answers (.ldz i) s (fun t => busSlot s t [load (busRd f 2 z).2] [] []))) ∧
    (∀ v, codeRead f c = some v →
      answers (.stx i) s (fun t => busSlot s t [later f 2 (.bank 0 a (w32 v))] [] []) ∧
      answers (.sty i) s (fun t => busSlot s t [later f 2 (.bank 1 a (w32 v))] [] []) ∧
      answers (.stz i) s (fun t => busSlot s t [later f 2 (.bank 2 z (w32 v))] [] [])) ∧
    (0x10 ≤ c → c < 0x18 → i.imm.toNat < 2 ^ 17 →
      answers (.opim i) s (fun t =>
        busSlot s t [later f 2 (.reg c (2 ^ 17 - 1) (wrapN 17 (modAdd f.eng true (c - 0x10) (engReg f.eng c) (sextN 17 i.imm.toNat))))] [] []))

/-- R99, R103, R144: a word that STX writes is what engine reads find from two slots on, and every other byte of bank X keeps its value. -/
def Obligations.StoredWordIsReadBack : Prop :=
  ∀ (s : State) (i : FmtB), engQuiet s.dies.field → s.dies.field.eng.fly = [] → s.dies.field.mer.slot + 1 < seamSlot s.dies.field.mer →
    cleanField s.dies.field → condTrue s.dies.field i.cond = true → i.iop = 0 → i.rsv = 0 → 512 ≤ i.imm.toNat → i.imm.toNat < 2 ^ 17 →
    ∀ v, codeRead s.dies.field i.reg.toNat = some v →
      let f := s.dies.field
      let a := i.imm.toNat
      ∃ t u, exec (.stx i) s = .next t ∧ exec nop t = .next u ∧
        (busRd t.dies.field 0 a).2 = (busRd f 0 a).2 ∧ (busRd u.dies.field 0 a).2 = w32 v ∧
        (∀ b, b < 4 * a ∨ 4 * a + 4 ≤ b → rd8 u.dies.field.bk.x.mem b = rd8 f.bk.x.mem b) ∧
        s.setField { f with eng := { f.eng with ip := f.eng.ip + 2 }, mer := { f.mer with slot := f.mer.slot + 2 }, bk := { f.bk with x := u.dies.field.bk.x, xOk := u.dies.field.bk.xOk } } = u

/-- R127, R128, R129, R130: parallel loads and stores, string moves and fills, atomics and pointer loads, on the operands that they serve. -/
def Obligations.BusMovesAndAtomics : Prop :=
  ∀ (s : State) (i : FmtA), engQuiet s.dies.field → cleanField s.dies.field → condTrue s.dies.field i.cond = true →
    let f := s.dies.field
    let op (b : Nat) : BusOp := busOp (if b = 0 then i.xop else if b = 1 then i.yop else i.zop)
    let d (n : Nat) : W32 := dW f.eng n
    let at' (b : Nat) : Nat := opWordAt f.eng b (op b)
    let own (b : Nat) : Nat := if b = 0 then i.ra.toNat else if b = 1 then i.rb.toNat else 8 + i.acd.toNat
    let ptr (b : Nat) : Nat := if b = 0 then i.ra.toNat % 8 else if b = 1 then i.rb.toNat % 8 else i.acd.toNat
    let ld (r : Nat) (v : W32) : Fly := later f 2 (.reg r (2 ^ 32 - 1) v.toNat)
    ∀ b, b < 3 →
      (i.sub = 0 → (∀ c, c < 3 → c ≠ b → (op c).acc = 0) →
        (liveRead b (op b) → (b = 2 → noWindow f (op b)) →
          answers (.busOp i) s (fun t => busSlot s t [ld (own b) (opWord f b (op b))] [] [op b]) ∧
          answers (.ldp i) s (fun t => busSlot s t [later f 2 (.reg (0x10 + ptr b) (2 ^ 17 - 1) ((opWord f b (op b)).toNat % 2 ^ 17))] [] [op b])) ∧
        (liveWrite b (op b) →
          answers (.busOp i) s (fun t => busSlot s t [later f 2 (.bank b (at' b) (d (own b)))] [] [op b]) ∧
          answers (.sfill i) s (fun t => busSlot s t [later f 2 (.bank b (at' b) (d i.ra.toNat))] [] [op b]))) ∧
      (i.sub.toNat = b → (∀ c, c < 3 → c ≠ b → (op c).acc = 0) → liveRead b (op b) → (b = 2 → noWindow f (op b)) →
        let w := opWord f b (op b)
        answers (.atadd i) s (fun t =>
          busSlot s t [later f 2 (.bank b (at' b) (fitted 32 (i.sat = 1) (w.toInt + (d i.ra.toNat).toInt))), ld i.rb.toNat w] [] [op b]) ∧
        answers (.atswp i) s (fun t => busSlot s t [later f 2 (.bank b (at' b) (d i.ra.toNat)), ld i.rb.toNat w] [] [op b])) ∧
      ∀ c, c < 3 → c ≠ b → i.sub.toNat = b + 4 * c → liveRead b (op b) → liveWrite c (op c) → (op (3 - b - c)).acc = 0 →
        (b = 2 → noWindow f (op b)) →
        answers (.smov i) s (fun t =>
          busSlot s t [later f 4 (.bank c (at' c) (opWord f b (op b)))] [] ([0, 1, 2].filter (fun k => k = b ∨ k = c) |>.map op))

/-- R106 to R109, R111, R113: an RPT takes a level with its body's first and last address and its count, and passes over its body with count 0; a
cached one takes a slot more for each two instructions; REPI latches its count and the instruction
that follows. -/
def Obligations.RepeatsBegin : Prop :=
  ∀ (s : State) (i : FmtC), engQuiet s.dies.field → s.dies.field.eng.fly = [] → condTrue s.dies.field i.cond = true →
    i.csrc = 0 → i.creg = 0 → i.rsv = 0 →
    let f := s.dies.field
    let b := i.blen.toNat + 1
    let n := i.count.toNat
    (i.span = 0 → i.chan = 0 → i.cache = 0 → i.cstep = 0 → i.budget = 0 →
      (0 < n → answers (.rpt i) s (fun t =>
        t = s.setField { f with eng := { f.eng with l0 := { f.eng.l0 with act := true, ghost := false, chan := false, span := false, cached := false, cstep := 0, start := f.eng.ip + 1, stop := f.eng.ip + b, rpc := n, gRpc := 0 }, ip := f.eng.ip + 1 }, mer := { f.mer with slot := f.mer.slot + 1 } })) ∧
      (n = 0 → answers (.rpt i) s (fun t =>
        t = s.setField { f with eng := { f.eng with l0 := level0, ip := f.eng.ip + 1 + b }, mer := { f.mer with slot := f.mer.slot + 1 } }))) ∧
    (i.span = 0 → i.chan = 0 → i.cache = 1 → i.cstep = 0 → i.budget = 0 → 0 < n → b ≤ 16 → cleanField f →
      f.mer.slot + (b + 1) / 2 < seamSlot f.mer → answers (.rpt i) s (fun t =>
        t.dies.field.mer.slot = f.mer.slot + 1 + (b + 1) / 2 ∧ t.dies.field.eng.cacheAt = f.eng.ip + 1 ∧
          t.dies.field.eng.cache = (List.range b).map (fun k => progWord f (f.eng.ip + 1 + k)) ∧ t.dies.field.eng.l0.cached = true ∧
          t.dies.field.eng.l0.rpc = n ∧ t.dies.host = s.dies.host ∧ t.dies.field.bk = f.bk ∧ t.dies.field.eng.regs = f.eng.regs)) ∧
    (i.span = 0 → i.chan = 0 → i.cache = 0 → i.cstep = 0 → i.budget = 0 → i.blen = 0 → 0 < n → cleanField f → isFmtC (progWord f (f.eng.ip + 1)) = false →
      answers (.repi i) s (fun t =>
      t = s.setField { f with eng := { f.eng with repi := some ⟨n, false, f.mer.slot, false, progWord f (f.eng.ip + 1)⟩, ip := f.eng.ip + 1 }, mer := { f.mer with slot := f.mer.slot + 1 } })) ∧
    (i.span = 1 → i.chan = 0 → i.cache = 0 → i.cstep = 0 → b ≤ i.budget.toNat → f.eng.spanAct = false → 0 < n → answers (.rptSpan i) s (fun t =>
      let g := t.dies.field
      g.eng.rpb = i.budget.toNat ∧ g.eng.spanLeft = n ∧ g.eng.spanAct = true ∧ g.eng.l0.act = true ∧ g.eng.l0.rpc = n ∧
        g.eng.l0.start = f.eng.ip + 1 ∧ g.eng.l0.stop = f.eng.ip + b ∧ g.eng.l0.spanK = min (i.budget.toNat / b) n ∧
        g.mer.slot = f.mer.slot + 1 ∧ g.eng.regs = f.eng.regs ∧ g.bk = f.bk ∧ t.dies.host = s.dies.host)) ∧
    (i.span = 0 → i.chan = 1 → i.cache = 0 → i.budget = 0 → 0 < n → f.mer.slot + 6 ≤ seamSlot f.mer → cleanField f →
      answers (.rptChan i) s (fun t =>
        let g := t.dies.field
        let c := engReg f.eng 0x52
        g.eng.l0.act = true ∧ g.eng.l0.chan = true ∧ g.eng.l0.cstep = i.cstep.toNat ∧ g.eng.l0.rpc = n ∧ g.mer.slot = f.mer.slot + 6 ∧
          (∀ k, k < 8 → engReg g.eng (0x28 + k) % 2 ^ 17 = (busRd f 0 ((c + k) % 2 ^ 17)).2.toNat % 2 ^ 17) ∧
          engReg g.eng 0x54 % 16 = (busRd f 0 ((c + 8) % 2 ^ 17)).2.toNat % 16 ∧ g.bk = f.bk ∧ t.dies.host = s.dies.host))

/-- R106: after the instruction at RPE the level ends where its RPC is 1, else RPC falls by 1 and the next instruction issues from RPS. -/
def Obligations.RepeatsRunTheirCount : Prop :=
  ∀ (s : State),
    let f := s.dies.field
    f.com.runs = true → f.mer.running = true → f.mer.seamDone = false → f.mer.slot < seamSlot f.mer → f.eng.fly = [] → f.eng.repi = none →
    lvlLive f.eng.l1 = false → f.eng.l0.act = true → f.eng.l0.ghost = false → f.eng.l0.chan = false → f.eng.l0.span = false →
      (f.eng.l0.stop = f.eng.ip → 1 < f.eng.l0.rpc → answers nop s (fun t =>
        t = s.setField { f with eng := { f.eng with l0 := { f.eng.l0 with rpc := f.eng.l0.rpc - 1 }, ip := f.eng.l0.start }, mer := { f.mer with slot := f.mer.slot + 1 } })) ∧
      (f.eng.l0.stop = f.eng.ip → f.eng.l0.rpc ≤ 1 → answers nop s (fun t =>
        t = s.setField { f with eng := { f.eng with l0 := level0, ip := f.eng.ip + 1 }, mer := { f.mer with slot := f.mer.slot + 1 } })) ∧
      (f.eng.l0.stop ≠ f.eng.ip → answers nop s (fun t =>
        t = s.setField { f with eng := { f.eng with ip := f.eng.ip + 1 }, mer := { f.mer with slot := f.mer.slot + 1 } }))

/-- R63, R110, R131: LDCTX loads BX0 to BX7 and CFR from the nine words at CTX in five slots; STCTX writes them there, for reads one slot later. -/
def Obligations.ContextsLoadAndStore : Prop :=
  ∀ (s : State) (i : FmtC), engQuiet s.dies.field → s.dies.field.eng.fly = [] → s.dies.field.mer.slot + 5 < seamSlot s.dies.field.mer →
    cleanField s.dies.field → condTrue s.dies.field i.cond = true → ctlUnused i false false = [] →
    let f := s.dies.field
    let c := engReg f.eng 0x52
    answers (.ldctx i) s (fun t =>
      let g := t.dies.field
      (∀ k, k < 8 → engReg g.eng (0x28 + k) % 2 ^ 17 = (busRd f 0 ((c + k) % 2 ^ 17)).2.toNat % 2 ^ 17) ∧
        engReg g.eng 0x54 % 16 = (busRd f 0 ((c + 8) % 2 ^ 17)).2.toNat % 16 ∧
        (∀ k, (k < 0x28 ∨ 0x30 ≤ k) → k ≠ 0x54 → engReg g.eng k = engReg f.eng k) ∧
        s.setField { f with eng := { f.eng with regs := g.eng.regs, ip := f.eng.ip + 1 }, mer := { f.mer with slot := f.mer.slot + 5 } } = t) ∧
    (512 ≤ c → c + 9 ≤ 2 ^ 17 → ∃ t u, exec (.stctx i) s = .next t ∧ exec nop t = .next u ∧
      (∀ k, k < 8 → (busRd u.dies.field 0 (c + k)).2 = w32 (engReg f.eng (0x28 + k))) ∧ (busRd u.dies.field 0 (c + 8)).2 = w32 (engReg f.eng 0x54) ∧
      (∀ b, b < 4 * c ∨ 4 * c + 36 ≤ b → rd8 u.dies.field.bk.x.mem b = rd8 f.bk.x.mem b) ∧
      s.setField { f with eng := { f.eng with ip := f.eng.ip + 2 }, mer := { f.mer with slot := f.mer.slot + 6 }, bk := { f.bk with x := u.dies.field.bk.x, xOk := u.dies.field.bk.xOk } } = u)

/-- R87, R117, R131, R132: NOP and NOPN change nothing in their slots, EVT posts an entry of the event queue, PHASE writes PMASK and PMATCH, a reserved
encoding sets RESERVED_OP and does nothing. -/
def Obligations.ControlRows : Prop :=
  ∀ (s : State), engQuiet s.dies.field →
    let f := s.dies.field
    let after (e : Eng) (n : Nat) : State := s.setField { f with eng := { e with ip := f.eng.ip + 1 }, mer := { f.mer with slot := f.mer.slot + n } }
    (∀ i : FmtC, condTrue f i.cond = true → ctlUnused i false false = [] → exec (.nopOp i) s = .next (after f.eng 1)) ∧
    (∀ i : FmtC, condTrue f i.cond = true → ctlUnused i true false = [] →
      (f.eng.fly = [] → f.mer.slot + max 1 i.count.toNat ≤ seamSlot f.mer → exec (.nopn i) s = .next (after f.eng (max 1 i.count.toNat))) ∧
      (f.eng.evtQ.length < 16 → bit f.silt.cap.ctl 3 = false →
        exec (.evt i) s = .next (after { f.eng with evtQ := f.eng.evtQ ++ [(i.count.toNat, f.mer.pcnt % 2 ^ 14)] } 1)) ∧
      (16 ≤ f.eng.evtQ.length → bit f.silt.cap.ctl 3 = false → exec (.evt i) s = .next (after { f.eng with evtOvf := true } 1))) ∧
    (∀ i : FmtC, condTrue f i.cond = true → ctlUnused i true true = [] → answers (.phaseOp i) s (fun t =>
      engReg t.dies.field.eng 0x68 % 2 ^ 64 = i.budget.toNat ∧ engReg t.dies.field.eng 0x6A % 2 ^ 64 = i.count.toNat % 2 ^ 12 &&& i.budget.toNat ∧
        oneSlot s t [0x68, 0x6A])) ∧
    ∀ w : W64, exec (.reservedOpcode w) s = .next (after (isaFault 0 f).eng 1)

/-- R133 to R136: a user instruction of one control word whose ALU adds two data registers takes one slot and leaves the sum, rounded by EXS, in the
register that the control word names. -/
def Obligations.UserInstructionAdds : Prop :=
  ∀ (s : State) (i : FmtU), engQuiet s.dies.field → condTrue s.dies.field i.cond = true → ulenOf s.dies.field.eng.ulenAct i.user.toNat = 1 →
    let f := s.dies.field
    let w := ctlWord f.eng.dtAct i.user.toNat 0
    ctlOk w = true → nfld w 1 0 = 0 → nfld w 8 7 = 0 → nfld w 15 14 = 0 → nfld w 23 21 = 0 → nfld w 38 36 = 0 →
    nfld w 56 53 = 1 → nfld w 61 57 = 1 → nfld w 66 62 = 3 → nfld w 71 67 = 5 →
      let exs := nfld w 79 78
      let x := (dW f.eng i.ra.toNat).toInt + (dW f.eng i.rb.toNat).toInt
      answers (.userInstruction i) s (fun t =>
        dataResult s t (w.testBit 81) (w.testBit 80) (i.uimm.toNat / 2 ^ 10) (if exs = 0 then x else (x + 2 ^ (exs - 1)) / 2 ^ exs))

/-- R86: an instruction with a false condition takes its slots and changes nothing else. -/
def Obligations.FalseConditionChangesNothing : Prop :=
  ∀ (s : State), engQuiet s.dies.field →
    let f := s.dies.field
    let after : State := s.setField { f with eng := { f.eng with ip := f.eng.ip + 1 }, mer := { f.mer with slot := f.mer.slot + 1 } }
    (∀ i : FmtA, condTrue f i.cond = false → noOperands i → i.sub = 0 →
      ∀ c ∈ [Instr.mpy i, .mpyxy i, .mac i, .msu i, .macxy i, .msuxy i, .macl i, .mac2 i, .mac2n i, .tapOp i, .tapc i, .macph i, .macrz i, .macry i,
          .macp i, .accClr i, .accMov i, .accAdd i, .accSub i, .accNeg i, .accAbs i, .accShl i, .accShr i, .accLdf i, .accLdi i, .aluAdd i, .aluSub i,
          .aluNeg i, .aluAbs i, .aluMin i, .aluMax i, .aluCmp i, .aluMov i, .aluAvg i, .logicAnd i, .logicOr i, .logicXor i, .logicAndn i, .logicNot i,
          .logicTst i, .shfLsl i, .shfLsr i, .shfAsr i, .shfRor i, .shfLslReg i, .shfLsrReg i, .shfAsrReg i, .shfRorReg i, .normAc i, .normD i,
          .cvtQ131ToQ329 i, .cvtQ329ToQ131 i, .cvtF32ToQ131 i, .cvtQ131ToF32 i, .clamp i, .peak i, .busOp i, .sfill i, .atadd i, .atswp i, .ldp i],
        exec c s = .next after) ∧
    (∀ i : FmtB, condTrue f i.cond = false → i.iop = 0 → i.rsv = 0 → i.reg.toNat < 16 → i.imm.toNat < 2 ^ 17 →
      ∀ c ∈ [Instr.opiMov i, .opiAdd i, .opiAnd i, .opiOr i, .opiXor i, .ldx i, .ldy i, .ldz i, .stx i, .sty i, .stz i], exec c s = .next after) ∧
    ∀ i : FmtC, condTrue f i.cond = false → ctlUnused i false false = [] → ∀ c ∈ [Instr.nopOp i, .evt i, .phaseOp i], exec c s = .next after

/-- R44, R89, R118: an operand with a non-zero ACC that an opcode does not use sets RESERVED_OP and changes nothing else of what the instruction does; an
instruction that falls at or beyond the first slot of the seam is not issued, and only counts as an overrun. -/
def Obligations.UnusedOperandsAndOverruns : Prop :=
  ∀ (s : State),
    (∀ i : FmtA, engQuiet s.dies.field → ¬ noOperands i →
      let j : FmtA := { i with xop := 0, yop := 0, zop := 0 }
      let s' := s.setField (isaFault 0 s.dies.field)
      ∀ p ∈ [(Instr.accAdd i, Instr.accAdd j), (.accLdf i, .accLdf j), (.aluAdd i, .aluAdd j), (.aluCmp i, .aluCmp j), (.logicAnd i, .logicAnd j),
          (.shfLsl i, .shfLsl j), (.normD i, .normD j), (.cvtQ131ToF32 i, .cvtQ131ToF32 j)], exec p.1 s = exec p.2 s') ∧
    (s.dies.field.com.runs = true → s.dies.field.mer.running = true → s.dies.field.mer.seamDone = false →
      seamSlot s.dies.field.mer ≤ s.dies.field.mer.slot → ∀ w : W64,
        exec (decodeMeridian w) s = .next (s.setField { s.dies.field with mer := { s.dies.field.mer with overran := true } }))

/-- R132, R137: EVT appends COUNT and the low bits of PCNT to the event queue, drops the entry and sets OVF where 16 wait, and posts nothing with a
false condition; a read of MER_EVT removes the oldest entry and clears OVF. COPY of MER_UCTL makes the shadow table active while passes are stopped
and is refused while they run. -/
def Obligations.EventQueueAndDecodeTable : Prop :=
  ∀ (s : State), s.dies.field.com.runs = true →
    let f := s.dies.field
    (∀ i : FmtC, engQuiet f → ctlUnused i true false = [] → answers (.evt i) s (fun t =>
      let posts := condTrue f i.cond = true
      let room := f.eng.evtQ.length < 16
      t.dies.field.eng.evtQ = (if posts ∧ room then f.eng.evtQ ++ [(i.count.toNat, f.mer.pcnt % 2 ^ 14)] else f.eng.evtQ) ∧
        t.dies.field.eng.evtOvf = (f.eng.evtOvf || decide (posts ∧ ¬room)))) ∧
    (∀ code pass rest, f.eng.evtQ = (code, pass) :: rest → answers .merEvtRead s (fun t =>
      t = s.setField (setRead { f with eng := { f.eng with evtQ := rest, evtOvf := false } } t.dies.field.com.lastRead) ∧
        fld t.dies.field.com.lastRead 15 0 = code % 2 ^ 16 ∧ fld t.dies.field.com.lastRead 29 16 = pass % 2 ^ 14 ∧
        bit t.dies.field.com.lastRead 30 = f.eng.evtOvf ∧ bit t.dies.field.com.lastRead 31 = true)) ∧
    ∀ v : W32, bit v 1 = true → bit v 0 = false → bit v 2 = false → bit v 3 = false →
      (f.mer.running = false → answers (.uctlCopy v) s (fun t =>
        t = s.setField { f with eng := { f.eng with dtAct := f.eng.dtSh, ulenAct := f.eng.ulenSh, uApplied := true, uArm := false } })) ∧
      (f.mer.running = true → answers (.uctlCopy v) s (fun t =>
        t = s.setField { f with eng := { f.eng with uRefused := true, uArm := false } }))

/-- R87 to R92, R117, R123 to R126: the word of a well-formed engine command spells that command again, whatever its operands; and every program word that is
not a reserved encoding is the word of the command it spells. -/
def Obligations.EngineWordsRoundTrip : Prop :=
  (∀ (c : Instr) (w : W64), encodeMeridian c = some w → decodeMeridian w = c) ∧
    ∀ w : W64, encodeMeridian (decodeMeridian w) = some w ∨ decodeMeridian w = .reservedOpcode w

/-! ### Power and resets -/

/-- R431, R432, R434, R435: supplies that rise hold the side in its power-on reset; the release starts it from its reset values, the cause POR; a reset
ball held low puts a running side back into reset. The other side keeps its state, but the host side judges its class anew (R295, log entry 61). -/
def Obligations.PowerAndReleaseOfEachSide : Prop :=
  ∀ (s : State),
    let h := s.dies.host
    let f := s.dies.field
    (∀ io, answers (.hostPowerOn io) s (fun t =>
      t = s.setHost t.dies.host ∧ t.dies.host.com.supply = true ∧ t.dies.host.com.por = true ∧ t.dies.host.com.runs = false ∧
        bit t.dies.host.com.pwrStat 0 = io ∧ t.dies.host.com.fuses = h.com.fuses)) ∧
    (∀ head boot bad, h.com.supply = true → h.com.por = true → lcOf h.com.fuses < 4 → h.com.fuses.wiped = false → h.boot.repairs = [] →
      answers (.hostPowerOnResetRelease head boot bad) s (fun t =>
      let g := t.dies.host
      t = s.setHost g ∧ g.com.runs = true ∧ g.com.rstCause = 1 ∧ g.com.weir = weir0 ∧ g.com.dma = dma0 ∧ g.com.integ = { integ0 with badSpares := bad, march := marchBoot h.com.fuses } ∧ g.dt = datum0 ∧
        g.cw = cw0 head ∧ [g.h0, g.h1, g.h2, g.h3, g.n, g.e] = List.replicate 6 bank0 ∧ g.boot.straps = boot.toNat ∧
        g.com.fuses = h.com.fuses ∧ g.boot.flash = h.boot.flash ∧ g.boot.log = h.boot.log)) ∧
    (∀ io av as, answers (.fieldPowerOn io av as) s (fun t =>
      let g := t.dies.field
      t = judged s (s.setField g) ∧ g.com.runs = false ∧ g.com.supply = true ∧ g.com.por = true ∧ bit g.com.pwrStat 0 = io ∧ bit g.com.pwrStat 1 = av ∧
        bit g.com.pwrStat 2 = as ∧ g.silt = silt0 ∧ g.bk = banks0)) ∧
    (f.com.supply = true → f.com.por = true → answers .fieldPowerOnResetRelease s (fun t =>
      let g := t.dies.field
      t = judged s (s.setField g) ∧ g.com.integ.march = marchBoot f.com.fuses ∧ g.com.runs = true ∧ g.com.rstCause = 1 ∧ g.com.weir = weir0 ∧ g.com.dma = dma0 ∧ g.mer = mer0 ∧ g.io = ioFrames0 ∧
        g.bk = banks0 ∧ g.cg = cg0 ∧ g.eng = eng0 ∧ g.silt = silt0 ∧ g.aud = audio0 ∧ g.sns = sense0 ∧ g.fb = fieldBoot0 ∧
        g.com.fuses = f.com.fuses)) ∧
    (h.com.runs = true → answers (.resetBallLow .host) s (fun t =>
      t = s.setHost t.dies.host ∧ t.dies.host.com.runs = false ∧ t.dies.host.com.por = true ∧ t.dies.host.com.fuses = h.com.fuses)) ∧
    (f.com.runs = true → answers (.resetBallLow .field) s (fun t =>
      t = judged s (s.setField t.dies.field) ∧ t.dies.field.com.runs = false ∧ t.dies.field.com.por = true ∧ t.dies.field.com.fuses = f.com.fuses))

/-- R32, R33, R277: a keyed write resets what the reset lists; a write without the key changes nothing. The core reset keeps the banks, the switch (where
Causeway is not the ROM's first source), the timebase and the Weir; the switch reset clears bank N and takes the node OFFLINE; the controller reset keeps passes, engine and converters. -/
def Obligations.KeyedResets : Prop :=
  ∀ (s : State) (v : W32),
    let h := s.dies.host
    let f := s.dies.field
    (h.com.runs = true → fld v 31 16 = 0xA5C3 → bit v 0 = true → bit v 1 = false → (∀ n, (dmaQ h.com.dma n).en = false ∧ (dmaQ h.com.dma n).pidx = (dmaQ h.com.dma n).didx) →
      lcHost h < 4 → h.com.fuses.wiped = false → h.boot.repairs = [] → answers (.coreRst v false) s (fun t =>
      let g := t.dies.host
      t = s.setHost g ∧ bit g.com.rstCause 1 = true ∧ g.boot.inRom = true ∧ g.boot.handles = [] ∧
        g.h0 = h.h0 ∧ g.h1 = h.h1 ∧ g.h2 = h.h2 ∧ g.h3 = h.h3 ∧ g.n = h.n ∧ g.e = h.e ∧ ((sourceOrder h).head? ≠ some 2 → g.cw = h.cw) ∧ g.dt = h.dt ∧ g.com.weir = h.com.weir ∧
        g.com.fuses = h.com.fuses)) ∧
    (h.com.runs = true → fld v 31 16 = 0xA5C3 → bit v 0 = false → bit v 1 = true → answers (.switchRst v) s (fun t =>
      let g := t.dies.host
      t = s.setHost g ∧ bit g.com.rstCause 2 = true ∧ g.n.mem = [] ∧ g.cw.state = 0 ∧ g.cw.tokens = [] ∧ g.cw.route = [] ∧
        g.h0 = h.h0 ∧ g.h1 = h.h1 ∧ g.h2 = h.h2 ∧ g.h3 = h.h3 ∧ g.e = h.e ∧ g.com.weir = h.com.weir ∧ g.com.dma = h.com.dma ∧ g.dt.time = h.dt.time)) ∧
    (h.com.runs = true → fld v 31 16 ≠ 0xA5C3 → exec (.coreRst v false) s = .next s ∧ exec (.switchRst v) s = .next s) ∧
    (f.com.runs = true → fld v 31 16 = 0xA5C3 → bit v 0 = true → (∀ n, (dmaQ f.com.dma n).en = false ∧ (dmaQ f.com.dma n).pidx = (dmaQ f.com.dma n).didx) → lcFieldIn f ≠ 4 → answers (.ctrlRst v false) s (fun t =>
      let g := t.dies.field
      t = s.setField { f with com := g.com, fb := g.fb, bk := g.bk } ∧ bit g.com.rstCause 1 = true ∧ g.fb.inRom = true ∧
        g.com.weir = f.com.weir ∧ g.com.fuses = f.com.fuses ∧ g.bk = f.bk)) ∧
    (f.com.runs = true → fld v 31 16 ≠ 0xA5C3 → exec (.ctrlRst v false) s = .next s ∧ exec (.engineRst v) s = .next s)

/-- R35: an engine reset requested while a pass runs waits for the end of its seam; applied, it clears the engine's registers and the frame buffers and
stops passes, and keeps the banks, PCNT, the pass timer, a pending swap and MER_CTRL; the release lets passes start again. -/
def Obligations.EngineReset : Prop :=
  ∀ (s : State), s.dies.field.com.runs = true →
    let f := s.dies.field
    let cleared (t : State) : Prop :=
      let g := t.dies.field
      t = judged s (s.setField g) ∧ g.erHeld = true ∧ g.erReq = false ∧ g.mer.running = false ∧ g.eng = engClear f.eng ∧ g.io.inFront = [] ∧ g.io.outFront = [] ∧
        g.io.outPres = [] ∧ g.io.frames = [] ∧ g.bk.p0 = f.bk.p0 ∧ g.bk.p1 = f.bk.p1 ∧ g.bk.x = f.bk.x ∧ g.bk.y = f.bk.y ∧ g.bk.z = f.bk.z ∧ g.mer.pcnt = f.mer.pcnt ∧
        g.mer.slot = f.mer.slot ∧ g.mer.swap = f.mer.swap ∧ g.mer.ctrl = f.mer.ctrl ∧ g.cg.pending = f.cg.pending
    (∀ v : W32, fld v 31 16 = 0xA5C3 → bit v 1 = true →
      (f.mer.running = true → answers (.engineRst v) s (fun t =>
        t = s.setField { f with com := { f.com with rstCause := setBit f.com.rstCause 2 true }, erReq := true })) ∧
      (f.mer.running = false → answers (.engineRst v) s cleared)) ∧
    (f.erReq = true → f.mer.seamDone = true → answers .engineResetApply s cleared) ∧
    (f.erHeld = true → answers .engineResetRelease s (fun t =>
      let g := t.dies.field
      t = judged s (s.setField { f with erHeld := false, mer := g.mer, aud := g.aud }) ∧ g.mer.numConflict = false ∧ g.mer.pcnt = f.mer.pcnt ∧
        g.mer.running = f.mer.running ∧ (bit f.mer.ctrl 0 = false → g.mer.pend = f.mer.pend) ∧
        (bit f.mer.ctrl 0 = true → fld f.mer.ctrl 2 1 ≠ 0 → g.mer.pend = .local) ∧
        (bit f.mer.ctrl 0 = true → fld f.mer.ctrl 2 1 = 0 → markHeld f.mer = true → g.mer.pend = .chain true false) ∧
        (bit f.mer.ctrl 0 = true → fld f.mer.ctrl 2 1 = 0 → markHeld f.mer = false → g.mer.pend = .chain false true)))

/-! ### The Weir -/

/-- R13, R20, R21, R23, R24, R29, R41: bring-up sets every count to its initial value and trains both ends, the link up grants full credits; a message
takes the next number of its class and a credit as it starts, a freed buffer counts as RELEASED, HEARTBEATs and AUDITs carry the counts, and a side that is
disabled or finds the far side absent returns its queue ABORTED. -/
def Obligations.WeirSends : Prop :=
  ∀ (s : State) (d : Side), (comOf d s.dies).runs = true →
    let w := (comOf d s.dies).weir
    (bothReady s.dies = true → answers .weirBringUp s (fun t => ∀ e,
      let u := (comOf e t.dies).weir
      u.bringUp = true ∧ u.linkUp = false ∧ u.failed = false ∧ u.sent = .zero ∧ u.acct = .zero ∧ u.rel = .zero ∧ u.held = .zero ∧ u.farRel = .zero ∧
        u.tickCal = decide (e = .field) ∧ u.ctrl = (comOf e s.dies).weir.ctrl ∧ u.cnt = (comOf e s.dies).weir.cnt ∧
        t = weirSet .host (comOf .host t.dies).weir (weirSet .field (comOf .field t.dies).weir s))) ∧
    (bothReady s.dies = true → s.dies.host.com.weir.bringUp = true → s.dies.field.com.weir.bringUp = true → answers .weirLinkUp s (fun t => (∀ e,
      let u := (comOf e t.dies).weir
      u.linkUp = true ∧ u.bringUp = false ∧ u.farPresent = !(comOf e s.dies).weir.failed ∧ u.sent = (comOf e s.dies).weir.sent ∧
        (∀ k, (comOf e s.dies).weir.sent.get k = 0 → (comOf e s.dies).weir.farRel.get k = 0 → wFree u k = wBuffers k)) ∧
        t.dies.field.lcHost = max s.dies.field.lcHost (lcOf s.dies.host.com.fuses))) ∧
    (∀ m, wEnabled w = true → w.linkUp = true → wNext w = some m → answers (.weirMessageSent d) s (fun t =>
      let u := (comOf d t.dies).weir
      t = weirSet d u s ∧ u.queue = wTake w.queue m ∧ (∀ k, wClassOf m.type = some k →
        u.out = { m with seq := w.seq.get k } :: w.out ∧ u.sent.get k = (w.sent.get k + 1) % 65536 ∧ u.seq.get k = (w.seq.get k + 1) % 256) ∧
        (wClassOf m.type = none → u.out = { m with seq := w.seqNone } :: w.out ∧ u.sent = w.sent))) ∧
    (∀ k, 0 < w.held.get k → answers (.bufferRelease d k) s (fun t =>
      t = weirSet d { w with held := w.held.set k (w.held.get k - 1), rel := w.rel.set k ((w.rel.get k + 1) % 65536) } s)) ∧
    (wEnabled w = true → w.linkUp = true → w.bringUp = false → answers (.heartbeatSend d) s (fun t =>
      ∃ m, t = weirSet d { w with out := m :: w.out, seqNone := (w.seqNone + 1) % 256, laneReports := w.laneReports.drop 1, line := wFrame (wLanes w.txLaneOk w.txSpareFor) m } s ∧ m.type = 13 ∧
        m.payload.take 2 = countWords w.rel ∧ fld (m.payload.getD 2 0) 3 1 = w.laneReports.headD 0 % 8)) ∧
    (wEnabled w = true → w.linkUp = true → answers (.auditSend d) s (fun t =>
      let m : WMsg := ⟨12, w.seqNone, 0, 0 :: countWords w.sent⟩
      t = weirSet d { w with out := m :: w.out, line := wFrame (wLanes w.txLaneOk w.txSpareFor) m, seqNone := (w.seqNone + 1) % 256 } s)) ∧
    (∀ v : W32, bit v 0 = true → bit v 2 = true → w.linkUp = true → fld v 11 8 = fld w.ctrl 11 8 → 4 ≤ fld v 11 8 → fld v 11 8 ≤ 12 →
      answers (.auditNow d v) s (fun t =>
        t = weirSet d { w with ctrl := v &&& 0xF03, queue := w.queue ++ [⟨12, 0, 0, 0 :: countWords w.sent⟩] } s)) ∧
    (∀ v : W32, bit v 0 = false → bit v 2 = false → answers (.weirEnableWrite d v) s (fun t =>
      let u := (comOf d t.dies).weir
      t = weirSet d { w with ctrl := u.ctrl, queue := [], aborted := w.queue.reverse ++ w.aborted, linkUp := false, bringUp := false } s ∧
        wEnabled u = false)) ∧
    answers (.farSideAbsent d) s (fun t =>
      t = judged s (weirSet d { w with farPresent := false, queue := [], aborted := w.queue.reverse ++ w.aborted } s)) ∧
    (∀ k, k ∈ w.stopped → k ∉ w.acked → answers (.resyncAckSend d k) s (fun t =>
      let u := (comOf d t.dies).weir
      t = weirSet d { w with out := u.out, line := u.line, seqNone := (w.seqNone + 1) % 256, acked := w.acked ++ [k] } s ∧
        ∃ m, u.out = m :: w.out ∧ m.type = 12 ∧ m.payload = w32 (2 + 16 * wClassNo k) :: countWords w.sent))

/-- R13, R19, R23 to R27, R420: an accepted HEARTBEAT gives the credits back that RELEASED names, an AUDIT returns the credits of lost messages, a RESYNC
stops its class and a RESYNC_ACK sets both counts to SENT; a failed lane leaves the lanes in use, is reported, and the spare takes its bytes. A message
with a code violation, a wrong CRC or an unknown type is dropped and counted. -/
def Obligations.WeirReceives : Prop :=
  ∀ (s : State) (d : Side), (comOf d s.dies).runs = true → wEnabled (comOf d s.dies).weir = true →
    let w := (comOf d s.dies).weir
    (∀ m, wDrop w d 13 m true = none → fld (wAt m.payload 2) 3 1 = 0 → w.acked = [] → answers (.heartbeat d m) s (fun t =>
      t = judged s (weirSet d { w with farPresent := !w.failed, farRel := countsOf (wAt m.payload 0) (wAt m.payload 1) } s))) ∧
    (∀ m k, wDrop w d 12 m true = none → fld (wAt m.payload 0) 1 0 = 0 → w.syncing = [] →
      let n := (countsOf (wAt m.payload 1) (wAt m.payload 2)).get k
      let lost := (n + 65536 - w.acct.get k) % 65536
      (∀ j, j ≠ k → ((countsOf (wAt m.payload 1) (wAt m.payload 2)).get j + 65536 - w.acct.get j) % 65536 = 0) → 0 < lost → lost < 32768 →
      answers (.auditMsg d m) s (fun t =>
        t = weirSet d { w with acct := w.acct.set k n, rel := w.rel.set k ((w.rel.get k + lost) % 65536), cnt := ctrAdd w.cnt 4 lost } s)) ∧
    (∀ m, wDrop w d 12 m true = none → fld (wAt m.payload 0) 1 0 = 1 → wClassAt (fld (wAt m.payload 0) 5 4) ∉ w.stopped → answers (.resync d m) s (fun t =>
      t = weirSet d { w with stopped := w.stopped ++ [wClassAt (fld (wAt m.payload 0) 5 4)], cnt := ctrAdd w.cnt 5 1 } s)) ∧
    (∀ m k, wDrop w d 12 m true = none → fld (wAt m.payload 0) 1 0 = 2 → wClassAt (fld (wAt m.payload 0) 5 4) = k → k ∈ w.syncing →
      let n := (countsOf (wAt m.payload 1) (wAt m.payload 2)).get k
      answers (.resyncAck d m) s (fun t =>
        t = weirSet d { w with held := w.held.set k 0, acct := w.acct.set k n, rel := w.rel.set k n, syncing := w.syncing.filter (· ≠ k) } s)) ∧
    (∀ lane, lane < 4 → w.rxLaneOk = 31 → w.rxSpareFor = 4 → bit (comOf (Side.other d) s.dies).weir.ctrl 1 = true →
      (comOf (Side.other d) s.dies).weir.txSpareUsed = false → answers (.laneFailed d lane) s (fun t =>
        t = weirSet d { w with rxLaneOk := 31 - 2 ^ lane, laneReports := w.laneReports ++ [lane + 1] } s)) ∧
    (∀ lane, w.spareWait = some lane → w.linkUp = true → answers (.spareSwitch d) s (fun t =>
      let u := (comOf d t.dies).weir
      u.txSpareFor = lane ∧ u.txSpareUsed = true ∧ u.spareWait = none ∧
        ((comOf (Side.other d) s.dies).runs = true → (comOf (Side.other d) t.dies).weir.rxSpareFor = lane) ∧ ∃ m, m ∈ u.out ∧ m.type = 12)) ∧
    (∀ top m, answers (.weirReservedType d top m) s (fun t =>
      let bad := decide (m.viol = true) || decide (m.crc ≠ wCrc (if top then 15 else 14) m)
      t = weirSet d { w with cnt := ctrAdd w.cnt (if bad then 0 else 1) 1 } s)) ∧
    (∀ shift, answers (.commonModeTransient d true shift) s (fun t => t = weirSet d { w with cnt := ctrAdd w.cnt 0 1 } s) ∧
      exec (.commonModeTransient d false shift) s = .next s)

/-! ### Messages across the Weir -/

/-- R18, R28, R46, R62, R365, R366, R446: what the field side does with the messages it accepts, STREAM_IN, TIME_MARK, EVENT and IMAGE_BLOCK, and what
it sends of itself. A frame of a STREAM_IN for a pass that has started, or for one already held, is discarded and counted.
The words of an EVENT and of a STATUS, and the image identity, are open (log entries 9 and 19). -/
def Obligations.FieldTakesMessages : Prop :=
  ∀ (s : State) (m : WRx),
    let f := s.dies.field
    let w (i : Nat) : W32 := wAt m.payload i
    (accepted .field 0 m (streamForm f.mer m) s → f.mer.running = true → answers (.streamIn .field m) s (fun t =>
      let g := (took .field .s s).dies.field
      let n0 := streamPass f.mer m
      let k := streamFrames f.mer m
      let fresh := (List.range k).filter (fun i => decide (f.mer.pcnt < n0 + i) && !f.io.frames.any (fun c => decide (c.pass = n0 + i)))
      let kept : List ChainFrame := fresh.map (fun i => ⟨n0 + i, bit (w 1) 2, (m.payload.drop (2 + 128 * i)).take 128⟩)
      t = (took .field .s s).setField { g with
        io := { g.io with frames := g.io.frames ++ kept, frameLate := g.io.frameLate || decide (fresh.length < k) }, mer := if fresh.length < k then { g.mer with cnt := ctrAdd g.mer.cnt 6 (k - fresh.length) } else g.mer })) ∧
    (∀ ahead, accepted .field 8 m true s → answers (.timeMark .field m ahead) s (fun t =>
      t = s.setField { f with mer := { f.mer with marks := f.mer.marks ++
        [⟨f.mer.tix + ahead, (w 0).toNat + 2 ^ 32 * (w 1).toNat, [w 2, w 3, w 4], fld (w 5) 2 0, fld (w 5) 11 8⟩] } })) ∧
    (accepted .field 7 m true s → answers (.eventMsg .field m) s (fun t =>
      let g := (took .field .m s).dies.field
      t = (took .field .m s).setField { g with com := { g.com with events := m.payload :: g.com.events } })) ∧
    (accepted .host 7 m true s → (∀ x ∈ s.dies.host.leg.subs, x.idx ≠ 0x300) → answers (.eventMsg .host m) s (fun t =>
      let g := (took .host .m s).dies.host
      t = (took .host .m s).setHost { g with com := { g.com with events := m.payload :: g.com.events }, leg := { g.leg with event := m.payload } })) ∧
    (accepted .field 9 m true s → f.fb.inRom = true → lcFieldIn f ≠ 4 → romTests f.com = false → f.fb.ident = some (fld (w 0) 31 16) → fld (w 0) 15 0 = f.fb.next →
      let g := (took .field .i s).dies.field
      (fld (w 1) 1 0 = f.fb.quarter → f.fb.quarter < 3 → answers (.imageBlock .field m) s (fun t =>
        t = (took .field .i s).setField { g with
          fb := { g.fb with block := g.fb.block ++ m.payload.drop 2, quarter := g.fb.quarter + 1, missing := false } })) ∧
      (fld (w 1) 1 0 ≠ f.fb.quarter → f.fb.missing = false → answers (.imageBlock .field m) s (fun t =>
        let out : WMsg := ⟨10, 0, 0, [w32 (fld (w 0) 31 16 * 65536 + f.fb.next), 3, w32 f.fb.next, w32 (leAt f.fb.man 16 4)]⟩
        t = (took .field .i s).setField { g with fb := { g.fb with missing := true }, com := weirQueue g.com out }))) ∧
    (f.com.runs = true → answers .statusSend s (fun t =>
      t = s.setField { f with com := weirQueue f.com ⟨6, 0, 0, Config.statusWords f.com.temp⟩ })) ∧
    (f.com.runs = true → f.fb.inRom = true → lcFieldIn f ≠ 4 → romTests f.com = false → f.com.weir.linkUp = true → f.fb.ident = none → answers .fieldReadySend s (fun t =>
      t = s.setField { f with com := weirQueue f.com ⟨10, 0, 0, [0xFFFF, 0, w32 f.fb.next, w32 (leAt f.fb.man 16 4)]⟩ }))

/-- R18, R34, R69, R149, R150, R327, R328, R340, R368, R419: requests across the Weir to field entries. A first request is made once, its answer stored
and sent; the same request again is answered from the store, an older number 08h; a value of another type is answered 04h. Shown on KEEP (4000h 02h), the
restart (8040h 10h), repair records (9100h 41h) and BUNDLE_COMMIT.
The layouts of a value in Weir words and of a repair record are the model's choice (log entries 15 and 23). -/
def Obligations.FieldServesRequests : Prop :=
  ∀ (s : State) (m : WRx) (rid rseq : Nat), rid < 65536 → rseq < 65536 → wAt m.payload 0 = w32 (rid * 65536 + rseq) →
    let f := s.dies.field
    let g := (took .field .c s).dies.field
    let w (i : Nat) : W32 := wAt m.payload i
    let ans (w1 : W32) : List W32 := [w32 (rid * 65536 + rseq), w1, 0]
    let store (ws : List W32) : List FieldDup := ⟨rid, [(rseq, ws)]⟩ :: g.dups.filter (fun r => decide (r.rid ≠ rid))
    (accepted .field 2 m true s →
      (newAsker f rid → w 1 = 0x40000204 → w 2 = 4 → m.payload.length = 4 → answers (.paramWrite .field m) s (fun t =>
        t = (took .field .c s).setField { g with mer := { g.mer with keep := w 3 }, dups := store (ans 0x40000200), com := weirQueue g.com ⟨4, 0, 0, ans 0x40000200⟩ })) ∧
      (newAsker f rid → w 1 = 0x40000203 → answers (.paramWrite .field m) s (fun t =>
        t = (took .field .c s).setField { g with dups := store (ans 0x40000204), com := weirQueue g.com ⟨4, 0, 0, ans 0x40000204⟩ })) ∧
      (∀ outs ws, fdupOuts f rid = some outs → outs.find? (fun e => decide (e.1 = rseq)) = some (rseq, ws) → answers (.paramWrite .field m) s (fun t =>
        t = (took .field .c s).setField { g with com := weirQueue g.com ⟨4, 0, 0, ws⟩ })) ∧
      (∀ outs n ws, fdupOuts f rid = some ((n, ws) :: outs) → ((n, ws) :: outs).find? (fun e => decide (e.1 = rseq)) = none → n < 65536 →
        1 ≤ (n + 65536 - rseq) % 65536 → (n + 65536 - rseq) % 65536 ≤ 32767 → answers (.paramWrite .field m) s (fun t =>
        t = (took .field .c s).setField { g with com := weirQueue g.com ⟨4, 0, 0, ans (w 1 &&& 0xFFFFFF00 ||| 8)⟩ })) ∧
      (newAsker f rid → w 1 = 0x80401003 → w 2 = 2 → w 3 = 0xA5C3 → (∀ n, (dmaQ f.com.dma n).en = false ∧ (dmaQ f.com.dma n).pidx = (dmaQ f.com.dma n).didx) → lcFieldIn f ≠ 4 → answers (.fieldRestart m) s (fun t =>
        let u := t.dies.field
        t = (took .field .c s).setField { g with com := u.com, fb := u.fb, dups := store (ans 0x80401000) } ∧ u.fb.inRom = true ∧
          bit u.com.rstCause 1 = true ∧ bit u.com.rstCause 4 = true ∧ u.com.fuses = f.com.fuses)) ∧
      (∀ (rec : List Byte) bad, newAsker f rid → w 1 = 0x9100410E → w 2 = 18 → unpackWords 0x0E 18 (m.payload.drop 3) = rec → rec.length = 18 →
        crc32 (rec.take 14) = w32 (beAt rec 14 4) → 1 ≤ beAt rec 0 1 → beAt rec 0 1 ≤ 10 → beAt rec 4 2 < sparesOf (beAt rec 0 1) →
        let r : RowId := ⟨beAt rec 0 1, beAt rec 2 2⟩
        let k := beAt rec 4 2
        let u (t : State) : FieldDie := t.dies.field
        (bad.contains (r.res, k) = false → f.com.integ.remap.contains (r, k) = false → answers (.repairRecordRestore m bad) s (fun t =>
          t = (took .field .c s).setField { g with com := (u t).com, dups := store (ans 0x91004100) } ∧
            (u t).com.integ.remap = f.com.integ.remap ++ [(r, k)] ∧ ledUsed (u t).com r.res = max (ledUsed f.com r.res) (k + 1))) ∧
        (bad = [(r.res, k)] → (∀ e ∈ f.com.integ.remap, e.1 ≠ r) → ledUsed f.com r.res ≤ k → k + 1 < sparesOf r.res → answers (.repairRecordRestore m bad) s (fun t =>
          t = (took .field .c s).setField { g with com := (u t).com, dups := store (ans 0x91004100) } ∧
            (u t).com.integ.remap = f.com.integ.remap ++ [(r, k + 1)] ∧ (0x107, [w32 r.res, w32 r.row, w32 (k + 1)]) ∈ (u t).com.faults)))) ∧
    (accepted .field 3 m true s → w 1 = 0x40000204 → answers (.paramRead .field m) s (fun t =>
      t = (took .field .c s).setField { g with com := weirQueue g.com ⟨4, 0, 0, [w32 (rid * 65536 + rseq), 0x40000200, 4, f.mer.keep]⟩ })) ∧
    (accepted .field 5 m true s → newAsker f rid → fld (w 4) 15 2 = 0 →
      let mask := cgMask f.cg (fld (w 4) 1 0)
      let p := (w 1).toNat + 2 ^ 32 * (w 2).toNat
      bundleFree f mask p → (bit (w 3) 0 = true → fld (w 3) 7 4 ≤ 12) → answers (.bundleCommit .field m) s (fun t =>
        let cg := { f.cg with resTag := fld (w 4) 31 16, result := 1, pending :=
          f.cg.pending ++ [Bundle.mk p (bit (w 3) 0) (fld (w 3) 7 4) (fld (w 4) 31 16) mask (.legend rid rseq)] }
        t = (took .field .c s).setField { g with cg := cg, dups := store (ans 0x40020500), com := weirQueue g.com ⟨4, 0, 0, ans 0x40020500⟩ }))

/-- R18, R265, R317, R321, R329, R341, R361, R365 to R367, R446: what the host side does with the messages it accepts. A PARAM_RESP answers the request
that waits for it; with a STATUS a new fault record of the field side joins the fault log (log entry 64); the first IMAGE_RESULT of a waiting field ROM
starts the transfer of block 0, and a measurement extends MS2 and reports the field side's lifecycle.
The words of an EVENT and of a STATUS, and the image identity, are open (log entries 9 and 19). -/
def Obligations.HostTakesMessages : Prop :=
  ∀ (s : State) (m : WRx),
    let h := s.dies.host
    let w (i : Nat) : W32 := wAt m.payload i
    (accepted .host 1 m (streamRetOk m h) s → answers (.streamRet .host m) s (fun t =>
      let g := (took .host .s s).dies.host
      t = (took .host .s s).setHost { g with cw := { g.cw with rets := (((w 0).toNat, m.payload.drop 2) :: g.cw.rets).take 8 } })) ∧
    (∀ x, accepted .host 4 m true s → h.leg.fwd.find? (fun v => decide (v.rid = fld (w 0) 31 16) && decide (v.rseq = fld (w 0) 15 0)) = some x →
      x.kind = .write → answers (.paramResp .host m) s (fun t =>
        let g := (took .host .c s).dies.host
        let rest := h.leg.fwd.filter (fun v => !(decide (v.rid = x.rid) && decide (v.rseq = x.rseq)))
        t = (took .host .c s).setHost (answer { g with leg := { g.leg with fwd := rest } } ⟨2, x.rid, x.rseq, x.role, x.flags, x.via⟩
          ⟨fld (w 1) 7 0, 0, bytesBE 2 x.idx ++ bytesBE 1 x.sub, false⟩))) ∧
    (accepted .host 6 m true s → answers (.statusMsg .host m) s (fun t =>
      let g := t.dies.host
      t = (took .host .m s).setHost g ∧ g.far = 0x80000000 ||| w32 (Config.statusTemp m.payload).toNat ∧ g.farFresh = true ∧
        g.dt.histF = histAdd h.dt.histF (Config.statusTemp m.payload).toInt 60000 ∧
        (∀ e rest, h.boot.inRom = false → h.coresRun = true → s.dies.field.com.faults = e :: rest → h.boot.faultsIn = rest.length →
          g.boot.faultsIn = rest.length + 1 ∧ ⟨h.boot.logSeq + 1, h.dt.time, e.1, e.2⟩ ∈ g.boot.log))) ∧
    (accepted .host 10 m (decide (m.payload.length = 4)) s →
      let g := (took .host .i s).dies.host
      (4 ≤ fld (w 1) 7 0 → answers (.imageResult .host m) s (fun t =>
        t = (took .host .i s).setHost { g with
          leg := { g.leg with extra := tput [] g.leg.extra (entKey 0x8010 7) (bytesBE 1 (fld (w 1) 7 0)) } })) ∧
      (∀ b, fld (w 1) 7 0 = 0 → h.boot.inRom = false → h.coresRun = true → h.boot.repairsF = [] → fieldBlock h 0 = some b → h.com.weir.farPresent = true →
        answers (.imageResult .host m) s (fun t =>
          let msg (q : Nat) : WMsg := ⟨9, 0, 0, [w32 (leAt b 16 2 * 65536), w32 q] ++ wordsOfBytes (slice b (1024 * q) 1024)⟩
          t = (took .host .i s).setHost { g with com := { g.com with weir := { g.com.weir with
            queue := g.com.weir.queue ++ [msg 0, msg 1, msg 2, msg 3] } } }))) ∧
    (accepted .host 11 m (decide (m.payload.length = 13)) s →
      let g := (took .host .i s).dies.host
      (h.boot.inRom = true → answers (.measureMsg .host m) s (fun t =>
        t = (took .host .i s).setHost { g with leg := { g.leg with fieldMs := m.payload }, boot := { g.boot with lcField := fld (w 0) 14 12, split := decide (lcOf h.com.fuses ≠ fld (w 0) 14 12) } })) ∧
      (h.boot.inRom = false → h.coresRun = true → fld (w 0) 3 0 = 2 → tget 0 h.boot.msCnt 2 = 0 → lcOf h.com.fuses = fld (w 0) 14 12 →
        h.boot.runDig = [] → h.leg.restoring = false → answers (.measureMsg .host m) s (fun t =>
          let digest := ((m.payload.drop 1).take 12).flatMap (fun x => bytesLE 4 x.toNat)
          let boot := msPush { g.boot with lcField := fld (w 0) 14 12, split := false } 2 digest
          t = (took .host .i s).setHost { g with leg := { g.leg with fieldMs := m.payload }, boot := boot })))

/-! ### Passes -/

/-- R28, R55 to R57, R452: a tick of the running pass within 64 slots is its tick, late from +3, early from -3, counted; 16 in a row set TICK_LOCK. Any
other is a stray. A pass without a tick counts as missing, the sixteenth in a row begins COAST. The bank and program state is not touched; the host
side judges its class anew where tick lock or COAST moved (R295, log entry 61). -/
def Obligations.TicksAreClassified : Prop :=
  ∀ (s : State), s.dies.field.com.runs = true →
    let f := s.dies.field
    let m := f.mer
    (∀ e ph, m.running = true → m.srcUse = 0 → m.phased = true → -64 ≤ e → e ≤ 64 → (if 0 ≤ e then m.tickCur else m.tickNext) = none →
      answers (.tickEdge e ph) s (fun t =>
        let late := decide (3 ≤ e)
        let early := decide (e ≤ -3)
        let off := late || early
        let r : TickRec := ⟨e, late, early, false⟩
        let n := min 16 (m.onRun + 1)
        let mer := { m with
          tickErr := e, missRun := 0, tickCur := if 0 ≤ e then some r else m.tickCur, tickNext := if 0 ≤ e then m.tickNext else some r, cnt := if late then ctrAdd m.cnt 0 1 else if early then ctrAdd m.cnt 1 1 else m.cnt, tickLock := !off && (m.tickLock || decide (n = 16)), onRun := if off then 0 else n, coast := off && m.coast, realignWait := off && m.realignWait }
        t = judged s (s.setField { f with com := t.dies.field.com, aud := t.dies.field.aud, mer := mer }) ∧
        t.dies.field.com.weir.tickLock = (f.com.weir.tickLock || f.com.weir.tickCal))) ∧
    (∀ e ph, m.running = true → m.srcUse = 0 → m.phased = true → (e < -64 ∨ 64 < e) → (∀ r ∈ m.tickCur, r.missing = false) →
      answers (.tickEdge e ph) s (fun t => 
        let mer := { m with cnt := ctrAdd m.cnt 3 1, tickLock := false, onRun := 0, strayNow := some e }
        t = judged s (s.setField { f with com := t.dies.field.com, aud := t.dies.field.aud, mer := mer }))) ∧
    (m.running = true → m.srcUse = 0 → m.tickCur = none → m.strayNow = none → answers .tickMissing s (fun t =>
      let n := min 16 (m.missRun + 1)
      let mer := { m with
        cnt := ctrAdd m.cnt 2 1, tickCur := some ⟨0, false, false, true⟩, tickLock := false, onRun := 0, missRun := n, coast := m.coast || decide (n = 16) }
      t = judged s (s.setField { f with com := t.dies.field.com, aud := t.dies.field.aud, mer := mer }))) ∧
    answers .tickLaneTimeout s (fun t => t = s.setField { f with com := { f.com with weir := { f.com.weir with tickLock := false } } })

/-- R46 to R51, R69, R72: RUN 1 with a rate of the oscillator's family asks for a start by the tick source chosen, with another family it sets
FAM_REFUSED and leaves RUN 0, also where passes already wait to start; RUN 0 lets the running pass end; a swap is judged by the rows of R69 and CANCEL withdraws it in time; the first tick that a TIME_MARK
identifies starts the first pass with its number. -/
def Obligations.RunsAndSwapsAreAsked : Prop :=
  ∀ (s : State), s.dies.field.com.runs = true →
    let f := s.dies.field
    let m := f.mer
    (∀ v : W32, bit v 0 = true → fld v 4 3 ≤ 1 → fld v 2 1 ≤ 1 → fld v 11 8 ≤ 5 → m.running = false → bit m.ctrl 0 = false → f.erHeld = false →
      let ok := decide (fld v 11 8 % 2 = 1) == !bit f.aud.osc.ctl 12 && f.aud.osc.pllLock
      answers (.runWrite1 v) s (fun t =>
        let g := t.dies.field
        t = judged s (s.setField { f with com := g.com, aud := g.aud, mer := { m with
            ctrl := g.mer.ctrl, famRefused := m.famRefused || !ok, srcUse := g.mer.srcUse, pend := g.mer.pend } }) ∧
          rateOf g.mer = fld v 11 8 ∧ fld g.mer.ctrl 4 3 = fld v 4 3 ∧ bit g.mer.ctrl 5 = bit v 5 ∧ bit g.mer.ctrl 0 = ok ∧
          (fld v 11 8 = rateOf m → g.aud = f.aud ∧ g.com = f.com) ∧
          (ok = true → g.mer.srcUse = fld v 2 1 ∧ g.mer.pend = if fld v 2 1 = 0 then .chain false true else .local) ∧
          (ok = false → g.mer.srcUse = m.srcUse ∧ g.mer.pend = .none))) ∧
    (∀ v : W32, bit v 0 = true → m.running = false → fld v 11 8 ≤ 5 →
      (decide (fld v 11 8 % 2 = 1) == !bit f.aud.osc.ctl 12 && f.aud.osc.pllLock) = false → answers (.runWrite1 v) s (fun t =>
        t.dies.field.mer.famRefused = true ∧ bit t.dies.field.mer.ctrl 0 = false ∧ t.dies.field.mer.pend = .none ∧
          t.dies.field.mer.running = false)) ∧
    (∀ v : W32, bit v 0 = false → m.running = true → answers (.runWrite0 v) s (fun t =>
      let g := t.dies.field
      t = s.setField { f with mer := { m with ctrl := g.mer.ctrl, pend := .none, stopReq := true } } ∧ bit g.mer.ctrl 0 = false ∧
        rateOf g.mer = rateOf m)) ∧
    (∀ v : W32, bit v 0 = true → bit v 1 = false →
      let n := m.swapLo.toNat + 2 ^ 32 * m.swapHi.toNat
      let chg := bit v 12
      let rate := fld v 11 8
      let r := if m.swap.isSome then 5 else if chg = true ∧ (5 < rate ∨ rate % 2 ≠ rateOf m % 2) then 6
        else if shadowLen m ≠ passLen (if chg then rate else rateOf m) - 16 then 4 else if isLate m n then 3 else 1
      answers (.swapReq v) s (fun t =>
        let swap := if r = 1 then some (SwapReq.mk n (if chg then some rate else none)) else m.swap
        t = s.setField { f with mer := { m with swapCtl := v &&& 0x1F00, swapResult := r, swap := swap } })) ∧
    (∀ (v : W32) (r : SwapReq), bit v 0 = false → bit v 1 = true → m.swap = some r → answers (.swapCancel v) s (fun t =>
      t = s.setField { f with mer := if isLate m r.pass then { m with swapCtl := v &&& 0x1F00 }
        else { m with swapCtl := v &&& 0x1F00, swap := none, swapResult := 7 } })) ∧
    (∀ (renum lock : Bool) (k : Mark), m.pend = .chain renum lock → m.running = false → f.erHeld = false → (lock = true → f.com.weir.tickLock = true) →
      m.phased = false → m.ran = false → familyOk f = true → markAt m m.tix = some k → answers .firstPassStart s (fun t =>
        let g := t.dies.field
        t = judged s (s.setField g) ∧ g.mer.running = true ∧ g.mer.pend = .none ∧ g.mer.pcnt = k.pass + m.tix - k.idx ∧ g.mer.slot = 0 ∧ g.mer.phased = true ∧
          g.mer.seamDone = false ∧ g.mer.ran = true ∧ g.mer.tickCur = some ⟨0, false, false, false⟩ ∧ g.eng = { f.eng with ip := 0 } ∧
          tget 0 g.io.inFront 224 = w32 g.mer.pcnt ∧ g.bk = f.bk))

/-- R42, R44, R50, R51, R53, R54, R58 to R60, R62, R67, R70: the seam ends a pass: the chain frame of the next pass becomes the
IN frame with its number and flags, the OUT frame is taken, a swap due is made; the wrap then presents the OUT frame and starts the next pass, or stops
passes. While none runs, a wrap counts a pass number as gone by; at the wrap after the seam at which an engine reset was applied none goes by yet. Where
what the host side's class rests on moved, it is judged anew (R295, log entry 61). -/
def Obligations.SeamsAndWraps : Prop :=
  ∀ (s : State), s.dies.field.com.runs = true →
    let f := s.dies.field
    let m := f.mer
    (m.running = true → m.seamDone = false → m.srcUse ≠ 0 → m.realignWait = false → f.muting = false → f.mute = 0 → muteWanted s.dies.host = false →
      f.eng.fly = [] → (∀ i, i < 128 → tget 0 f.io.inBack i = 0) →
      answers (.seam none) s (fun t =>
        let g := t.dies.field
        let w (i : Nat) : W32 := tget 0 g.io.inFront i
        let n := m.pcnt + 1
        t = judged s (s.setField g) ∧ g.mer.pcnt = n ∧ g.mer.lastPass = m.pcnt ∧ g.mer.seamDone = true ∧ g.mer.slot = merN m - 16 ∧ g.mer.running = true ∧
          g.io.outNext = f.io.outFront ∧ g.io.outFront = [] ∧ g.io.inBack = [] ∧ g.eng.ip = 0 ∧
          w 224 = w32 n ∧ w 225 = w32 (n / 2 ^ 32) ∧ bit (w 227) 0 = !f.io.frames.any (fun c => decide (c.pass = n)) ∧
          bit (w 226) 19 = (m.swap.any (fun r => decide (r.pass < n))) ∧
          (∀ c, f.io.frames.find? (fun c => decide (c.pass = n)) = some c → c.words.length = 128 → ∀ i, i < 128 → w i = c.words.getD i 0) ∧
          (f.io.frames.find? (fun c => decide (c.pass = n)) = none → fld m.ctrl 4 3 = 0 → ∀ i, i < 128 → w i = 0) ∧
          (m.swap = none → g.mer.store1 = m.store1 ∧ g.mer.swap = none ∧ rateOf g.mer = rateOf m) ∧
          (∀ r, m.swap = some r → r.pass < n → g.mer.store1 = !m.store1 ∧ g.mer.swap = none ∧ g.mer.swapResult = 2 ∧
            (∀ k, r.newRate = some k → k < 16 → rateOf g.mer = k) ∧ (r.newRate = none → rateOf g.mer = rateOf m)) ∧
          (∀ r, m.swap = some r → n ≤ r.pass → g.mer.swap = some r ∧ g.mer.store1 = m.store1) ∧
          (m.overran = true → ctrGet g.mer.cnt 7 = ctrGet (ctrAdd m.cnt 7 1) 7 ∧ ctrGet g.mer.cnt 8 = ctrGet m.cnt 8) ∧
          (m.overran = false → m.slot < merN m - 16 → ctrGet g.mer.cnt 7 = ctrGet m.cnt 7 ∧ ctrGet g.mer.cnt 8 = ctrGet (ctrAdd m.cnt 8 1) 8))) ∧
    (m.running = true → m.seamDone = true → f.erReq = false →
      (m.stopReq = false → answers .passTimerWrap s (fun t =>
        let g := t.dies.field
        t = judged s (s.setField g) ∧ g.mer.running = true ∧ g.mer.pcnt = m.pcnt ∧ g.mer.slot = 0 ∧ g.mer.seamDone = false ∧ g.io.outPres = f.io.outNext ∧
          g.io.outNext = [] ∧ g.mer.tickCur = m.tickNext ∧ g.mer.tickNext = none ∧ g.bk = f.bk ∧ g.eng = f.eng ∧ g.cg = f.cg)) ∧
      (m.stopReq = true → bit m.ctrl 0 = false → answers .passTimerWrap s (fun t =>
        let g := t.dies.field
        t = judged s (s.setField g) ∧ g.mer.running = false ∧ g.mer.stopReq = false ∧ g.io.outPres = [] ∧ g.io.presented = false ∧ g.mer.pcnt = m.pcnt ∧
          g.bk = f.bk ∧ g.cg = f.cg))) ∧
    (m.running = false → m.pend = .none → m.ran = true → m.seamDone = false → answers .passTimerWrap s (fun t =>
      let g := t.dies.field
      t = judged s (s.setField g) ∧ g.mer.running = false ∧ g.mer.pcnt = m.pcnt + 1 ∧ g.mer.cnt = ctrAdd m.cnt 9 1 ∧ g.bk = f.bk ∧ g.eng = f.eng)) ∧
    (m.running = false → m.pend = .none → m.seamDone = true → answers .passTimerWrap s (fun t =>
      let g := t.dies.field
      t = judged s (s.setField g) ∧ g.mer.running = false ∧ g.mer.seamDone = false ∧ g.mer.pcnt = m.pcnt ∧ g.mer.cnt = m.cnt ∧ g.bk = f.bk ∧ g.eng = f.eng)) ∧
    (m.running = false → m.pend = .local → f.erHeld = false → m.ran = true → m.seamDone = false → familyOk f = true → answers .passTimerWrap s (fun t =>
      let g := t.dies.field
      t = judged s (s.setField g) ∧ g.mer.running = true ∧ g.mer.pcnt = m.pcnt + 1 ∧ g.mer.slot = 0 ∧ tget 0 g.io.inFront 224 = w32 (m.pcnt + 1)))

/-! ### Banks and commits -/

/-- R71, R103, R138, R145, R148, R405: the field bus reaches the banks of its map; a write stores its bytes and no others, a read delivers them; the
add and swap aliases read a word and write it in one access, and take whole words only; a gap sets GAP. A coefficient word written through the shadow view
goes to the other copy and becomes dirty; an access to X, Y or the active program store that comes when the seam is due is served after it; a scrubbed word reads 0 and loses its mark; a write-back ends a corrected error. -/
def Obligations.BankAccesses : Prop :=
  ∀ (s : State), s.dies.field.com.runs = true →
    let f := s.dies.field
    (∀ n, n < 0x40000 → fieldTarget n = some (.plain, .f, n) ∧ fieldTarget (0x10000000 + n) = some (.plain, .p0, n) ∧
      fieldTarget (0x10040000 + n) = some (.plain, .p1, n)) ∧
    (∀ n, n < 0x80000 → fieldTarget (0x10100000 + n) = some (.plain, .x, n) ∧ fieldTarget (0x10200000 + n) = some (.plain, .y, n) ∧
      fieldTarget (0x11100000 + n) = some (.add, .x, n) ∧ fieldTarget (0x12200000 + n) = some (.swap, .y, n)) ∧
    (∀ (a : BusAcc) (id : BankId) (o : Nat), a.size ∈ [1, 2, 4] → a.addr % a.size = 0 → plainCell f id o → bankWaits f id = false →
      f.eng.fly = [] → (fieldBank f id).err = [] →
      let old := rd32 (fieldBank f id).mem o
      (fieldTarget a.addr = some (.plain, id, o) →
        (∀ v, a.write = some v → answers (.fieldBankAccess a) s (fun t => t = s.setField (cellsPut f id o (bytesLE a.size v.toNat)))) ∧
        (a.write = none → answers (.fieldBankAccess a) s (fun t =>
          t = s.setField (accEnd false (setRead f (w32 (ofBytesLE (bankBytes (fieldBank f id) o a.size)))))))) ∧
      (fieldTarget a.addr = some (.add, id, o) →
        (∀ v, a.size = 4 → a.write = some v → answers (.atomicAddAlias a) s (fun t => t = s.setField (cellsPut f id o (bytesLE 4 (old + v).toNat)))) ∧
        (a.size = 4 → a.write = none → answers (.atomicAddAlias a) s (fun t =>
          t = s.setField (setRead (cellsPut f id o (bytesLE 4 (old + f.bk.atArg).toNat)) old))) ∧
        (∀ v, a.size ≠ 4 → a.write = some v → answers (.atomicAddAlias a) s (fun t => t = s.setField (bankFlag f 1)))) ∧
      (fieldTarget a.addr = some (.swap, id, o) → a.size = 4 →
        (∀ v, a.write = some v → answers (.atomicSwapAlias a) s (fun t => t = s.setField (cellsPut f id o (bytesLE 4 v.toNat)))) ∧
        (a.write = none → answers (.atomicSwapAlias a) s (fun t =>
          t = s.setField (setRead (cellsPut f id o (bytesLE 4 f.bk.atArg.toNat)) old))))) ∧
    (∀ (a : BusAcc) (v : W32), a.size ∈ [1, 2, 4] → a.addr % a.size = 0 → fieldGap a.addr = true → a.write = some v →
      answers (.fieldBankAccess a) s (fun t => t = s.setField { f with bk := { f.bk with stat := setBit f.bk.stat 0 true } })) ∧
    (∀ (w g : Nat) (v : W32), w < 0x8000 → groupOf f.cg w = some g → gliding f.cg g = false → bankWaits f .y = false →
      f.eng.fly = [] → f.bk.y.err = [] → answers (.fieldBankAccess ⟨0x10220000 + 4 * w, 4, some v⟩) s (fun t =>
        let g := t.dies.field
        t = s.setField { f with bk := { f.bk with y := g.bk.y, dirty := g.bk.dirty } } ∧ tget false g.bk.dirty w = true ∧
          (∀ k, k ≠ w → tget false g.bk.dirty k = tget false f.bk.dirty k) ∧ rd32 g.bk.y.mem (4 * otherCell f.bk w) = v ∧
          ∀ a, (a < 4 * otherCell f.bk w ∨ 4 * otherCell f.bk w + 4 ≤ a) → rd8 g.bk.y.mem a = rd8 f.bk.y.mem a)) ∧
    (∀ (a : BusAcc) (id : BankId) (o : Nat), fieldTarget a.addr = some (.plain, id, o) → bankWaits f id = true →
      answers (.fieldBankAccess a) s (fun t => ∃ g, exec (.fieldBankAccess a) (s.setField (seam none f)) = .next g ∧
        t = judged s (s.setField g.dies.field))) ∧
    (∀ w, 512 ≤ w → w < 0x20000 → xMarked f.bk w = true → f.bk.x.err = [] → answers (.xScrub w) s (fun t =>
      let g := t.dies.field
      t = s.setField { f with bk := { f.bk with x := g.bk.x, xOk := g.bk.xOk } } ∧ xMarked g.bk w = false ∧ rd32 g.bk.x.mem (4 * w) = 0 ∧
        ∀ a, (a < 4 * w ∨ 4 * w + 4 ≤ a) → rd8 g.bk.x.mem a = rd8 f.bk.x.mem a)) ∧
    (∀ (id : BankId) (c : Nat), id ∈ [.f, .p0, .p1, .x, .y, .z] → c ∈ (fieldBank f id).wb → answers (.eccWriteback id c) s (fun t =>
      let b := fieldBank f id
      t = s.setField (fieldSetBank f id { b with err := tput 0 b.err c 0, wb := b.wb.filter (· ≠ c) }))) ∧
    (∀ (id : BankId) (c : Nat), s.dies.host.com.runs = true → id ∈ [.h0, .h1, .h2, .h3, .n, .e] → c ∈ (hostBank s.dies.host id).wb →
      answers (.eccWriteback id c) s (fun t =>
        let b := hostBank s.dies.host id
        t = s.setHost (hostSetBank s.dies.host id { b with err := tput 0 b.err c 0, wb := b.wb.filter (· ≠ c) })))

/-- R147, R149, R150, R152, R160, R161: a descriptor that reaches past the coefficient area or names a group that a bundle waits for or that glides is
refused; one free to change is taken, and a group disabled loses its dirty bits. A bundle asked for in time waits, one for a pass gone by is refused as late
and counted, CANCEL withdraws it in time; COPY of the binding table acts while no pass runs. -/
def Obligations.CommitRequests : Prop :=
  ∀ (s : State), s.dies.field.com.runs = true →
    let f := s.dies.field
    let c := f.cg
    (∀ (g : Nat) (v : W32), g < 256 → (255 < fld v 7 0 + fld v 15 8 ∨ cgPending c g = true ∨ gliding c g = true) →
      answers (.cgDescWrite g v) s (fun t => t = s.setField { f with cg := { c with refused := tput false c.refused g true } })) ∧
    (∀ (g : Nat) (v : W32), g < 256 → fld v 7 0 + fld v 15 8 ≤ 255 → cgPending c g = false → gliding c g = false →
      (cgEn (cgDesc c g) = false → bit v 16 = true →
        (∀ e ∈ c.desc, e.1 ≠ g → cgEn e.2 = true → fld v 7 0 + fld v 15 8 < cgFirst e.2 ∨ cgFirst e.2 + cgCount e.2 < fld v 7 0) →
        answers (.cgDescWrite g v) s (fun t => t = s.setField { f with cg := { c with desc := tput 0 c.desc g (v &&& 0x3FFFF) } })) ∧
      (cgEn (cgDesc c g) = true → bit v 16 = false → answers (.cgDescWrite g v) s (fun t =>
        let d := cgDesc c g
        t = s.setField { f with silt := t.dies.field.silt, cg := { c with desc := tput 0 c.desc g (v &&& 0x3FFFF) }, bk := { f.bk with dirty := tclear f.bk.dirty (128 * cgFirst d) (128 * (cgFirst d + cgCount d + 1)) } } ∧
          ∀ e x, (e, x) ∈ t.dies.field.silt.taps → tapLink x.cfg = true → tapCgrp x.cfg = g → x.staged = none))) ∧
    (∀ v : W32, bit v 0 = true → bit v 1 = false →
      let mask := cgMask c (fld v 9 8)
      let p := c.passLo.toNat + 2 ^ 32 * c.passHi.toNat
      let tag := fld v 31 16
      (bundleFree f mask p → (bit v 4 = true → fld v 15 12 ≤ 12) → answers (.bundleReq v) s (fun t =>
        let bundle := Bundle.mk p (bit v 4) (fld v 15 12) tag mask .register
        t = s.setField { f with cg := { c with cmd := v &&& 0xFFFFF310, resTag := tag, result := 1, pending := c.pending ++ [bundle] } })) ∧
      (c.pending.length < 8 → mask ≠ 0 → isLate f.mer p = true → (bit v 4 = true → fld v 15 12 ≤ 12) →
        (∀ k ∈ maskGroups mask, cgEn (cgDesc c k) = true ∧ cgPending c k = false ∧ gliding c k = false) → answers (.bundleReq v) s (fun t =>
          t = s.setField { f with cg := { c with cmd := v &&& 0xFFFFF310, resTag := tag, result := 3, cnt := ctrAdd c.cnt 0 1 } }))) ∧
    (∀ v : W32, bit v 0 = false → bit v 1 = true →
      let hit (b : Bundle) : Bool := decide (b.tag = fld v 31 16) && !isLate f.mer b.pass
      c.pending.any hit = true → answers (.bundleCancel v) s (fun t =>
        t = s.setField { f with cg := { c with cmd := v &&& 0xFFFFF310, pending := c.pending.filter (fun b => !hit b), resTag := fld v 31 16, result := 6 } })) ∧
    (∀ v : W32, bit v 1 = true → fld v 26 16 ≤ 1024 →
      (f.mer.running = false → answers (.bindCopy v) s (fun t =>
        t = s.setField { f with cg := { c with bindArm := false, bindRefused := c.bindRefused && !bit v 2, nent := fld v 26 16, bindAct := c.bindSh, nentAct := fld v 26 16, bindApplied := true } })) ∧
      (f.mer.running = true → answers (.bindCopy v) s (fun t =>
        t = s.setField { f with cg := { c with bindArm := bit v 0, bindRefused := true, nent := fld v 26 16, bindApplied := c.bindApplied && !bit v 3 } })))

/-- R148, R149, R153, R161: at the seam of its pass a bundle without a glide takes effect: each of its groups changes the copies of its dirty words, which
are dirty no longer, its commit count goes on by one, and its taps take their staged delays; a bundle for a later pass goes on waiting. -/
def Obligations.BundlesTakeEffect : Prop :=
  ∀ (s : State) (b : Bundle), s.dies.field.com.runs = true →
    let f := s.dies.field
    f.mer.running = true → f.mer.seamDone = false → f.mer.srcUse ≠ 0 → f.mer.realignWait = false → f.mer.swap = none → f.eng.fly = [] →
    f.cg.pending = [b] → f.cg.glide = [] →
    (b.pass ≤ f.mer.pcnt → b.glide = false → answers (.seam none) s (fun t =>
      let g := t.dies.field
      g.cg.pending = [] ∧ g.cg.result = 2 ∧ g.cg.resTag = b.tag ∧ g.cg.desc = f.cg.desc ∧
        (∀ k, tget 0 g.cg.cseq k = if k < 256 ∧ b.mask.testBit k then (tget 0 f.cg.cseq k + 1) % 256 else tget 0 f.cg.cseq k) ∧
        ∀ w, let hit := (maskGroups b.mask).any (fun k => decide (128 * cgFirst (cgDesc f.cg k) ≤ w) &&
            decide (w < 128 * (cgFirst (cgDesc f.cg k) + cgCount (cgDesc f.cg k) + 1)))
          tget false g.bk.dirty w = (tget false f.bk.dirty w && !hit) ∧
            (f.bk.dirty.filter (fun e => decide (e.1 = w)) = [] ∨ hit = false → tget false g.bk.page w = tget false f.bk.page w) ∧
            (f.bk.dirty.filter (fun e => decide (e.1 = w)) = [(w, true)] → hit = true → tget false g.bk.page w = !tget false f.bk.page w))) ∧
    (f.mer.pcnt < b.pass → answers (.seam none) s (fun t => t.dies.field.cg.pending = [b] ∧ t.dies.field.bk.page = f.bk.page ∧
      t.dies.field.bk.dirty = f.bk.dirty))

/-! ### Silt -/

/-- R163 to R167, R187, R407: the store is reached through the window at the base of SILT_WIN once it is ready: a write stores its bytes and no others, a
read delivers them, before READY a read delivers 0, and either access ends with an error response; patrol writes a corrected codeword back and counts it; EN of SILT_CTRL acts at once while no pass runs,
and is refused before READY: EN 1 starts every line at position 0, EN 0 makes results 0, freezes the ring and stops playback. -/
def Obligations.SiltStoreAccesses : Prop :=
  ∀ (s : State), s.dies.field.com.runs = true →
    let f := s.dies.field
    let q := f.silt
    answers .siltReady s (fun t => t = s.setField { f with silt := { q with ready := true } }) ∧
    (∀ a : BusAcc, a.size ∈ [1, 2, 4] → a.addr % a.size = 0 → 0x20000000 ≤ a.addr → a.addr < 0x30000000 →
      let at' := (fld q.win 31 20 * 2 ^ 20 + (a.addr - 0x20000000)) % 2 ^ 32
      (∀ v, q.ready = true → q.err = [] → a.write = some v → answers (.siltWindowAccess a) s (fun t =>
        t = s.setField (accEnd false { f with silt := { q with dram := wrBytes q.dram at' (bytesLE a.size v.toNat) } }))) ∧
      (q.ready = true → q.err = [] → a.write = none → answers (.siltWindowAccess a) s (fun t =>
        t = s.setField (setRead f (w32 (ofBytesLE ((List.range a.size).map (fun i => rd8 q.dram (at' + i)))))))) ∧
      (q.ready = false → a.write = none → answers (.siltWindowAccess a) s (fun t => t = s.setField (accEnd true (setRead f 0)))) ∧
      (∀ v, q.ready = false → a.write = some v → answers (.siltWindowAccess a) s (fun t => t = s.setField (accEnd true f)))) ∧
    (∀ c, c < 2 ^ 27 → q.ready = true →
      (tget 0 q.err c = 1 → answers (.siltPatrol c) s (fun t =>
        t = s.setField { f with silt := { q with ecc := ctrAdd q.ecc 0 1, eccLast := w32 (32 * c), err := tput 0 q.err c 0 } })) ∧
      (tget 0 q.err c = 0 → exec (.siltPatrol c) s = .next s)) ∧
    (∀ v : W32,
      (q.ready = false → answers (.siltCtrlEnWrite v) s (fun t => t = s.setField { f with silt := { q with refused := true } })) ∧
      (q.ready = true → f.mer.running = true → answers (.siltCtrlEnWrite v) s (fun t =>
        t = s.setField { f with silt := { q with en := bit v 0 } })) ∧
      (q.ready = true → f.mer.running = false → answers (.siltCtrlEnWrite v) s (fun t =>
        let u := t.dies.field.silt
        t = s.setField { f with silt := u } ∧ u.en = bit v 0 ∧ u.active = bit v 0 ∧ u.dram = q.dram ∧
          (q.active = false → bit v 0 = true → u.stage = [] ∧ u.tapFront = [] ∧ u.lineFront = [] ∧ u.pbFront = [] ∧ ∀ e ∈ u.lines, e.2.pos = 0) ∧
          (q.active = true → bit v 0 = false → u.tapFront = [] ∧ u.pbFront = [] ∧ u.lines = q.lines ∧ u.cap.armed = false ∧
            ∀ e ∈ u.clips, e.2.playing = false))))

/-- R169, R171, R178: a line's BASE and LEN are written while EN is 0 and refused while it is 1; EN 1 is taken where LEN and the region are good. A tap's
configuration is taken, or refused where an enabled tap would change its line or its kind. DELAY_HI and DELAY_LO form a delay: with LINK 1 staged for the
group, refused by a group that glides and counted; with LINK 0 in force by itself, at the next seam while passes run. -/
def Obligations.LinesAndTaps : Prop :=
  ∀ (s : State), s.dies.field.com.runs = true →
    let f := s.dies.field
    let q := f.silt
    (∀ (l : Nat) (v : W32), l < 1024 →
      let n := tget line0 q.lines l
      let put (n : Line) : State := s.setField { f with silt := { q with lines := tput line0 q.lines l n } }
      (n.en = false → answers (.siltLineWrite l 0 v) s (fun t => t = put { n with base := v &&& 0xFFFFFFC0 })) ∧
      (n.en = false → answers (.siltLineWrite l 1 v) s (fun t => t = put { n with len := v &&& 0x07FFFFFF })) ∧
      (n.en = true → ∀ k, k < 2 → answers (.siltLineWrite l k v) s (fun t => t = put { n with refused := true })) ∧
      (bit v 0 = true → n.en = false → lineOk q l = true → answers (.siltLineWrite l 2 v) s (fun t =>
        t = put { n with en := true, uncorr := n.uncorr && !bit v 2, refused := n.refused && !bit v 1 })) ∧
      (bit v 0 = true → n.en = false → (q.ready = false ∨ fld n.len 26 0 % 16 ≠ 0 ∨ fld n.len 26 0 < 16 ∨ 2 ^ 26 < fld n.len 26 0) →
        answers (.siltLineWrite l 2 v) s (fun t => t = put { n with refused := true, uncorr := n.uncorr && !bit v 2 })) ∧
      (bit v 0 = false → answers (.siltLineWrite l 2 v) s (fun t =>
        t = put { n with en := false, restart := n.restart || n.en, uncorr := n.uncorr && !bit v 2, refused := n.refused && !bit v 1 }))) ∧
    (∀ (e : Nat) (v : W32), e < 2048 →
      let x := tget tap0 q.taps e
      let put (x : TapSt) : State := s.setField { f with silt := { q with taps := tput tap0 q.taps e x } }
      let d := x.hi.toNat * 2 ^ 32 + v.toNat
      (q.ready = true → bit x.cfg 0 = false → x.staged = none → bit x.cfg 24 = false → fld v 2 1 ≠ 3 →
        (0 < e → bit (tget tap0 q.taps (e - 1)).cfg 0 = false) → answers (.siltTapConfigWrite e v) s (fun t =>
          t = put { x with cfg := v &&& 0x01FF3FF7 })) ∧
      (bit x.cfg 0 = true → (fld v 13 4 ≠ fld x.cfg 13 4 ∨ fld v 2 1 ≠ fld x.cfg 2 1) → answers (.siltTapConfigWrite e v) s (fun t =>
        t = put { x with refused := true })) ∧
      answers (.delayHiWrite e v) s (fun t => t = put { x with hi := v &&& 0x3F }) ∧
      (bit x.cfg 24 = true → gliding f.cg (fld x.cfg 23 16) = false → answers (.delayLoWrite e v) s (fun t => t = put { x with staged := some d })) ∧
      (bit x.cfg 24 = true → gliding f.cg (fld x.cfg 23 16) = true → answers (.delayLoWrite e v) s (fun t =>
        t = s.setField { f with silt := { q with cnt := ctrAdd q.cnt 3 1 } })) ∧
      (bit x.cfg 24 = false → answers (.delayLoWrite e v) s (fun t =>
        t = put (if f.mer.running then { x with waiting := some d } else { x with waiting := none, used := d }))))

/-- R182 to R185: ARM starts the ring with nothing recorded; FREEZE sets TRIGGERED and CAUSE and marks the frame of the running pass as the trigger; after the POST frames the ring is
frozen; EN 1 is taken for a good region, EN 0 freezes an armed ring. A start or stop of good clips for a pass in time waits; one too late is refused and
counted. -/
def Obligations.CaptureAndPlayback : Prop :=
  ∀ (s : State), s.dies.field.com.runs = true →
    let f := s.dies.field
    let q := f.silt
    let c := q.cap
    (∀ v : W32, fld v 14 8 = fld c.ctl 14 8 →
      (bit v 0 = true → bit v 1 = true → bit v 2 = false → bit c.ctl 0 = true → capOk q c = true → answers (.captureArm v) s (fun t =>
        let u := t.dies.field.silt.cap
        t = s.setField { f with silt := { q with cap := u } } ∧ u.armed = true ∧ u.triggered = false ∧ u.frozen = false ∧ u.wrapped = false ∧
          u.count = 0 ∧ u.left = none ∧ u.trigWait = none ∧ u.base = c.base ∧ u.frames = c.frames ∧ u.refused = c.refused)) ∧
      (bit v 0 = true → bit v 1 = false → bit v 2 = true → bit c.ctl 0 = true → c.armed = true → c.triggered = false →
        answers (.captureFreeze v) s (fun t =>
          let u := t.dies.field.silt.cap
          t = s.setField { f with silt := { q with cap := { c with ctl := u.ctl, triggered := true, cause := 1, tpass := f.mer.pcnt, trigWait := some 1 } } } ∧ bit u.ctl 0 = true ∧
            fld u.ctl 14 8 = fld c.ctl 14 8)) ∧
      (bit v 0 = true → bit v 1 = false → bit v 2 = false → bit c.ctl 0 = false → c.armed = false → capOk q c = true →
        answers (.captureEnWrite v) s (fun t =>
          let u := t.dies.field.silt.cap
          t = s.setField { f with silt := { q with cap := { c with ctl := u.ctl } } } ∧ bit u.ctl 0 = true)) ∧
      (bit v 0 = false → bit v 1 = false → bit v 2 = false → bit c.ctl 0 = true → c.armed = true → c.triggered = false →
        answers (.captureEnWrite v) s (fun t =>
          let u := t.dies.field.silt.cap
          t = s.setField { f with silt := { q with cap := u } } ∧ bit u.ctl 0 = false ∧ u.armed = false ∧ u.frozen = true ∧ u.triggered = true ∧
            u.cause = 5))) ∧
    (c.armed = true → c.left = some 0 → answers .capturePostDone s (fun t =>
      t = s.setField { f with silt := { q with cap := { c with armed := false, frozen := true, left := none } } })) ∧
    (∀ (start : Bool) (v : W32), bit v 0 = start → bit v 1 = !start →
      let mask := q.pbMaskLo.toNat + 2 ^ 32 * q.pbMaskHi.toNat
      let p := q.pbPassLo.toNat + 2 ^ 32 * q.pbPassHi.toNat
      let tag := fld v 31 16
      let late := decide (p < 2) || isLate f.mer (p - 2)
      q.pbPend.length < 4 → mask ≠ 0 → (∀ k, k < 64 → mask.testBit k = true → clipOk q k = true ∧ ∀ r ∈ q.pbPend, r.mask.testBit k = false) →
      answers (if start then .playbackStart v else .playbackStop v) s (fun t =>
        t = s.setField { f with silt := if late then { q with pbTag := tag, pbResTag := tag, pbResult := 3, cnt := ctrAdd q.cnt 4 1 }
          else { q with pbTag := tag, pbResTag := tag, pbResult := 1, pbPend := q.pbPend ++ [PbReq.mk start mask p tag] } }))

/-! ### Serial audio ports, clocks, resampler -/

/-- R190 to R192, R197, R201, R202, R204, R206, R208, R210, R213: the settings of ports and clocks. A port takes a valid configuration, in force at once
while no pass runs, and refuses a reserved one; EN 1 waits for the next seam, EN 0 for the end of the frame; MODE, TRIM and the master clocks are taken; the
family changes only while no pass runs, and the PLL locks again after it; a resampler channel with a valid source locks. Where the oscillator's lock moves,
the host side judges its class anew (R295, log entry 61). -/
def Obligations.AudioSettings : Prop :=
  ∀ (s : State), s.dies.field.com.runs = true →
    let f := s.dies.field
    let a := f.aud
    let o := a.osc
    let only (t : State) : Prop := t = judged s (s.setField { f with com := t.dies.field.com, aud := t.dies.field.aud })
    (∀ (p : Nat) (v : W32), p < 24 →
      let x := tget sapPort0 a.ports p
      let put (x : SapPort) : State := s.setField { f with aud := { a with ports := tput sapPort0 a.ports p x } }
      (saBad v = true → answers (.sapCfgWrite p v) s (fun t => t = put { x with refused := true })) ∧
      (saBad v = false → (x.link = true → gliding f.cg x.cgrp = false) → f.mer.running = true → answers (.sapCfgWrite p v) s (fun t =>
        t = put { x with cfg := v &&& 0x7137F, dirty := true })) ∧
      (saBad v = false → (x.link = true → gliding f.cg x.cgrp = false) → f.mer.running = false → answers (.sapCfgWrite p v) s (fun t =>
        let y := tget sapPort0 t.dies.field.aud.ports p
        only t ∧ y.cfg = v &&& 0x7137F ∧ y.used = v &&& 0x7137F ∧ y.dirty = false ∧
          ∀ k, k ≠ p → let z := tget sapPort0 t.dies.field.aud.ports k
            z = { tget sapPort0 a.ports k with outL := z.outL, outR := z.outR })) ∧
      (bit v 0 = true → x.en = false → f.mer.running = true → answers (.sapEnableWrite p v) s (fun t => only t ∧
        let y := tget sapPort0 t.dies.field.aud.ports p
        y = { x with link := bit v 1, cgrp := fld v 15 8, refused := x.refused && !bit v 17, en := true, enWait := true, outL := y.outL, outR := y.outR })) ∧
      (bit v 0 = true → x.en = false → f.mer.running = false → answers (.sapEnableWrite p v) s (fun t => only t ∧
        (tget sapPort0 t.dies.field.aud.ports p).en = true ∧ (tget sapPort0 t.dies.field.aud.ports p).enWait = false)) ∧
      (bit v 0 = false → x.en = true → x.enWait = false → x.lost = false → (saGroup x.used = 0 → o.pllLock = true) →
        answers (.sapEnableWrite p v) s (fun t => only t ∧
          let y := tget sapPort0 t.dies.field.aud.ports p
          y = { x with link := bit v 1, cgrp := fld v 15 8, refused := x.refused && !bit v 17, en := false, stopWait := true, outL := y.outL, outR := y.outR }))) ∧
    (∀ v : W32, answers (.mclkCtlWrite v) s (fun t => t = s.setField { f with aud := { a with mclk := v &&& 0x707 } })) ∧
    (∀ v : W32, bit v 12 = bit o.ctl 12 → fld v 1 0 ≠ 3 → answers (.oscModeWrite v) s (fun t =>
      let u := t.dies.field.aud.osc
      only t ∧ fld u.ctl 1 0 = fld v 1 0 ∧ fld u.ctl 9 8 = fld v 9 8 ∧ bit u.ctl 12 = bit o.ctl 12 ∧ u.pllLock = o.pllLock ∧
        (fld v 1 0 ≠ fld o.ctl 1 0 → u.lock = false) ∧ t.dies.field.aud.ports = a.ports)) ∧
    (∀ v : W32, bit v 12 ≠ bit o.ctl 12 →
      (f.mer.running = false → answers (.familyWrite v) s (fun t =>
        let u := t.dies.field.aud.osc
        only t ∧ bit u.ctl 12 = bit v 12 ∧ u.pllLock = false ∧ t.dies.field.aud.ports = a.ports)) ∧
      (f.mer.running = true → answers (.familyWrite v) s (fun t =>
        let u := t.dies.field.aud.osc
        only t ∧ bit u.ctl 12 = bit o.ctl 12 ∧ u.pllLock = o.pllLock ∧ u.refused = true))) ∧
    (∀ v : W32, (v.toInt < -1000000 ∨ 1000000 < v.toInt → exec (.oscTrimWrite v) s = .next s) ∧
      (-1000000 ≤ v.toInt → v.toInt ≤ 1000000 → answers (.oscTrimWrite v) s (fun t =>
        t = s.setField { f with aud := { a with osc := { o with trim := v, slewing := decide (fld o.ctl 1 0 = 0) && decide (o.freq ≠ v) } } }))) ∧
    (fld o.ctl 1 0 = 0 → o.slewing = true → answers .oscSlewEnd s (fun t =>
      t = s.setField { f with aud := { a with osc := { o with freq := o.trim, slewing := false } } })) ∧
    (o.pllLock = false → answers .pllLock s (fun t =>
      t = s.setField { f with sns := t.dies.field.sns, aud := { a with osc := { o with pllLock := true } } } ∧
        ∀ i, snsRuns (tget snsCh0 f.sns.ch i) = true → (tget snsCh0 t.dies.field.sns.ch i).since = 0 ∧
          (tget snsCh0 t.dies.field.sns.ch i).settling = true)) ∧
    (fld o.ctl 1 0 = 2 → o.hold = false → answers .oscLocalLock s (fun t =>
      t = judged s (s.setField { f with aud := { a with osc := { o with lock := true } } }))) ∧
    (∀ j, let c := tget rsmpCh0 a.rsmp j
      let x := tget sapPort0 a.ports (c.srcUsed / 2)
      rsmpRuns c = true → c.lock = false → c.fade = .silent → sapRuns x = true → saDir x.used = false → saGroup x.used ≠ 0 → x.lost = false →
      rsmpRange f c = false → answers (.rsmpLock j) s (fun t => only t ∧
        let d := tget rsmpCh0 t.dies.field.aud.rsmp j
        d.lock = true ∧ d.fade = .into 1 ∧ d.nosrc = false ∧ d.range = false ∧ t.dies.field.aud.ports = a.ports ∧ t.dies.field.aud.osc = o))

/-- R193 to R196, R198, R199, R207, R211, R212: the frames of the ports. An input takes the W bits of each half frame that FMT names, the MSB in bit 31; a slave port's half with the wrong
number of clock edges counts as a framing error and repeats the word. A lost clock begins a fade and is reported, a returned one fades in. A frame of a slave
group moves its two buffers on; RATE is the number of frames over the time of the window.
The code words of an EVENT are open (log entry 9). -/
def Obligations.AudioFrames : Prop :=
  ∀ (s : State) (p : Nat), s.dies.field.com.runs = true → p < 24 →
    let f := s.dies.field
    let a := f.aud
    let x := tget sapPort0 a.ports p
    let put (x : SapPort) : State := s.setField { f with aud := { a with ports := tput sapPort0 a.ports p x } }
    let only (t : State) : Prop := t = judged s (s.setField { f with com := t.dies.field.com, aud := t.dies.field.aud })
    let first (c : W32) (right : Bool) : Nat :=
      (if right then saM c / 2 else 0) + (if fld c 1 0 = 0 then 1 else if fld c 1 0 = 1 then 0 else saM c / 2 - saW c)
    let word (c : W32) (sd : List Bool) (right : Bool) (w : W32) : Prop :=
      (∀ k, k < saW c → bit w (31 - k) = sd.getD (first c right + k) false) ∧ ∀ k, k < 32 - saW c → bit w k = false
    (∀ (l r : List Bool) (el er : Nat) (c : W32), saGroup x.used = 0 → a.osc.pllLock = true → x.prev = some c → saDir c = false → x.badL = false →
      x.badR = false → answers (.sapBallFrame p l r el er) s (fun t =>
        let y := tget sapPort0 t.dies.field.aud.ports p
        t = put { x with curL := y.curL, curR := y.curR, rep := false, framing := x.framing % 65536 } ∧ word c (l ++ r) false y.curL ∧ word c (l ++ r) true y.curR)) ∧
    (∀ (l r : List Bool) (el er : Nat) (c : W32), saGroup x.used ≠ 0 → sapRuns x = true → x.lost = false → x.stopWait = false → x.cur = some c →
      saDir c = false → x.badL = false → x.badR = false → answers (.sapBallFrame p l r el er) s (fun t =>
        let y := tget sapPort0 t.dies.field.aud.ports p
        let okL := decide (el = saM c / 2)
        let okR := decide (er = saM c / 2)
        t = s.setField { f with aud := { a with ports := tput sapPort0 a.ports p y, rsmp := t.dies.field.aud.rsmp } } ∧
          (if okL then word c (l ++ r) false y.curL else y.curL = x.curL) ∧ (if okR then word c (l ++ r) true y.curR else y.curR = x.curR) ∧
          y.rep = (!okL || !okR) ∧ y.framing = (x.framing + b2n (!okL) + b2n (!okR)) % 65536)) ∧
    (sapRuns x = true → saGroup x.used ≠ 0 → x.lost = false →
      (∀ right, answers (.sapGlitch p right) s (fun t =>
        t = put { x with badL := x.badL || !right, badR := x.badR || right, glitch := (x.glitch + 1) % 65536 })) ∧
      (x.stopWait = false → x.fade = .full → answers (.sapClockLost p) s (fun t => only t ∧
        tget sapPort0 t.dies.field.aud.ports p =
          { x with lost := true, recover := false, badL := false, badR := false, outL := 0, outR := 0, fade := .out 1 } ∧
        evWords .sapLost [w32 p, 1] ∈ t.dies.field.com.events))) ∧
    (sapRuns x = true → saGroup x.used ≠ 0 → x.lost = true → x.fade = .silent → answers (.sapClockReturn p) s (fun t => only t ∧
      (let y := tget sapPort0 t.dies.field.aud.ports p
       y = { x with lost := false, recover := false, fade := .into 1, outL := y.outL, outR := y.outR }) ∧
      evWords .sapLost [w32 p, 0] ∈ t.dies.field.com.events)) ∧
    (∀ g, 1 ≤ g → g ≤ 4 → groupActive a g = true →
      let q := tget sapGroup0 a.groups g
      (q.fill ≠ 64 → q.ofill ≠ 0 → answers (.groupFrame g) s (fun t => t = s.setField { f with aud := t.dies.field.aud } ∧
        tget sapGroup0 t.dies.field.aud.groups g =
          { q with wr := (q.wr + 1) % 64, fill := q.fill + 1, ord := (q.ord + 1) % 64, ofill := q.ofill - 1 } ∧
        (groupPorts a g false = [p] → tget 0 t.dies.field.aud.inRing ((64 * g + q.wr) * 128 + 2 * p) = x.curL ∧
          tget 0 t.dies.field.aud.inRing ((64 * g + q.wr) * 128 + 2 * p + 1) = x.curR))) ∧
      (q.fill = 64 → q.ofill = 0 → answers (.groupFrame g) s (fun t => t = s.setField { f with aud := t.dies.field.aud } ∧
        t.dies.field.aud.inRing = a.inRing ∧
        tget sapGroup0 t.dies.field.aud.groups g = { q with inOver := (q.inOver + 1) % 256, outUnder := (q.outUnder + 1) % 256 }))) ∧
    (∀ frames ticks, sapRuns x = true → 2 ≤ frames → 0 < ticks → answers (.rateWindow p frames ticks) s (fun t => only t ∧
      let r := (frames - 1) * 125000000 * 16384 / ticks
      let y := tget sapPort0 t.dies.field.aud.ports p
      y.rate = w32 r ∧ y.dev = BitVec.ofInt 16 (rateDev r (rateCode r)) ∧ y.cand = rateCode r ∧
        y.code = (if rateCode r = x.cand then rateCode r else x.code) ∧ y.cfg = x.cfg ∧ y.used = x.used ∧ y.lost = x.lost))

/-! ### The sounding chain and the pilot DACs -/

/-- R217, R218, R220, R225 to R230: the settings of sense channels and what a boundary delivers. A configuration and the FIR taps are staged while passes run;
EN 1 waits for the next seam; the STEP preset delivers at every sixteenth tick the sum of its last 1,024 bits times 2^21, limited, of the bits after a
restart alone; a stuck input is counted and reported. -/
def Obligations.SenseChannels : Prop :=
  ∀ (s : State) (i : Nat), s.dies.field.com.runs = true → i < 32 →
    let f := s.dies.field
    let q := f.sns
    let c := tget snsCh0 q.ch i
    let put (c : SnsCh) : FieldDie := { f with sns := { q with ch := tput snsCh0 q.ch i c } }
    (∀ v : W32, (c.link = true → gliding f.cg c.cgrp = false) → f.mer.running = true → answers (.snsCfgWrite i v) s (fun t =>
      t = s.setField (put { c with cfg := v &&& 0x733, dirty := true }))) ∧
    (∀ v : W32, c.link = true → gliding f.cg c.cgrp = true → answers (.snsCfgWrite i v) s (fun t => t = s.setField (put { c with refused := true }))) ∧
    (∀ v : W32, bit v 0 = true → c.en = false → f.mer.running = true → answers (.snsEnableWrite i v) s (fun t =>
      t = s.setField (put { c with link := bit v 1, cgrp := fld v 15 8, refused := c.refused && !bit v 17, en := true, enWait := true }))) ∧
    (∀ v : W32, bit v 0 = false → c.en = true → c.enWait = true → answers (.snsEnableWrite i v) s (fun t =>
      t = s.setField (put { c with link := bit v 1, cgrp := fld v 15 8, refused := c.refused && !bit v 17, en := false, enWait := false }))) ∧
    (∀ v : W32, answers (.smclkWrite v) s (fun t => t = s.setField { f with sns := t.dies.field.sns } ∧ t.dies.field.sns.smclk = v &&& 0xF ∧
      ((∀ e ∈ q.ch, e.2.stopWait = false) → t = s.setField { f with sns := { q with smclk := v &&& 0xF, ch := t.dies.field.sns.ch } } ∧
        ((v ^^^ q.smclk) &&& 0xA = 0 → t.dies.field.sns.ch = q.ch)))) ∧
    (∀ bits : List Bool, bits.length = 64 → snsRuns c = true → smclkOn f i = true → fld c.used 1 0 = 3 → c.stopWait = false → c.fadeFrom = none →
      c.fadeI = 0 → answers (.senseBoundary i bits) s (fun t =>
        let sum (l : List Bool) : Int := l.foldl (fun (a : Int) b => a + (if b != bit c.used 5 then 1 else -1)) 0
        let skip := if c.since = 0 ∧ c.settling = true then 64 - c.head else 0
        let box := (sum (bits.drop skip) :: c.box).take 16
        let out := f.mer.pcnt % 16 = 0 ∧ 1024 ≤ c.since + c.head
        let word := BitVec.ofInt 32 (min (max (box.foldl (· + ·) 0 * 2 ^ 21) (-2 ^ 31)) (2 ^ 31 - 1))
        t = s.setField (put { c with since := c.since + 64, box := box, fresh := if out then some word else c.fresh, settling := if out then false else c.settling }))) ∧
    (∀ bits : List Bool, bits.length = 64 → (snsRuns c = false ∨ smclkOn f i = false) → exec (.senseBoundary i bits) s = .next s) ∧
    (∀ recent, snsRuns c = true → c.stuck = false → answers (.stuck i recent) s (fun t =>
      let g := put { c with stuck := true, stucks := (c.stucks + 1) % 65536 }
      t = s.setField (if recent then g else fieldEvent g .stuck [w32 i, 1]))) ∧
    (∀ recent, c.stuck = true → answers (.stuckClear i recent) s (fun t =>
      let g := put { c with stuck := false }
      t = s.setField (if recent then g else fieldEvent g .stuck [w32 i, 0]))) ∧
    (∀ (set tap : Nat) (v : W32), set < 8 → tap < 32 → f.mer.running = true → (bit q.firCtl 0 = true → gliding f.cg (fld q.firCtl 15 8) = false) →
      answers (.snsFirWrite set tap v) s (fun t =>
        let u := t.dies.field.sns
        t = s.setField { f with sns := { q with firSh := u.firSh, firDirty := q.firDirty ||| 2 ^ set } } ∧ firTap u.firSh (32 * set + tap) = v ∧
          ∀ k, k ≠ 32 * set + tap → firTap u.firSh k = firTap q.firSh k))

/-- R233 to R240: the pilot DACs. A load takes the code of the source, through the deglitcher where the major bits change; EN 0 and a span change load the
safe code, the span sequence ends with a load in the new span; low supplies load the safe code in every enabled channel and are reported; the sine generator
advances its phase at every update edge; a sync for a tick in time waits, one too late is refused.
The code words of an EVENT are open (log entry 9). -/
def Obligations.PilotDacs : Prop :=
  ∀ (s : State) (c : Nat), s.dies.field.com.runs = true → c < 8 →
    let f := s.dies.field
    let p := f.pil
    let d := tget pdac0 p.ch c
    let put (d : Pdac) : State := s.setField { f with pil := { p with ch := tput pdac0 p.ch c d } }
    let live := bit d.ctl 0 = true ∧ d.spanSeq = 0 ∧ p.supplyLow = false
    let code (v : Nat) : W16 := BitVec.ofNat 16 v
    let held (k : W16) : Bool := bit d.ctl 6 && decide (majorBits d.spanUsed k ≠ majorBits d.spanUsed d.conv)
    let load (d : Pdac) (k : W16) : Pdac :=
      if held k then { d with conv := k, holding := true } else if d.holding ∧ bit d.ctl 6 = true then { d with conv := k } else { d with conv := k, level := k, holding := false }
    (∀ v : W32, live → fld d.ctl 2 1 = 0 → answers (.pdacCodeWrite c v) s (fun t => t = put (load { d with code := v &&& 0xFFFF } (code v.toNat)))) ∧
    (∀ v : W32, bit d.ctl 0 = false → answers (.pdacCodeWrite c v) s (fun t => t = put { d with code := v &&& 0xFFFF })) ∧
    (∀ v : W32, live → fld d.ctl 2 1 = 0 → answers (.pdacAmpWrite c v) s (fun t =>
      t = put (load { d with amp := v &&& 0xFFFF } (code d.code.toNat)))) ∧
    (∀ v : W32, answers (.pdacFtwWrite c v) s (fun t => t = put { d with ftw := v })) ∧
    (∀ v : W32, bit v 0 = false → fld v 5 4 ≠ 3 → fld v 5 4 = d.spanUsed → answers (.pdacEnWrite c v) s (fun t =>
      t = put { d with ctl := (tget pdac0 t.dies.field.pil.ch c).ctl, conv := 0, level := 0, holding := false } ∧
        bit (tget pdac0 t.dies.field.pil.ch c).ctl 0 = false)) ∧
    (∀ v : W32, live → bit v 0 = true → fld v 5 4 = fld d.ctl 5 4 → fld d.ctl 5 4 = d.spanUsed → fld v 2 1 = 0 → fld d.ctl 2 1 ≠ 0 →
      bit v 6 = bit d.ctl 6 → answers (.pdacSrcWrite c v) s (fun t =>
        let u := (tget pdac0 t.dies.field.pil.ch c).ctl
        t = put (load { d with ctl := u } (code d.code.toNat)) ∧ fld u 2 1 = 0 ∧ bit u 0 = true)) ∧
    (∀ v : W32, bit v 0 = true → bit d.ctl 0 = true → fld v 2 1 = fld d.ctl 2 1 → d.spanSeq = 0 → fld v 5 4 ≠ 3 → fld v 5 4 ≠ d.spanUsed →
      answers (.pdacSpanWrite c v) s (fun t =>
        let u := (tget pdac0 t.dies.field.pil.ch c).ctl
        t = put { d with ctl := u, conv := 0, level := 0, holding := false, spanSeq := 1 } ∧ fld u 5 4 = fld v 5 4)) ∧
    (d.spanSeq = 1 → answers (.pdacSpanClamp c) s (fun t => t = put { d with spanSeq := 2 })) ∧
    (d.spanSeq = 2 → bit d.ctl 0 = true → p.supplyLow = false → answers (.pdacSpanRelease c) s (fun t =>
      let e := tget pdac0 t.dies.field.pil.ch c
      t = put e ∧ e.spanSeq = 0 ∧ e.spanUsed = fld d.ctl 5 4 ∧ e.conv = (formCode { d with spanUsed := fld d.ctl 5 4 }).1)) ∧
    (d.holding = true → answers (.deglitchHoldEnd c) s (fun t => t = put { d with holding := false, level := d.conv })) ∧
    (∀ avdd avss, (avdd && avss) = false → p.supplyLow = false → answers (.supplyLow avdd avss) s (fun t =>
      let g := t.dies.field
      t = s.setField { f with pil := g.pil, com := g.com } ∧ g.pil.supplyLow = true ∧
        evWords .supplyLow [w32 (b2n avdd + 2 * b2n avss)] ∈ g.com.events ∧
        ∀ e ∈ g.pil.ch, bit e.2.ctl 0 = true → e.2.conv = 0 ∧ e.2.level = 0 ∧ e.2.holding = false)) ∧
    (p.supplyLow = true → answers .supplyRecover s (fun t =>
      t = s.setField { f with pil := t.dies.field.pil } ∧ t.dies.field.pil.supplyLow = false ∧
        ∀ e ∈ t.dies.field.pil.ch, bit e.2.ctl 0 = true → e.2.spanSeq = 0 → e.2.conv = (formCode e.2).1)) ∧
    (∀ u, u < 16 → f.aud.osc.pllLock = true → p.pend = [] → answers (.sineUpdate u) s (fun t =>
      let e := tget pdac0 t.dies.field.pil.ch c
      t = s.setField { f with pil := { p with ch := t.dies.field.pil.ch } } ∧
        (bit d.ctl 0 = true → e.phi = d.phi + d.ftw ∧ e.sine = sineOf e.phi d.amp) ∧ (bit d.ctl 0 = false → e = d))) ∧
    (∀ v : W32, bit v 0 = true →
      let n := p.syncLo.toNat + 2 ^ 32 * p.syncHi.toNat
      let mask := p.syncMask.toNat % 256
      let tag := fld v 31 16
      p.pend.length < 2 → mask ≠ 0 → (∀ r ∈ p.pend, (r.mask &&& p.syncMask.toNat) % 256 = 0) →
      answers (.syncReq v) s (fun t =>
        t = s.setField { f with pil := if n = 0 ∨ isLate f.mer (n - 1) = true then { p with syncTag := tag, resTag := tag, result := 3 }
          else { p with syncTag := tag, resTag := tag, result := 1, pend := p.pend ++ [⟨mask, n, tag⟩] } }))

/-! ### Causeway -/

/-- R41, R243 to R245, R251, R255, R257, R273: the links. A link that comes up takes its role and sends CINIT, with no credit yet; one that goes down loses
credits, buffers and queue, and a downstream loss is told upward; AUTO tries the other speed; EN 0 takes ports down, and frames that waited whole return
aborted; AUDIT_NOW sends CAUDIT, which takes the SENT count as it leaves, on every port;
the MDIO master runs one command at a time.
The codes and contents of the frames of class A are the model's (log entry 14). -/
def Obligations.CausewayLinks : Prop :=
  ∀ (s : State) (x : Port), s.dies.host.com.runs = true →
    let h := s.dies.host
    let n := portNo x
    let p := cwPort h.cw n
    let audit (t : State) : Prop := ∀ y, y < 3 → cwPort t.dies.host.cw y =
      (if portUp h.cw y && portSends h.cw y 4 then { cwPort h.cw y with txq := (cwPort h.cw y).txq ++ [cwCountA 2] } else cwPort h.cw y)
    let kept (v : W32) : W32 := v &&& 0xFFFF0131
    (∀ speed an rem, portEn h.cw n = true → p.link = false → (fld p.pctl 1 0 = 2 ∨ fld p.pctl 1 0 = b2n speed) → (bit p.pctl 4 = true → an = true) →
      (h.cw.discSeen = false ∨ speed = h.cw.sys1000) → isPlain h.cw n = false → h.cw.onStandby = false → answers (.portLinkUp x speed an rem) s (fun t =>
        let g := t.dies.host
        let q := cwPort g.cw n
        t = s.setHost { h with cw := g.cw, dt := g.dt } ∧ q.link = true ∧ q.speed1000 = speed ∧ q.peer = false ∧
          q.role = (if n = 0 then 0 else if fld h.cw.ctrl 5 4 = n then 2 else 1) ∧ cwFree q = 0 ∧ q.txq = [cwA 5 []] ∧
          (tget dtPort0 g.dt.ports n).calDone = false ∧ ∀ y, y < 3 → y ≠ n → cwPort g.cw y = cwPort h.cw y)) ∧
    (p.link = true → answers (.portLinkDown x) s (fun t =>
      let q := cwPort t.dies.host.cw n
      t = s.setHost t.dies.host ∧ q.link = false ∧ q.peer = false ∧ q.sent = 0 ∧ q.acct = 0 ∧ q.rel = 0 ∧ q.held = 0 ∧ q.txq = [] ∧ q.reasm = none ∧
        q.pctl = p.pctl ∧
        (∀ u, p.role = 1 → isPlain h.cw n = false → routedTo h.cw (toPort n) ≠ [] → h.cw.isHead = false → upPort h.cw = some u →
          cwE 8 (bytesBE 1 n ++ runBytes (runsOf (routedTo h.cw (toPort n)))) ∈ (cwPort t.dies.host.cw u).txq))) ∧
    (p.link = false → fld p.pctl 1 0 = 2 → answers (.speedTryTimeout x) s (fun t => t = s.setHost (withPort h n { p with try1000 := !p.try1000 }))) ∧
    (∀ v : W32, fld v 1 0 ≠ 3 →
      let put (p : CwPort) : CwPort := { p with pctl := v &&& (if n = 2 then 0x37 else 0x17) }
      (bit v 2 = true → bit h.cw.ctrl 0 = true → answers (.portEnWrite x v) s (fun t => t = s.setHost (withPort h n (put p)))) ∧
      (bit v 2 = false → answers (.portEnWrite x v) s (fun t =>
        let q := cwPort t.dies.host.cw n
        t = s.setHost t.dies.host ∧ q.pctl = (put p).pctl ∧ q.link = false ∧ q.sent = 0 ∧ q.txq = [] ∧ ((∀ u ∈ p.txq, u.done = 0) → q.returned = p.txq) ∧
          ∀ y, y < 3 → y ≠ n → (cwPort t.dies.host.cw y).link = (cwPort h.cw y).link ∧ (cwPort t.dies.host.cw y).role = (cwPort h.cw y).role ∧
            (cwPort t.dies.host.cw y).pctl = (cwPort h.cw y).pctl))) ∧
    (∀ v : W32, fld v 5 4 ≠ 3 → fld v 5 4 = fld h.cw.ctrl 5 4 →
      (bit v 0 = false → bit v 2 = false → bit v 3 = false → answers (.cwEnWrite v) s (fun t =>
        let c := t.dies.host.cw
        t = s.setHost t.dies.host ∧ c.ctrl = kept v ∧ c.state = 0 ∧
          ∀ y, y < 3 → (cwPort c y).link = false ∧ (cwPort c y).sent = 0 ∧ (cwPort c y).txq = [] ∧ (cwPort c y).pctl = (cwPort h.cw y).pctl)) ∧
      (bit v 0 = true → bit v 2 = true → bit v 3 = false → answers (.cwAuditNow v) s (fun t =>
        t = s.setHost { h with cw := { h.cw with ctrl := kept v, ports := t.dies.host.cw.ports } } ∧ audit t)) ∧
      (bit v 0 = true → bit v 2 = false → bit v 3 = true → h.cw.isHead = true → answers (.reenum v) s (fun t =>
        let g := t.dies.host
        t = s.setHost { h with cw := g.cw } ∧ g.cw.enumNo = (h.cw.enumNo + 1) % 65536 ∧ g.cw.toReport = true ∧ g.cw.awaiting = false ∧ g.cw.ctrl = kept v ∧
          ∀ y, y ∈ portsIn h.cw 1 → (tget dtPort0 h.dt.ports y).calDone = true →
            cwE 1 (discoverBody g true) ∈ (cwPort g.cw y).txq ∧ (cwPort g.cw y).asked = true))) ∧
    answers .cauditSend s (fun t => t = s.setHost { h with cw := { h.cw with ports := t.dies.host.cw.ports } } ∧ audit t) ∧
    (∀ v : W32, let c := h.cw
      (c.mdioBusy = false → answers (.mdioGo v) s (fun t => t = s.setHost { h with cw := { c with mdioCmd := v &&& 0x7FFCFFFF, mdioRef := c.mdioRef && !bit v 17, mdioBusy := bit v 31, mdioAddr := bit v 31 && bit v 30 && decide (fld v 29 28 ≠ 0) } })) ∧
      (c.mdioBusy = true → answers (.mdioGo v) s (fun t => t = s.setHost { h with cw := { c with mdioRef := true } }))) ∧
    (∀ r, h.cw.mdioBusy = true → answers (.mdioFrameDone r) s (fun t =>
      let c := t.dies.host.cw
      t = s.setHost { h with cw := { h.cw with mdioCmd := c.mdioCmd, mdioBusy := c.mdioBusy, mdioAddr := false } } ∧ c.mdioBusy = h.cw.mdioAddr ∧
        (h.cw.mdioAddr = false → bit h.cw.mdioCmd 30 = false → fld h.cw.mdioCmd 29 28 = 2 → fld c.mdioCmd 15 0 = r.toNat) ∧
        (h.cw.mdioAddr = false → bit h.cw.mdioCmd 30 = true → 2 ≤ fld h.cw.mdioCmd 29 28 → fld c.mdioCmd 15 0 = r.toNat)))

/-- R249, R250, R260 to R267, R270: stream and return frames. A valid S frame in its window goes on, with the sending port's address, on every downstream port and is taken apart
through the slot map; a missed one is counted; the oldest frame held goes to the Weir. A child's U frame in its window is kept, and the node's own U frame
carries for each slot what the token table says. The head forms S frames from the merged U frame LOOP periods before. -/
def Obligations.CausewayStreams : Prop :=
  ∀ (s : State) (x : Port) (f : CwRx), s.dies.host.com.runs = true →
    let h := s.dies.host
    let c := h.cw
    (cwGood h (portNo x) 0 f → (cwPort c (portNo x)).role = 0 → -1000 ≤ f.dev → f.dev ≤ 1000 → c.state ≠ 0 →
      (∀ q, c.lastS = some q → hSeq f.hdr = nextSeq h q) → answers (.sFrame x f []) s (fun t =>
        let d := t.dies.host.cw
        let ws := wordsBE (cwBody f)
        let n := periodAt h (hSeq f.hdr)
        let sent (y : Nat) : CwOut := { dst := f.dst.toNat, src := myMac h y, etype := f.etype.toNat, hdr := f.hdr, payload := cwBody f, pad := f.payload.length - (cwBody f).length, cut := false }
        t = s.setHost t.dies.host ∧ d.missed = 0 ∧ d.lastS = some (hSeq f.hdr) ∧ d.tookS = some (hSeq f.hdr) ∧ d.state = c.state ∧
          (∀ y, y ∈ portsIn c 1 → (cwPort d y).out = sent y :: (cwPort c y).out) ∧
          (c.slotMap.pend = none → ∃ g, d.held.getLast? = some g ∧ g.seq = hSeq f.hdr ∧ g.slots.length = n * 128 ∧
            ∀ i j, i < n → j < 128 → wAt g.slots (i * 128 + j) =
              (let e := tget 0 c.slotMap.act j
               if e.testBit 15 = true ∧ e % 1024 < ws.length / n then wAt (ws.drop (i * (ws.length / n))) (e % 1024) else 0)))) ∧
    (c.isHead = false → answers .sFrameMissing s (fun t => t = s.setHost { h with cw := { c with cnt := ctrAdd c.cnt 0 1, missed := c.missed + 1, lastS := c.lastS.map (nextSeq h) } })) ∧
    (∀ late g gs, c.held = g :: gs → c.state ≠ 0 → h.com.weir.farPresent = true → answers (.streamInHandoff late) s (fun t =>
      let w := h.com.weir
      t = s.setHost { h with cw := { c with held := gs, cnt := if late then ctrAdd c.cnt 1 1 else c.cnt }, com := { h.com with weir := { w with queue := w.queue ++ [⟨0, 0, 0, w32 g.seq :: w32 (periodAt h g.seq + 4 * b2n g.fill) :: g.slots⟩] } } })) ∧
    (cwGood h (portNo x) 1 f → -320 ≤ f.dev → f.dev ≤ 320 → answers (.uFrame x f) s (fun t =>
      let g := cwHeard h (portNo x) f
      t = s.setHost { g with cw := { g.cw with children := (portNo x, ⟨hSeq f.hdr, (hFlags f.hdr).testBit 0, wordsBE (cwBody f)⟩) :: c.children.filter (fun e => decide (e.1 ≠ portNo x)) } })) ∧
    (∀ u, c.slead ≠ 0 → c.ulag ≠ 0 → c.state ≠ 0 → c.noaddr = false → c.isHead = false → upPort c = some u → c.pend = [] → c.retMap.pend = none →
      answers (.uFrameSend false) s (fun t =>
        let d := t.dies.host.cw
        let m := match c.sentU with | some q => nextSeq h q | none => (h.dt.tick / hPeriod h * hPeriod h) % 2 ^ 32
        let n := periodAt h m
        let k := slotsAt h m
        let held := c.rets.find? (fun e => decide (e.1 % 2 ^ 32 = (m + 2 ^ 32 - n) % 2 ^ 32))
        let ret := (held.map (·.2)).getD []
        t = s.setHost t.dies.host ∧ d.sentU = some m ∧ (held = none → ctrGet d.cnt 2 = ctrGet (ctrAdd c.cnt 2 1) 2) ∧
          ∃ o ws, (cwPort d u).out = o :: (cwPort c u).out ∧ hClass o.hdr = 1 ∧ hSeq o.hdr = m % 2 ^ 32 ∧ (held = none → (hFlags o.hdr).testBit 0 = true) ∧
          o.dst = cwMac ∧ o.src = myMac h u ∧ o.etype = c.etype ∧
          o.payload = beWords ws ∧ ws.length = n * k ∧ ∀ i j, i < n → j < k →
            (tget 0 c.tokens j = 0 → wAt ws (i * k + j) = 0) ∧
            (tget 0 c.tokens j = 1 → wAt ws (i * k + j) = ownReturn c c.retMap ret i j k) ∧
            (∀ y g, tget 0 c.tokens j = y + 2 → c.children.find? (fun e => decide (e.1 = y) && decide (e.2.seq = m)) = some (y, g) →
              wAt ws (i * k + j) = wAt g.slots (i * k + j)))) ∧
    (∀ q u, c.isHead = true → c.slead ≠ 0 → c.ulag ≠ 0 → c.srcMap.pend = none → c.formedS = some q → loopMin h ≤ cwLoop c →
      let m := nextSeq h q
      let n := periodAt h m
      let k := slotsAt h m
      c.merged.find? (fun g => decide ((g.seq + cwLoop c * n) % 2 ^ 32 = m)) = some u → answers (.sFrameSend []) s (fun t =>
        let d := t.dies.host.cw
        t = s.setHost t.dies.host ∧ d.formedS = some m ∧ d.tookS = some m ∧ ∀ y, y ∈ portsIn c 1 → ∃ o ws, (cwPort d y).out = o :: (cwPort c y).out ∧
          hClass o.hdr = 0 ∧ hSeq o.hdr = m ∧ (hFlags o.hdr).testBit 0 = u.fill ∧ o.payload = beWords ws ∧ ws.length = n * k ∧
          ∀ i j, i < n → j < k → wAt ws (i * k + j) =
            (let e := tget 0 c.srcMap.act j
             if e.testBit 15 = true ∧ e % 512 < k then wAt (u.slots.drop (i * k)) (e % 512) else 0)))

/-- R250, R251, R258, R271 to R273: what goes between the stream frames. A ready frame of class T, A or E that fits its gap leaves without a credit; a V or
P frame takes one credit, and leaves whole where it fits, an audit with the SENT count of that moment; with nothing ready, releases leave in a CREL_ONLY. A whole V frame for another node goes on
toward it; a P frame goes to the port its destination was learnt on, and its source is learnt. -/
def Obligations.CausewayGaps : Prop :=
  ∀ (s : State) (x : Port) (f : CwRx), s.dies.host.com.runs = true →
    let h := s.dies.host
    let n := portNo x
    let p := cwPort h.cw n
    (∀ u room time, p.link = true → isPlain h.cw n = false → (∀ t ∈ p.txq, portSends h.cw n t.cls = true) → p.ackDue = false → nextTx p = some u → u.done = 0 → u.frag = 0 → gapNeed u.payload.length ≤ room → u.cls ≠ 2 →
      u.cls ≠ 0 →
      answers (.gapFrameSend x room time) s (fun t =>
        let q := cwPort t.dies.host.cw n
        t = s.setHost { h with cw := { h.cw with ports := t.dies.host.cw.ports } } ∧ q.txq = txqPut p.txq u none ∧
          q.sent = (if u.cls = 3 ∨ u.cls = 6 then (p.sent + 1) % 256 else p.sent) ∧ q.relSent = p.rel ∧
          (∃ o, q.out = o :: p.out ∧ o.payload = (if u.count = true ∧ u.cls ≠ 3 ∧ u.cls ≠ 6 then u.payload ++ bytesBE 1 p.sent else u.payload) ∧ o.cut = false ∧
            o.dst = cwMac ∧ o.src = myMac h n ∧ o.etype = h.cw.etype ∧ o.pad = 30 - o.payload.length ∧ (u.cls < 7 → hClass o.hdr = u.cls) ∧
            (u.cls = 3 ∨ u.cls = 6 → hFlags o.hdr = 0x60)) ∧ ∀ y, y < 3 → y ≠ n → cwPort t.dies.host.cw y = cwPort h.cw y)) ∧
    (∀ room time, p.link = true → isPlain h.cw n = false → (∀ t ∈ p.txq, portSends h.cw n t.cls = true) → p.ackDue = false → portSends h.cw n 4 = true → nextTx p = none → p.rel ≠ p.relSent → gapNeed 0 ≤ room →
      answers (.gapFrameSend x room time) s (fun t =>
        let q := cwPort t.dies.host.cw n
        t = s.setHost { h with cw := { h.cw with ports := t.dies.host.cw.ports } } ∧ q.relSent = p.rel ∧ q.sent = p.sent ∧ q.txq = p.txq ∧
          ∃ o, q.out = o :: p.out ∧ o.payload = [] ∧ hClass o.hdr = 4 ∧ hCrel o.hdr = p.rel % 256)) ∧
    (∀ y, cwGood h n 3 f → cwWhole f → p.reasm = none → (cwBody f).length ≤ 1024 → hDmode f.hdr = 0 → h.cw.state ≠ 0 → (h.cw.noaddr = true ∨ hDst f.hdr ≠ h.cw.addr) →
      p.role = 0 → routePort h.cw (hDst f.hdr) = some y → y ≠ n → (cwPort h.cw y).link = true → portSends h.cw y 3 = true → answers (.vFrame x f) s (fun t =>
        let d := t.dies.host.cw
        t = s.setHost { h with cw := { h.cw with ports := d.ports } } ∧ (cwPort d n).acct = (p.acct + 1) % 256 ∧ (cwPort d n).rel = (p.rel + 1) % 256 ∧
          (cwPort d n).held = p.held ∧
          (cwPort d y).txq = (cwPort h.cw y).txq ++ [{ cwTx 3 0 (hDst f.hdr) (cwBody f) with src := some (beAt f.hdr 2 2) }])) ∧
    (∀ y, cwGood h n 6 f → cwWhole f → p.reasm = none → (cwBody f).length ≤ 2000 → forwards h.cw = true → (beAt (cwBody f) 0 1).testBit 0 = false → beAt (cwBody f) 0 6 ≠ myMac h 3 →
      beAt (cwBody f) 0 6 ≠ beAt (cwBody f) 6 6 → h.cw.learn.find? (fun e => decide (e.1 = beAt (cwBody f) 0 6)) = some (beAt (cwBody f) 0 6, y) → y ≠ n → y < 3 →
      h.cw.learn.length < 1024 → (cwPort h.cw y).link = true → portSends h.cw y 6 = true → answers (.pFrame x f) s (fun t =>
        let d := t.dies.host.cw
        t = s.setHost { h with cw := { h.cw with ports := d.ports, learn := d.learn } } ∧ (beAt (cwBody f) 6 6, n) ∈ d.learn ∧
          (cwPort d n).rel = (p.rel + 1) % 256 ∧
          (cwPort d y).txq = (cwPort h.cw y).txq ++ [{ cwTx 6 3 0 (cwBody f) with plain := isPlain h.cw y }])) ∧
    (∀ mac, answers (.learnAge mac) s (fun t =>
      t = s.setHost { h with cw := { h.cw with learn := h.cw.learn.filter (fun e => decide (e.1 ≠ mac.toNat)) } }))

/-- R252 to R257, R259, R263, R274, R297: enumeration. A DISCOVER from upstream gives a node its head, depth, path and leads and goes on down; the head
sends it on every calibrated downstream port; a node with HEAD_EN that hears none becomes head; REPORTs are recorded and passed up, one repeated has its
ASSIGN sent again, and one of a subtree that comes late goes up as a join; an ASSIGN answers the oldest REPORT sent up, its own first address or the port's
runs; a LEAVE holds addresses at the head until their time ends; a node left alone becomes AUTONOMOUS, in holdover once it has been locked.
The code words of an EVENT and the codes of class A frames are open (log entries 9 and 14). -/
def Obligations.CausewayEnumeration : Prop :=
  ∀ (s : State) (x : Port) (f : CwRx) (b : List Byte), s.dies.host.com.runs = true →
    let h := s.dies.host
    let c := h.cw
    let n := portNo x
    (cwMsg h n 5 1 b f → (cwPort c n).role = 0 → c.isHead = false → b.length = 33 → beAt b 27 2 < 4095 → answers (.discover x f) s (fun t =>
      let g := t.dies.host
      t = s.setHost g ∧ g.cw.headUdn = beAt b 0 8 ∧ g.cw.sys = beAt b 7 1 ∧ g.leg.epoch = w32 (beAt b 8 4) ∧ g.cw.enumNo = beAt b 12 2 ∧
        g.cw.discRate = beAt b 14 1 ∧ g.cw.sys1000 = (beAt b 15 1).testBit 1 ∧ g.cw.slead = beAt b 19 4 % 2 ^ 20 ∧ g.cw.ulag = beAt b 23 4 % 2 ^ 20 ∧
        fld g.cw.stream 9 0 = beAt b 16 2 % 1024 ∧ fld g.cw.stream 19 16 = beAt b 18 1 % 16 ∧ g.cw.discSeen = true ∧ g.cw.depth = beAt b 27 2 + 1 ∧ g.cw.path = beAt b 29 4 + (tget dtPort0 h.dt.ports n).pdly.toNat ∧
        (c.overflow = false → (c.state = 0 ∨ c.state = 4) → g.cw.state = 1))) ∧
    (cwMsg h n 5 1 b f → (cwPort c n).role = 1 → b.length = 33 → answers (.discover x f) s (fun t =>
      let g := t.dies.host
      t = s.setHost g ∧ (cwPort g.cw n).role = 3 ∧ g.cw.conflict = (c.conflict || (c.isHead && decide (beAt b 27 2 = 0))) ∧
        evWords .loop [w32 n] ∈ g.com.events)) ∧
    (c.isHead = true → answers .discoverSend s (fun t =>
      t = s.setHost { h with cw := { c with ports := t.dies.host.cw.ports } } ∧
        queuedOn h t.dies.host (fun y => isDown h y && (tget dtPort0 h.dt.ports y).calDone) (cwE 1 (discoverBody h false)))) ∧
    (bit c.ctrl 8 = true → bit c.ctrl 0 = true → c.isHead = false → c.state = 0 → answers .headListenTimeout s (fun t =>
      let g := t.dies.host
      t = s.setHost g ∧ g.cw.isHead = true ∧ g.cw.addr = 0 ∧ g.cw.noaddr = false ∧ g.cw.depth = 0 ∧ g.cw.path = 0 ∧
        (h.leg.stopped = false → profVal h 0x0B 0 ≠ 1 → g.cw.state = 3) ∧
        g.cw.headUdn = h.com.fuses.udn.toNat ∧ g.cw.sys = h.com.fuses.udn.toNat % 256 ∧ g.cw.enumNo = (c.enumNo + 1) % 65536 ∧
        (h.leg.savedEp.toNat < 2 ^ 32 - 1 → h.leg.discEp.toNat < 2 ^ 32 - 1 → h.leg.savedEp.toNat < g.leg.epoch.toNat ∧
          h.leg.discEp.toNat < g.leg.epoch.toNat))) ∧
    (cwMsg h n 5 2 b f → (cwPort c n).role = 1 → b.length = 21 → (beAt b 20 1).testBit 0 = false → c.isHead = false → c.toReport = false →
      let g := cwHeard h n f
      let now : CwPort := { cwPort g.cw n with report := some ⟨beAt b 0 2, beAt b 2 8, beAt b 10 2, beAt b 12 4, beAt b 16 4, beAt b 20 1⟩ }
      let here := beAt b 0 2 = c.enumNo ∧ (beAt b 20 1).testBit 1 = false
      (¬ here → answers (.report x f) s (fun t => t = s.setHost (withPort g n now))) ∧
      (∀ a, here → (cwPort c n).counted ≠ 0 → (cwPort c n).assign = some a → answers (.report x f) s (fun t =>
        t = s.setHost (withPort g n { now with txq := now.txq ++ [cwE 3 a] }))) ∧
      (∀ u, here → (cwPort c n).counted = 0 → forwards c = true → upPort c = some u → answers (.report x f) s (fun t =>
        let d := t.dies.host.cw
        t = s.setHost { h with cw := { c with ports := d.ports, joins := d.joins } } ∧ (n, beAt b 2 8) ∈ d.joins ∧ (∀ e ∈ c.joins, e ∈ d.joins) ∧
          (cwPort d u).txq = (cwPort c u).txq ++ [cwE 2 (b.take 20 ++ bytesBE 1 (beAt b 20 1 ||| 1))]))) ∧
    (∀ u, c.isHead = false → upPort c = some u →
      let own := (3, h.com.fuses.udn.toNat)
      let sent (t : State) : Prop := t = s.setHost { h with cw := { c with ports := t.dies.host.cw.ports, toReport := false, awaiting := true, joins := if c.joins.contains own then c.joins else c.joins ++ [own] } } ∧
        ∀ y, y < 3 → cwPort t.dies.host.cw y = { cwPort c y with counted := portSub c y, txq := if y = u then (cwPort c y).txq ++ [cwE 2 (reportBody h c.joining false)] else (cwPort c y).txq }
      (c.toReport = true → answers .reportTimeout s sent) ∧ (c.awaiting = true → answers .reportResend s sent)) ∧
    (∀ a l rs j k js, cwMsg h n 5 3 b f → (cwPort c n).role = 0 → beAt b 0 2 = c.enumNo → runsAt (b.drop 4) = (a, l) :: rs → rs.length + 1 = beAt b 2 2 → 1 ≤ l →
      a < 4096 → c.joins = (j, k) :: js →
      (j < 3 → (cwPort c j).link = true → isPlain c j = false → answers (.assignMsg x f) s (fun t =>
        let g := t.dies.host
        t = s.setHost { h with cw := { c with ports := g.cw.ports, route := g.cw.route, joins := js } } ∧
          (cwPort g.cw j).txq = (cwPort c j).txq ++ [cwE 3 (bytesBE 2 c.enumNo ++ bytesBE 2 (rs.length + 1) ++ runBytes ((a, l) :: rs))])) ∧
      (j = 3 → answers (.assignMsg x f) s (fun t =>
        let g := t.dies.host
        t = s.setHost { h with cw := g.cw, leg := g.leg } ∧ g.cw.joins = js ∧ g.cw.addr = a ∧ g.cw.noaddr = false ∧ g.cw.overflow = false ∧ g.cw.awaiting = false ∧
          (c.addr ≠ a ∨ c.noaddr = true → g.leg.sessions = [])))) ∧
    (cwMsg h n 5 8 b f → (cwPort c n).role = 1 →
      (c.isHead = true → answers (.leave x f) s (fun t =>
        let g := cwHeard h n f
        t = s.setHost { g with cw := { g.cw with heldAddr := (c.heldAddr ++ runAddrs (runsAt (b.drop 1))).eraseDups } })) ∧
      (∀ u, c.isHead = false → forwards c = true → upPort c = some u → answers (.leave x f) s (fun t =>
        t = s.setHost { h with cw := { c with ports := t.dies.host.cw.ports } } ∧
          queuedOn (cwHeard h n f) t.dies.host (fun y => decide (y = u)) (cwE 8 b)))) ∧
    (∀ a : BitVec 12, c.isHead = true → a.toNat ∈ c.heldAddr → answers (.addrHoldExpiry a) s (fun t =>
      t = s.setHost { h with cw := { c with heldAddr := c.heldAddr.filter (· ≠ a.toNat), gave := c.gave.filter (fun e => !e.2.contains a.toNat), udnAddr := c.udnAddr.filter (fun e => decide (e.2 ≠ a.toNat)), route := tput 0 c.route a.toNat 0 } })) ∧
    (c.state = 0 → c.isHead = false → c.overflow = false → answers .offlineTimeout s (fun t =>
      let g := t.dies.host
      t = s.setHost g ∧ g.cw.state = 4 ∧ g.dt.lock = false ∧ (h.dt.everLock = true → g.dt.holdover = true) ∧ g.com.weir = h.com.weir)) ∧
    (c.isHead = false → c.stDepth = none → (c.state = 1 ∨ c.state = 2 ∨ c.state = 3 ∨ c.state = 5) → answers .upstreamLost s (fun t =>
      let g := t.dies.host
      t = s.setHost g ∧ g.cw.state = 4 ∧ g.dt.lock = false ∧ (h.dt.everLock = true → g.dt.holdover = true) ∧ g.com.weir = h.com.weir))

/-- R25, R268, R269, R273, R276: tokens, routes and link audits. GRANT, REVOKE and ROUTE go on to every downstream port, RELOCATE goes up, and their
entries wait for the frame that they name; one that names a frame already sent takes effect at once and counts TCLASH. The head floods its token list in 8
frames; a node disputes what differs and has not changed since. A CAUDIT returns the credits of lost frames, or resynchronises the link.
The codes and contents of the frames of class A are the model's (log entry 14). -/
def Obligations.CausewayTokens : Prop :=
  ∀ (s : State) (x : Port) (f : CwRx) (b : List Byte), s.dies.host.com.runs = true →
    let h := s.dies.host
    let c := h.cw
    let n := portNo x
    let g := cwHeard h n f
    let p := cwPort g.cw n
    let role := (cwPort c n).role
    let late (at' : Nat) : Bool := match c.sentU with | some m => serialGe 32 m at' | none => false
    let flooded (t : State) (op : Nat) : Prop := queuedOn g t.dies.host (isDown h) (cwE op b)
    let only (t : State) : Prop := t = s.setHost { h with cw := { c with ports := t.dies.host.cw.ports, pend := t.dies.host.cw.pend } }
    (cwMsg h n 5 4 b f → role = 0 → beAt b 0 2 < 512 → forwards c = true →
      (late (beAt b 4 4) = false → answers (.grant x f) s (fun t => only t ∧ flooded t 4 ∧
        t.dies.host.cw.pend = c.pend ++ [⟨beAt b 4 4, true, beAt b 0 2, beAt b 2 2 % 4096 + 1⟩])) ∧
      (late (beAt b 4 4) = true → answers (.grant x f) s (fun t => flooded t 4 ∧
        t = s.setHost { h with cw := { c with ports := t.dies.host.cw.ports, cnt := ctrAdd c.cnt 4 1, tokens := tput 0 c.tokens (beAt b 0 2) (ownerCode c (beAt b 2 2 % 4096)), ownNow := tput 0 c.ownNow (beAt b 0 2) (32768 + beAt b 2 2 % 4096), tokAt := tput 0 c.tokAt (beAt b 0 2) (beAt b 4 4 + 1) } }))) ∧
    (cwMsg h n 5 5 b f → role = 0 → beAt b 0 2 < 512 → forwards c = true → late (beAt b 2 4) = false → answers (.revoke x f) s (fun t => only t ∧ flooded t 5 ∧
      t.dies.host.cw.pend = c.pend ++ [⟨beAt b 2 4, true, beAt b 0 2, 0⟩])) ∧
    (cwMsg h n 5 6 b f → role = 1 → standbyPeer c n = false → forwards c = true → late (beAt b 2 4) = false →
      let ents (t : State) : Prop :=
        t = s.setHost { h with cw := { c with ports := t.dies.host.cw.ports, pend := t.dies.host.cw.pend, relocs := ((beAt b 0 2, beAt b 2 4) :: c.relocs).take 16 } } ∧ (∀ a, a ∈ runAddrs (relocRuns b) → ⟨beAt b 2 4, false, a, toPort n⟩ ∈ t.dies.host.cw.pend) ∧
        ∀ k, k ∈ relocTokens b → ⟨beAt b 2 4, true, k, 8192 + toPort n⟩ ∈ t.dies.host.cw.pend
      (c.isHead = true → answers (.relocate x f) s (fun t => ents t ∧ flooded t 7)) ∧
      (∀ u, c.isHead = false → upPort c = some u → answers (.relocate x f) s (fun t => ents t ∧
        queuedOn g t.dies.host (fun y => decide (y = u)) (cwE 6 b)))) ∧
    (cwMsg h n 5 7 b f → role = 0 → forwards c = true → late (beAt b 2 4) = false →
      (c.relocs.contains (beAt b 0 2, beAt b 2 4) = false → c.addr ∉ runAddrs (relocRuns b) → answers (.routeMsg x f) s (fun t =>
        only t ∧ flooded t 7 ∧ ∀ a, a ∈ runAddrs (relocRuns b) → ⟨beAt b 2 4, false, a, 0⟩ ∈ t.dies.host.cw.pend)) ∧
      (c.relocs.contains (beAt b 0 2, beAt b 2 4) = true → answers (.routeMsg x f) s (fun t => only t ∧ flooded t 7 ∧ t.dies.host.cw.pend = c.pend))) ∧
    (c.isHead = true → answers .tokenAuditSend s (fun t => t = s.setHost { h with cw := { c with ports := t.dies.host.cw.ports } } ∧
      ∀ y, y < 3 → isDown h y = true → (cwPort t.dies.host.cw y).txq = (cwPort c y).txq ++ (List.range 8).map (fun i =>
        cwTx 4 1 0 (Config.aOp 0 :: (bytesBE 4 (nextU h) ++ bytesBE 2 (64 * i) ++ (List.range 64).flatMap (fun j => bytesBE 2 (tget 0 c.ownNow (64 * i + j)))))))) ∧
    (cwMsg h n 4 (Config.aOp 0) b f → role = 0 → b.length = 134 → forwards c = true → c.pend = [] →
      let want (j : Nat) : Nat := let o := beAt b (6 + 2 * j) 2
        if o.testBit 15 then ownerCode c (o % 4096) else 0
      ((∀ j, j < 64 → tget 0 c.tokens (beAt b 4 2 + j) = want j) → answers (.tokenAudit x f) s (fun t => only t ∧ t.dies.host.cw.pend = [] ∧
        queuedOn g t.dies.host (isDown h) (cwTx 4 1 0 (Config.aOp 0 :: b)))) ∧
      ((∃ j, j < 64 ∧ tget 0 c.tokens (beAt b 4 2 + j) ≠ want j ∧ tokenMoved c (beAt b 0 4) (beAt b 4 2 + j) = false) → answers (.tokenAudit x f) s (fun t => only t ∧
        ∃ d, (cwPort t.dies.host.cw n).txq = p.txq ++ [cwA 1 d]))) ∧
    (cwMsg h n 4 (Config.aOp 1) b f → role = 1 →
      (∀ u, c.isHead = false → forwards c = true → upPort c = some u → answers (.dispute x f) s (fun t => only t ∧ t.dies.host.cw.pend = c.pend ∧
        queuedOn g t.dies.host (fun y => decide (y = u)) (cwA 1 b))) ∧
      (c.isHead = true → b.length = 2 → answers (.dispute x f) s (fun t => t.dies.host.cw.cnt = ctrAdd c.cnt 5 1 ∧
        t = s.setHost { h with cw := { c with ports := t.dies.host.cw.ports, pend := t.dies.host.cw.pend, cnt := t.dies.host.cw.cnt } } ∧
        (⟨aheadU h % 2 ^ 32, true, beAt b 0 2 % 512, 0⟩ : PendEnt) ∈ t.dies.host.cw.pend))) ∧
    (cwGood h n 4 f → cwBody f = [] → answers (.crelOnly x f) s (fun t => t = s.setHost g)) ∧
    (cwMsg h n 4 (Config.aOp 2) b f →
      let d := (beAt b 0 1 + 256 - p.acct) % 256
      p.syncing = false →
      (0 < d → d < 128 → answers (.caudit x f) s (fun t =>
        t = s.setHost (withPort g n { p with acct := (p.acct + d) % 256, rel := (p.rel + d) % 256, cnt := ctrAdd p.cnt 6 d }))) ∧
      (128 ≤ d → answers (.caudit x f) s (fun t =>
        t = s.setHost (withPort g n { p with syncing := true, cnt := ctrAdd p.cnt 7 1, txq := p.txq ++ [cwA 3 []] })))) ∧
    (cwMsg h n 4 (Config.aOp 3) b f → answers (.cresync x f) s (fun t =>
      t = s.setHost (withPort g n { p with stopped := true, ackDue := true, cnt := ctrAdd p.cnt 7 1 }))) ∧
    (cwMsg h n 4 (Config.aOp 4) b f → p.syncing = true → answers (.cresyncAck x f) s (fun t =>
      t = s.setHost (withPort g n { p with acct := beAt b 0 1, rel := beAt b 0 1, held := 0, reasm := none, syncing := false }))) ∧
    (cwMsg h n 4 (Config.aOp 5) b f → answers (.cinit x f) s (fun t => cwFree (cwPort t.dies.host.cw n) = 32 ∧
      t = s.setHost (withPort g n { p with sent := 0, farRel := 0, acct := 0, rel := 0, relSent := 0, held := 0, stopped := false, syncing := false })))

/-! ### Datum -/

/-- R285 to R288, R292, R297 to R299: time transfer. A T_REQ goes to an upstream or standby port and is answered once; the answer that fits the open
exchange gives the upstream's class, depth, S and V, and its offset is slewed away, or stepped above 10 µs; a change of rate that its anchor shows is made at
once where tick n has passed, and counted; on a standby port it is only compared; 256 exchanges calibrate a link; 32 of them missed in a row, or TIME_LOST, end
LOCK, and start the holdover of a node once locked, until HOLD exceeds HOLD_MAX. A rise of LOCK is not said here.
The loop and the delay filter are open (log entry 12), as are the code words of an EVENT (log entry 9). -/
def Obligations.TimeTransfer : Prop :=
  ∀ (s : State) (x : Port) (f : CwRx), s.dies.host.com.runs = true →
    let h := s.dies.host
    let n := portNo x
    let p := cwPort h.cw n
    let q := tget dtPort0 h.dt.ports n
    let b := cwBody f
    let cal (k : Nat) : Int := (k : Int) * 65536 / 1000
    (∀ t1, portUp h.cw n = true → (p.role = 0 ∨ p.role = 2) → h.cw.isHead = false → (p.role = 0 → (if q.open' then q.lost + 1 else q.lost) < 32) →
      answers (.tReqSend x t1) s (fun t =>
      let g := t.dies.host
      let u := tget dtPort0 g.dt.ports n
      t = s.setHost { h with cw := { h.cw with ports := g.cw.ports }, dt := { h.dt with cnt := g.dt.cnt, time := t1, ports := g.dt.ports } } ∧ u.exNo = (q.exNo + 1) % 65536 ∧ u.open' = true ∧
        u.t1 = (t1 : Int) + cal (tget 0 h.com.fuses.txCal n) ∧ u.lost = (if q.open' then q.lost + 1 else q.lost) ∧
        (cwPort g.cw n).txq = p.txq ++ [cwTx 2 3 0 (bytesBE 1 1 ++ bytesBE 2 u.exNo)] ∧
        g.dt.cnt = (if q.open' = true ∧ p.role = 0 then ctrAdd h.dt.cnt 3 1 else h.dt.cnt))) ∧
    (∀ t1, portUp h.cw n = true → p.role = 0 → h.cw.isHead = false → q.open' = true → 31 ≤ q.lost → answers (.tReqSend x t1) s (fun t =>
      let g := t.dies.host
      t = s.setHost g ∧ g.dt.lock = false ∧ g.dt.holdover = (h.dt.everLock || h.dt.holdover) ∧ g.dt.time = t1 ∧
        ctrGet g.dt.cnt 3 = ctrGet (ctrAdd h.dt.cnt 3 1) 3 ∧ (h.dt.everLock = true → h.dt.holdover = false → ctrGet g.dt.cnt 1 = ctrGet (ctrAdd h.dt.cnt 1 1) 1) ∧
        cwTx 2 3 0 (bytesBE 1 1 ++ bytesBE 2 ((q.exNo + 1) % 65536)) ∈ (cwPort g.cw n).txq)) ∧
    (cwGood h n 2 f → p.role = 1 → beAt b 0 1 = 1 → answers (.tReq x f) s (fun t =>
      let g := t.dies.host
      t = s.setHost { h with cw := { h.cw with ports := g.cw.ports }, dt := { h.dt with time := f.at', ports := g.dt.ports } } ∧
        tget dtPort0 g.dt.ports n = { q with calN := q.calN + 1 } ∧ ∃ r, (cwPort g.cw n).txq = p.txq ++ [cwTx 2 3 0 r] ∧ r.length = 69 ∧
        beAt r 0 1 = 2 ∧ beAt r 1 2 = beAt b 1 2 ∧ slice r 3 12 = timeBytes ((f.at' : Int) - cal (tget 0 h.com.fuses.rxCal n)).toNat ∧
        beAt r 27 1 = (if h.dt.holdover then max 3 h.dt.cls else h.dt.cls) % 256 ∧ beAt r 28 2 = h.cw.depth % 65536 ∧ beAt r 30 4 = ownS h % 2 ^ 32 ∧ beAt r 34 4 = ownV h % 2 ^ 32 ∧ beAt r 38 8 = h.dt.anchorM % 2 ^ 64)) ∧
    (cwGood h n 2 f → p.role = 0 → b.length = 69 → beAt b 0 1 = 2 → q.open' = true → q.exNo = beAt b 1 2 → answers (.tResp x f) s (fun t =>
      let g := t.dies.host
      let t2 : Int := timeOf (slice b 3 12)
      let t3 : Int := timeOf (slice b 15 12)
      let t4 : Int := (f.at' : Int) - cal (tget 0 h.com.fuses.rxCal n)
      let fwd : Int := ((t4 - q.t1) - (t3 - t2)) / 2 + (q.asym.toInt * 65536 / 1000) / 2
      let off : Int := (t2 - q.t1) - fwd
      let big : Int := 10000 * 65536
      t = s.setHost g ∧ (tget dtPort0 g.dt.ports n).open' = false ∧ (tget dtPort0 g.dt.ports n).lost = 0 ∧ g.dt.upCls = beAt b 27 1 ∧
        g.dt.upDepth = beAt b 28 2 ∧ g.dt.upS = beAt b 30 4 ∧ g.dt.upV = beAt b 34 4 ∧ g.dt.holdover = false ∧ g.dt.anchored = true ∧
        (beAt b 67 1 = 255 → (beAt b 58 1 = h.dt.anchorR ∨ beAt b 38 8 ≤ h.dt.tick) →
          g.dt.anchorM = beAt b 38 8 ∧ g.dt.anchorT = timeOf (slice b 46 12) ∧ g.dt.anchorR = beAt b 58 1) ∧
        (beAt b 67 1 = 255 → h.dt.anchored = true → beAt b 58 1 ≠ h.dt.anchorR → 0 < beAt b 38 8 → beAt b 38 8 ≤ h.dt.tick →
          timeOf (slice b 46 12) = (tickTime h.dt.anchorM h.dt.anchorT h.dt.anchorR (beAt b 38 8)).toNat → h.dt.ratePend ≠ some (beAt b 38 8 - 1, beAt b 58 1) →
          ctrGet g.dt.cnt 4 = ctrGet (ctrAdd h.dt.cnt 4 1) 4 ∧ g.dt.ratePend = none) ∧
        (off < -big ∨ big < off → g.dt.time = ((f.at' : Int) - off).toNat ∧ evWords .timeStep [ofI (off * 1000 / 65536)] ∈ g.com.events) ∧
        (-big ≤ off → off ≤ big → g.dt.time = f.at' ∧ g.dt.slew = Config.loopStep off))) ∧
    (cwGood h n 2 f → p.role = 2 → b.length = 69 → beAt b 0 1 = 2 → q.open' = true → q.exNo = beAt b 1 2 → answers (.tResp x f) s (fun t =>
      let g := t.dies.host
      let fwd : Int := (((f.at' : Int) - cal (tget 0 h.com.fuses.rxCal n) - q.t1) - ((timeOf (slice b 15 12) : Int) - timeOf (slice b 3 12))) / 2 +
        (q.asym.toInt * 65536 / 1000) / 2
      let off : Nat := ((((timeOf (slice b 3 12) : Int) - q.t1) - fwd) * 1000 / 65536).natAbs
      let k := hopTerms h n
      let lim := h.dt.bound + boundOf (beAt b 30 4 + k.1) (beAt b 34 4 + k.2 * k.2)
      t = s.setHost g ∧ (tget dtPort0 g.dt.ports n).open' = false ∧ g.dt.time = f.at' ∧ g.dt.upCls = h.dt.upCls ∧ g.dt.lock = h.dt.lock ∧
        g.dt.stDiff = (h.dt.stDiff || decide (lim < off)) ∧ (lim < off → h.dt.stDiff = false → evWords .standbyDiff [w32 off] ∈ g.com.events))) ∧
    (p.link = true → q.calDone = false → 256 ≤ q.calN → answers (.calDone x) s (fun t => ∃ ps,
      t = s.setHost { h with dt := { h.dt with ports := ps } } ∧
        tget dtPort0 ps n = { q with calDone := true, pdly := w32 (q.calSum / (q.calN : Int)).toNat } ∧
        ∀ y, y ≠ n → tget dtPort0 ps y = tget dtPort0 h.dt.ports y)) ∧
    (h.cw.isHead = false → answers .timeLost s (fun t =>
      let g := t.dies.host
      t = s.setHost g ∧ g.dt.lock = false ∧ g.dt.holdover = (h.dt.everLock || h.dt.holdover) ∧
        (h.dt.everLock = true → h.dt.holdover = false → g.dt.hold = 0) ∧ g.dt.time = h.dt.time)) ∧
    (h.cw.isHead = false → h.dt.holdover = true → h.dt.cls ≤ 4 → answers .holdoverExpiry s (fun t =>
      let g := t.dies.host
      t = s.setHost g ∧ g.dt.cls = 4 ∧ g.dt.hold.toNat = max h.dt.hold.toNat (fld h.dt.ctrl 31 16 + 1) ∧ g.dt.holdover = true))

/-- R28, R281, R283, R289, R290, R294, R295, R298: ticks, class and the head's source. A tick leaves at T0 + (m - M0)/fs less the delays to the balls; a
pending rate change keeps the instant of the tick after its own and anchors the new spacing there; a TIME_MARK names the tick 8 ahead; a rise, or a fall found then, takes the class
whose conditions hold; HOLD counts the seconds of a holdover; at the head a source that gives an offset is slewed to, and its loss holds the frequency.
The code words of an EVENT and the delay of the tick's way are open (log entries 9 and 12). -/
def Obligations.TicksAndSource : Prop :=
  ∀ (s : State), s.dies.host.com.runs = true →
    let h := s.dies.host
    let d := h.dt
    let f := s.dies.field
    let inst (m : Nat) : Int := (d.anchorT : Int) + ((m : Int) - (d.anchorM : Int)) * (65536000000000 : Int) / (rateHz d.anchorR : Int)
    let hasSource (c : Instr) (k : Nat) (time : Nat) (ofs : Int) (tr : Bool) : Prop := h.cw.isHead = true → fld d.ctrl 2 0 = k → answers c s (fun t =>
      t = s.setHost { h with dt := { d with time := time, srcOk := true, srcHold := false, traceable := tr, slew := ofs } })
    let late (code : Nat) : Int := (Config.tickDelay : Int) + 3 * 65536000000000 / (rateHz code * passLen code) + 4 * 65536
    (∀ m : W64, (∀ n c, d.ratePend = some (n, c) → m.toNat ≤ n) → d.holdover = false → answers (.tickEmit m) s (fun t =>
      let out := inst m.toNat - late d.anchorR
      t = s.setHost { h with dt := { d with tick := m.toNat, time := out.toNat, sinceMark := d.sinceMark + 1 }, ticks := (m.toNat, out) :: h.ticks })) ∧
    (∀ m : W64, (∀ n c, d.ratePend = some (n, c) → m.toNat ≤ n) → d.holdover = true → answers (.tickEmit m) s (fun t =>
      let g := t.dies.host
      let out := inst m.toNat - late d.anchorR
      t = s.setHost g ∧ g.ticks = (m.toNat, out) :: h.ticks ∧ g.dt.time = out.toNat ∧ g.dt.hold = w32 ((out.toNat - d.holdFrom) / 65536000000000) ∧
        (g.dt.hold ≠ d.hold → h.cw.isHead = false → fld d.ctrl 31 16 < g.dt.hold.toNat → d.cls ≤ 4 → g.dt.cls = 4))) ∧
    (∀ (m : W64) n c, d.ratePend = some (n, c) → n < m.toNat → answers (.tickEmit m) s (fun t =>
      let g := t.dies.host
      t = s.setHost g ∧ g.boot = h.boot ∧ g.spp = h.spp ∧ g.ticks = (m.toNat, tickTime (n + 1) (inst (n + 1)).toNat c m.toNat - late c) :: h.ticks ∧ g.dt.anchorM = n + 1 ∧ g.dt.anchorT = (inst (n + 1)).toNat ∧ g.dt.anchorR = c ∧
        g.dt.ratePend = none ∧ g.dt.tick = m.toNat ∧ (h.cw.isHead = true → g.dt.rateRes = 2 ∧ tget [] g.leg.prof 0x11 = anchorBytes g))) ∧
    (h.com.weir.farPresent = true → d.cls ≤ 4 → answers .timeMarkSend s (fun t => ∃ m,
      t = s.setHost { h with com := { h.com with weir := { h.com.weir with queue := h.com.weir.queue ++ [m] } }, dt := { d with sinceMark := 0, markDue := false } } ∧
        m.type = 8 ∧ m.payload.length = 6 ∧ (wAt m.payload 0).toNat + 2 ^ 32 * (wAt m.payload 1).toNat = (d.tick + 8) % 2 ^ 64 ∧
        fld (wAt m.payload 5) 2 0 = d.cls ∧ (d.ratePend = none → fld (wAt m.payload 5) 11 8 = d.anchorR % 16))) ∧
    (∀ v : W32, bit v 0 = true →
      let n := d.rateLo.toNat + 2 ^ 32 * d.rateHi.toNat
      let c := fld v 11 8
      let r := if h.cw.isHead = false then 4 else if d.ratePend.isSome = true then 5 else if 6 ≤ c ∨ c % 2 ≠ d.anchorR % 2 then 4
        else if n < (if h.com.weir.farPresent then f.mer.pcnt else d.tick) + rateHz d.anchorR then 3 else 1
      answers (.rateChangeReq v) s (fun t =>
        t = s.setHost { h with dt := { d with rateNew := c, rateRes := r, ratePend := if r = 1 then some (n, c) else d.ratePend } })) ∧
    (∀ v : W32, bit v 31 = true → h.cw.isHead = true → answers (.timeStep v) s (fun t =>
      t = s.setHost { h with dt := { d with time := d.time + fld v 15 0 * 1000000 * 65536 } })) ∧
    (∀ v : W32, hasSource (.srcOfsWrite v) 1 d.time (v.toInt * 256) true) ∧
    (∀ est, hasSource (.tppsEdge est) 2 est (((d.secLo.toNat + fld d.secHi 15 0 * 2 ^ 32) * 1000000000 * 65536 : Nat) - (est : Int)) true) ∧
    (∀ est, h.cw.isHead = true → fld d.ctrl 2 0 = 3 → answers (.wckiEdge est) s (fun t => ∃ m ofs,
      t = s.setHost { h with dt := { d with time := est, srcOk := true, srcHold := false, traceable := false, slew := ofs } } ∧ ofs = inst m - est)) ∧
    (h.cw.isHead = true → fld d.ctrl 2 0 ≠ 0 → answers .srcLost s (fun t =>
      t = s.setHost { h with dt := { d with srcOk := false, srcHold := true, traceable := false } })) ∧
    answers .classRise s (fun t =>
      let g := t.dies.host
      let e := g.dt
      let coast := h.com.weir.farPresent && f.mer.coast
      t = s.setHost g ∧ e.numConfl = (if h.com.weir.farPresent then f.mer.numConflict else d.numConfl) ∧
        e.cls = (if e.numConfl = true then 4 else if h.cw.isHead = true then 0 else if d.everLock = false then 4
          else if d.holdover = true then (if fld d.ctrl 31 16 < d.hold.toNat then 4 else 3)
          else if coast = true then 3 else if d.lock = true ∧ e.limit = 0 then 0 else if d.lock = true ∧ d.upCls ≤ 1 ∧ e.bound ≤ 25000 then 1
          else if d.lock = true ∧ d.upCls ≤ 2 ∧ e.bound ≤ 500000 then 2 else if d.upCls = 3 then 3 else 4) ∧
        e.bound = min (boundOf (ownS g) (ownV g)) 0xFFFFFF ∧ (e.cls ≠ d.cls → e.markDue = true ∧ evWords .classChange [w32 e.cls] ∈ g.com.events))

/-! ### Legend -/

/-- R307, R317 to R319, R321, R324, R328, R329, R332: the services. A malformed request is discarded and counted, one in flight discarded; a stored
answer is sent again with DUP set, a stale request answered 08h, a new requester beyond 64 answered 07h, another epoch 09h. A READ answers the entry's
value, a READ_BLOCK a slice of it, a read of a field entry goes on across the Weir; a WRITE, a bundle of slot-map items, a subscription, an ACTION and a
DESCRIBE have their effect, and the answer is stored and sent. A tool's request comes through the gateway, which replaces RID and ROLE; one for another node
goes on as a V frame. Each of the seven rows completes in every state, whatever the request.
The layout of a value in Weir words and how a tool's request names its nodes are the model's choices (log entries 15 and 63). -/
def Obligations.LegendRequests : Prop :=
  (∀ (s : State) (q : LegReq), ∀ c ∈ [Instr.readReq, .writeReq, .readBlock, .writeBundle, .subscribeReq, .actionReq, .describeReq],
    ∃ g, Sys2Proof.Machine.exec (c q) s = .next (s.setHost g)) ∧
  (∀ (s : State) (q : LegReq) ep mode dst, serving s.dies.host → q.via = .tool ep → q.dest = some (mode, dst) → (mode ≠ 0 ∨ dst ≠ s.dies.host.cw.addr) →
    let h := s.dies.host
    let m : LegMsg := ⟨129, 0, q.rid.toNat, q.rseq.toNat, 255, 10, h.leg.epoch, 0, q.body.take 3⟩
    framed q q.body.length →
    (sessionOf h ep q.rid.toNat = none → ep ≠ 0 → answers (.readReq q) s (fun t => t = s.setHost (withLeg h { h.leg with cnt := ctrAdd h.leg.cnt 6 1, out := m :: h.leg.out }))) ∧
    (∀ i x y, sessionOf h ep q.rid.toNat = some (i, x) → mode = 0 → h.cw.noaddr = false → ownPort h.cw dst = some y → (cwPort h.cw y).link = true →
      portSends h.cw y 3 = true → answers (.readReq q) s (fun t =>
        t = s.setHost { h with cw := { h.cw with ports := t.dies.host.cw.ports }, leg := { h.leg with sessions := t.dies.host.leg.sessions } } ∧
          (cwPort t.dies.host.cw y).txq = (cwPort h.cw y).txq ++ [cwTx 3 0 dst (legBytes ⟨1, q.flags.toNat, x.rid % 65536, q.rseq.toNat, x.role % 256, 0, q.epoch, 0, q.body⟩)]))) ∧
  ∀ (s : State) (q0 : LegReq), serving s.dies.host → q0.dest = none →
    let h := (gate s.dies.host q0).1
    let q := (gate s.dies.host q0).2
    let fd := s.dies.field
    let g := legCount h 0
    let rid := q.rid.toNat
    let rseq := q.rseq.toNat
    let role := roleRank q.role.toNat
    let row (c : Instr) (svc : Nat) : Prop :=
      (c, svc) ∈ [(Instr.readReq q0, 1), (Instr.writeReq q0, 2), (Instr.readBlock q0, 3), (Instr.writeBundle q0, 4), (Instr.subscribeReq q0, 5), (Instr.actionReq q0, 6), (Instr.describeReq q0, 7)]
    let form (svc : Nat) : Prop := (service fd svc q (ctxOf q true) q.body).isSome = true
    let sent (c : Instr) (k : Option Nat) (m : LegMsg) : Prop := answers c s (fun t =>
      t = s.setHost (withLeg h { h.leg with cnt := (match k with | some i => ctrAdd h.leg.cnt i 1 | none => h.leg.cnt), out := m :: h.leg.out }))
    let plain (svc code : Nat) (b : List Byte) : LegMsg := ⟨128 + svc, 0, rid, rseq, q.role.toNat, code, h.leg.epoch, 0, b⟩
    let name (idx sub : Nat) : List Byte := bytesBE 2 idx ++ bytesBE 1 sub
    let readable (idx sub : Nat) (r : LegRow) : Prop :=
      idx < 65536 ∧ sub < 256 ∧ entryOf fd idx sub = .row r ∧ accOk r .read = true ∧ r.rr ≤ role ∧ stateBad h r idx sub = false
    (∀ ep, q0.via = .tool ep → match sessionOf s.dies.host ep q0.rid.toNat with
      | some (_, x) => rid = x.rid % 65536 ∧ q.role.toNat = x.role % 256
      | none => q.role = 0xFF) ∧
    (∀ c svc, row c svc → q.blen.toNat ≠ q.body.length → answers c s (fun t => t = s.setHost (legCount h 4))) ∧
    (∀ c svc, row c svc → form svc → inFlight h rid rseq = true → answers c s (fun t => t = s.setHost (legCount h 3))) ∧
    (∀ c svc, row c svc → form svc → inFlight h rid rseq = false → q.flags = 0 → localAsker q →
      (∀ outs m, dupOuts h rid = some outs → outs.find? (fun e => decide (e.1 = rseq)) = some (rseq, .answered m) → m.rid = rid →
        sent c (some 1) { m with flags := m.flags ||| 1 }) ∧
      (∀ outs n o, dupOuts h rid = some ((n, o) :: outs) → ((n, o) :: outs).find? (fun e => decide (e.1 = rseq)) = none → n < 65536 →
        1 ≤ (n + 65536 - rseq) % 65536 → (n + 65536 - rseq) % 65536 ≤ 32767 → sent c (some 2) (plain svc 8 [])) ∧
      (dupOuts h rid = none → 64 ≤ h.leg.dups.length → sent c none (plain svc 7 (if svc = 4 then [] else q.body.take 3))) ∧
      (dupCase h rid rseq = .serve → q.epoch ≠ 0 → q.epoch ≠ h.leg.epoch → answers c s (fun t =>
        replied svc q (legCount g 5) ⟨9, 0, if svc = 4 then [] else q.body.take 3, false⟩ s t ∧
          (dupOuts t.dies.host rid).bind (·.head?) = some (rseq, .answered ⟨128 + svc, 0, rid, rseq, q.role.toNat, 9, h.leg.epoch, 0, if svc = 4 then [] else q.body.take 3⟩) ∧
          t.dies.host.leg.out.length = h.leg.out.length + 1))) ∧
    (∀ idx sub r, readable idx sub r →
      (asksWhole h q (name idx sub) → r.field = false → (idx, sub) ≠ (0x0100, 1) → (idx, sub) ≠ (0x8000, 3) → (hostValue fd g idx sub).length ≤ 256 →
        answers (.readReq q0) s (replied 1 q g ⟨0, 0, name idx sub ++ bytesBE 1 r.typ ++ bytesBE 2 (hostValue fd g idx sub).length ++ hostValue fd g idx sub, false⟩ s)) ∧
      (asksWhole h q (name idx sub) → r.field = true → (fieldValue fd idx sub).length ≤ 256 → answers (.readReq q0) s (fun t =>
        t = s.setHost { withLeg g { g.leg with fwd := g.leg.fwd ++ [⟨rid, rseq, q.role.toNat, q.flags.toNat, q.via, idx, sub, .read false 0 0, 0, false⟩] } with
          com := weirQueue h.com ⟨3, 0, 0, [w32 (rid * 65536 + rseq), w32 (idx * 65536 + sub * 256 + r.typ)]⟩ })) ∧
      (∀ off mx, asksWhole h q (name idx sub ++ bytesBE 4 off ++ bytesBE 2 mx) → r.field = false → (idx, sub) ≠ (0x0100, 1) → (idx, sub) ≠ (0x8000, 3) → (r.typ = 0x0E ∨ off = 0) → off < 2 ^ 32 → mx < 65536 →
        let v := hostValue fd g idx sub
        let d := slice v off (min mx 992)
        off ≤ v.length → answers (.readBlock q0) s (replied 3 q g ⟨0, 0, name idx sub ++ bytesBE 1 r.typ ++ bytesBE 4 v.length ++ bytesBE 4 off ++
          bytesBE 2 d.length ++ d, decide (off + d.length < v.length)⟩ s)) ∧
      (∀ period opt i, asksWhole h q (name idx sub ++ bytesBE 2 period ++ bytesBE 1 opt) → 10 ≤ period → period ≤ 60000 → opt ≤ 1 →
        (∀ x ∈ h.leg.subs, ¬(x.rid = rid ∧ x.idx = idx ∧ x.sub = sub)) → i < 32 → (∀ x ∈ h.leg.subs, x.id ≠ i) → (∀ j, j < i → ∃ x ∈ h.leg.subs, x.id = j) →
        answers (.subscribeReq q0) s (replied 5 q (withLeg g { g.leg with subs := g.leg.subs ++ [⟨i, rid, q.via, idx, sub, period, decide (opt = 1), none, 0⟩] })
          ⟨0, 0, bytesBE 1 i, false⟩ s))) ∧
    (∀ d : List Byte, asksWhole h q (name 0 8 ++ [0x0D] ++ bytesBE 4 0 ++ bytesBE 2 d.length ++ d) → d.length ≤ 64 → utf8Ok d = true → 2 ≤ role →
      answers (.writeReq q0) s (replied 2 q (withLeg g { g.leg with name := d }) ⟨0, 0, name 0 8, false⟩ s)) ∧
    (∀ pass sub v, asksWhole h q (bytesBE 8 pass ++ [0] ++ [1] ++ (name 0x2000 sub ++ [3] ++ bytesBE 4 0 ++ bytesBE 2 2 ++ bytesBE 2 v)) → 2 ≤ role →
      1 ≤ sub → sub ≤ 128 → v < 65536 → pass < 2 ^ 64 → h.cw.slotMap.pend = none → v % 1024 < slotCount h →
      let sh := tput 0 h.cw.slotMap.sh (sub - 1) (v % 1024 + v / 32768 * 32768)
      sh.any (fun e => e.2.testBit 15 && decide (slotCount h ≤ e.2 % 1024)) = false → (∀ u, h.cw.tookS = some u → serialGe 32 u ((pass + 1) % 2 ^ 32) = false) →
      answers (.writeBundle q0) s (replied 4 q { g with cw := { h.cw with slotMap := { h.cw.slotMap with sh := sh, pend := some ((pass + 1) % 2 ^ 32) } } }
        ⟨0, 0, bytesBE 8 pass, false⟩ s)) ∧
    (asksWhole h q (name 0x0010 2 ++ [0x0E] ++ bytesBE 2 0) → role = 3 → answers (.actionReq q0) s
      (replied 6 q (safeMove (withLeg g { g.leg with stopped := false })) (okAct 0x0010 2 []) s)) ∧
    (∀ idx sub r, idx < 65536 → sub < 256 → asksWhole h q (name idx sub) → entryOf fd idx sub = .row r → 1 ≤ role → answers (.describeReq q0) s (fun t => ∃ d : List Byte,
      replied 7 q g ⟨0, 0, name idx sub ++ bytesBE 1 r.typ ++ bytesBE 1 (if r.acc = 1 ∧ roHere h idx sub = true then 0 else r.acc) ++ roleByte r.rr ++ roleByte r.wr ++
        bytesBE 1 r.fl ++ bytesBE 2 (min r.size 65535) ++ limitBytes (entLimits h idx sub) ++ bytesBE 2 d.length ++ d, false⟩ s t))

/-- R259, R264, R266, R270, R279, R310, R311, R313 to R315, R333: sessions and the node's own commands. A read of CHALLENGE issues one; OPEN with the right
proof takes the lowest free session and uses its challenge up, any other counts toward the lockout and is answered 0Ah; CLOSE frees it. SAFE and RESUME move the node; SAVE waits for
its end; DEFAULTS runs in configuration state only and keeps the epoch (the model's choice, log entry 16); BUMP and APPLY raise the epoch at the head; a map
commit is taken for its sequence. Each of the twelve rows completes in every state, whatever the request.
The hash functions are open constants (log entry 11). -/
def Obligations.LegendSessionsAndNode : Prop :=
  (∀ (s : State) (q : LegReq), (∀ c ∈ [Instr.slotMapCommit, .returnCommit, .sourceCommit, .sessionChallengeRead, .closeSession, .safeCmd, .resumeCmd, .saveCmd,
      .defaultsCmd, .bump, .applyProfile], ∃ g, Sys2Proof.Machine.exec (c q) s = .next (s.setHost g)) ∧
    ∀ ep within, ∃ g, Sys2Proof.Machine.exec (.openSession q ep within) s = .next (s.setHost g)) ∧
  ∀ (s : State) (q0 : LegReq), serving s.dies.host → q0.dest = none →
    let h := (gate s.dies.host q0).1
    let q := (gate s.dies.host q0).2
    let fd := s.dies.field
    let g := legCount h 0
    let l := g.leg
    let rid := q.rid.toNat
    let role := roleRank q.role.toNat
    let move (st : Nat) (u : HostDie) : HostDie := { u with cw := { h.cw with state := st } }
    let ok (idx sub : Nat) (u : HostDie) (c : Instr) : Prop := answers c s (replied 6 q u (okAct idx sub []) s)
    let bare (p : Prop) : Prop := asksAct h q 0x0E [] → roleRank q.role.toNat = 3 → p
    let next : W32 := if h.leg.epoch + 1 = 0 then 1 else h.leg.epoch + 1
    let fits (m : SlotMap) (unique mask c : Nat) (used : Option Nat) : Prop :=
      m.pend = none ∧ m.sh.any (fun e => e.2.testBit 15 && decide (slotCount h ≤ e.2 % (mask + 1))) = false ∧ twice m.sh unique = false ∧
        ∀ u, used = some u → serialGe 32 u c = false
    (fresh h q → q.body = [] → framed q 3 → answers (.sessionChallengeRead q0) s (fun t => ∃ v : List Byte, v.length = 16 ∧
      replied 1 q { withLeg g { l with chal := ⟨v⟩ :: l.chal } with com := { h.com with free := h.com.free + 4 } }
        ⟨0, 0, bytesBE 2 0x0100 ++ [1] ++ [0x0E] ++ bytesBE 2 16 ++ v, false⟩ s t)) ∧
    (∀ (ep : BitVec 48) within d,
      let w := gate s.dies.host { q0 with via := .tool ep.toNat }
      let a := askedOf 6 w.2
      let u := legCount w.1 0
      let r := beAt d 0 1
      let k := u.leg.chal.filter (fun c => decide (c.bytes ≠ slice d 1 16))
      let good := u.leg.chal.any (fun c => decide (c.bytes = slice d 1 16)) && !q0.late && ((match tget none u.leg.keys (r + 1) with
        | some y => decide (slice d 17 48 = Config.hmac384 y (slice d 1 16 ++ bytesBE 1 r ++ bytesBE 8 h.com.fuses.udn.toNat))
        | none => false) || (decide (lcHost h ≤ 1) && decide (r = 2)))
      asksAct w.1 w.2 0x0E d → d.length = 65 → h.leg.lockout = false → (h.cw.noaddr = false ∨ h.cw.state = 4) → r ≤ 2 →
      (∀ i, good = true → i < 15 → tget none u.leg.sessions i = none → (∀ j, j < i → tget none u.leg.sessions j ≠ none) → answers (.openSession q0 ep within) s (fun t =>
        let id := i * 4096 + ownAddr h.cw
        t = s.setHost (answer (withLeg u { u.leg with chal := k, sessions := tput none u.leg.sessions i (some ⟨id, r, ep.toNat, h.dt.time⟩) }) a
          (okAct 0x0100 2 (bytesBE 2 id ++ bytesBE 2 u.leg.idleMax))))) ∧
      (good = true → (∀ j, j < 15 → tget none u.leg.sessions j ≠ none) → answers (.openSession q0 ep within) s (fun t =>
        t = s.setHost (answer (withLeg u { u.leg with chal := k }) a ⟨7, 0, bytesBE 2 0x0100 ++ [2], false⟩))) ∧
      (good = false → answers (.openSession q0 ep within) s (fun t =>
        let n := (if within then u.leg.authRun else 0) + 1
        t = s.setHost (answer (withLeg u { u.leg with chal := k, authRun := if n = 8 then 0 else n, lockout := decide (n = 8) }) a
          ⟨10, 0, bytesBE 2 0x0100 ++ [2], false⟩)))) ∧
    (∀ x, asksAct h q 0x0E [] → 1 ≤ role → rid % 4096 = ownAddr h.cw → tget none h.leg.sessions (rid / 4096) = some x → answers (.closeSession q0) s (fun t =>
      let u := answer g (askedOf 6 q) (okAct 0x0100 3 [])
      t = s.setHost (withLeg u { u.leg with sessions := tput none u.leg.sessions (rid / 4096) none }))) ∧
    bare (ok 0x0010 1 (move (if h.cw.state = 3 then 5 else h.cw.state) (withLeg g { l with stopped := true })) (.safeCmd q0)) ∧
    bare (ok 0x0010 2 (move (if h.cw.state = 3 ∧ datumCond h = true then 5 else if h.cw.state = 5 ∧ datumCond h = false then 3 else h.cw.state)
      (withLeg g { l with stopped := false })) (.resumeCmd q0)) ∧
    (asksAct h q 0x0E [] → 2 ≤ role →
      (h.leg.saving = none → answers (.saveCmd q0) s (fun t =>
        t = s.setHost (withLeg g { l with saving := some ⟨rid, q.rseq.toNat, q.role.toNat, q.flags.toNat, q.via, 0x0010, 3, .act, 0, false⟩ }))) ∧
      (h.leg.saving.isSome = true → answers (.saveCmd q0) s (replied 6 q g ⟨7, 0, bytesBE 2 0x0010 ++ [3], false⟩ s))) ∧
    bare ((configState fd h = true → answers (.defaultsCmd q0) s (fun t => ∃ u, replied 6 q u (okAct 0x0010 4 []) s t ∧ u.leg.name = [] ∧
        u.leg.epoch = h.leg.epoch ∧ u.dt.time = h.dt.time ∧ (h.cw.isHead = true → u.leg.profSt = []))) ∧
      (configState fd h = false → answers (.defaultsCmd q0) s (replied 6 q g ⟨6, 0, bytesBE 2 0x0010 ++ [4], false⟩ s))) ∧
    bare ((h.cw.isHead = true → ok 0x0210 2 (withLeg g { l with epoch := next, profEp := some next }) (.bump q0)) ∧
      (h.cw.isHead = false → answers (.bump q0) s (replied 6 q g ⟨6, 0, bytesBE 2 0x0210 ++ [2], false⟩ s))) ∧
    bare (h.cw.isHead = true → ok 0x0200 0x21
      (safeMove (withLeg g { l with prof := tput [] l.profSt 0x11 (tget [] l.prof 0x11), epoch := next, profEp := some next })) (.applyProfile q0)) ∧
    (∀ c, c < 2 ^ 32 → asksAct h q 4 (bytesBE 4 c) → 2 ≤ role →
      (fits h.cw.slotMap 0 1023 c h.cw.tookS → ok 0x2000 0x81 { g with cw := { h.cw with slotMap := { h.cw.slotMap with pend := some c } } } (.slotMapCommit q0)) ∧
      (fits h.cw.retMap 32 511 c h.cw.sentU → ok 0x2100 0x21 { g with cw := { h.cw with retMap := { h.cw.retMap with pend := some c } } } (.returnCommit q0)) ∧
      (h.cw.isHead = true → fits h.cw.srcMap 0 511 c h.cw.formedS → ok 0x2200 9 { g with cw := { h.cw with srcMap := { h.cw.srcMap with pend := some c } } } (.sourceCommit q0)))

/-- R311, R314, R315, R324 to R327, R329, R335 to R339, R362: what comes later. A subscription sends its value and numbers it; it lapses, but one of an open session
of the node's own gateway goes on; a watch fires once
at its threshold; an outcome is forgotten; a request without a PARAM_RESP is abandoned; SAVE and QUOTE are answered at their end; lockout and sessions end;
the profile is fetched from the head, evaluated, and counted stale.
The code words of an EVENT are open (log entry 9). -/
def Obligations.LegendLater : Prop :=
  ∀ (s : State), s.dies.host.com.runs = true →
    let h := s.dies.host
    let fd := s.dies.field
    let l := h.leg
    let fires (w : Nat) : Prop := (watchRec h w).2.2.1 = true ∧ bit l.fired w = false ∧
      (ofBytesBE (tget [] l.extra (entKey 0x9000 0x21))).testBit w = false ∧ watchHigh fd h w = true
    let renewed (y : Sub) : Bool := match y.via with
      | .tool ep => (sessionOf h ep y.rid).any (fun e => decide (e.2.rid = y.rid))
      | _ => false
    let judged (d : Nat) : Nat :=
      let st := h.cw.state
      let held := h.cw.isHead || decide (l.profEp = some l.epoch) || l.stale
      let a := if st = 1 then (if h.cw.noaddr = true ∨ held = false then 1 else if d ≠ 0 then 2 else if h.dt.cls ≤ profVal h 0x0A 4 then 3 else 1)
        else if (st = 3 ∨ st = 5) ∧ d ≠ 0 then 2 else if st = 2 ∧ d = 0 then (if datumCond h = true then 5 else 3) else st
      if a = 3 ∧ (datumCond h = true ∨ l.stopped = true) then 5 else if a = 5 ∧ datumCond h = false ∧ l.stopped = false then 3 else a
    (∀ n x r, l.subs.find? (fun y => decide (y.id = n)) = some x → entryOf fd x.idx x.sub = .row r → x.idx ≠ 0x0300 → r.field = false →
      (∃ ep, x.via = .tool ep ∧ ep ≠ 0) → (tget none l.sessions (x.rid / 4096)).isSome = true →
      let v := (hostValue fd h x.idx x.sub).take 256
      let m : LegMsg := ⟨0x88, 0, x.rid, x.seq, 0xFF, 0, l.epoch, 0, bytesBE 1 x.id ++ bytesBE 2 x.idx ++ bytesBE 1 x.sub ++ bytesBE 1 r.typ ++ bytesBE 2 v.length ++ v⟩
      let subs := l.subs.map (fun y => if y.id = n then { y with seq := (y.seq + 1) % 65536, last := some v } else y)
      (¬(x.onChg = true ∧ x.last = some v) → answers (.notifySend n) s (fun t => t = s.setHost (withLeg h { l with out := m :: l.out, subs := subs }))) ∧
      (x.onChg = true → x.last = some v → answers (.notifySend n) s (fun t => t = s))) ∧
    (∀ n, answers (.subscriptionLapse n) s (fun t => t = s.setHost (withLeg h { l with subs := l.subs.filter (fun y => decide (y.id ≠ n) || renewed y) }))) ∧
    ((∀ w, w < 32 → ¬fires w) → answers .watchCheck s (fun t => t = s)) ∧
    (∀ w v, w < 32 → fires w → (∀ j, j < w → ¬fires j) → watchVal fd h w = some v → answers .watchCheck s (fun t =>
      t = s.setHost t.dies.host ∧ bit t.dies.host.leg.fired w = true ∧ evWords .watch [w32 (watchRec h w).1, w32 (watchRec h w).2.1, w32 v] ∈ t.dies.host.com.events)) ∧
    (∀ rid rseq : BitVec 16,
      let keepH (r : DupReq) : DupReq := if r.rid = rid.toNat then { r with outs := r.outs.filter (fun e => decide (e.1 ≠ rseq.toNat)) } else r
      let keepF (r : FieldDup) : FieldDup := if r.rid = rid.toNat then { r with outs := r.outs.filter (fun e => decide (e.1 ≠ rseq.toNat)) } else r
      answers (.dupExpiry .host rid rseq) s (fun t =>
        t = s.setHost (withLeg h { l with dups := (l.dups.map keepH).filter (fun r => decide (r.outs ≠ [])) })) ∧
      (fd.com.runs = true → answers (.dupExpiry .field rid rseq) s (fun t =>
        t = s.setField { fd with dups := (fd.dups.map keepF).filter (fun r => decide (r.outs ≠ [])) }))) ∧
    (∀ rid rseq : BitVec 16, (∃ w ∈ l.fwd, w.rid = rid.toNat ∧ w.rseq = rseq.toNat) → answers (.weirForwardTimeout rid rseq) s (fun t =>
      let old := ((dupOuts h rid.toNat).getD []).filter (fun e => decide (e.1 ≠ rseq.toNat))
      let fwd := l.fwd.filter (fun v => !(decide (v.rid = rid.toNat) && decide (v.rseq = rseq.toNat)))
      let dups := ⟨rid.toNat, ((rseq.toNat, .abandoned) :: old).take 16⟩ :: l.dups.filter (fun r => decide (r.rid ≠ rid.toNat))
      t = s.setHost (withLeg h { l with fwd := fwd, cnt := ctrAdd l.cnt 7 1, dups := dups }))) ∧
    (∀ w, l.saving = some w → answers .saveDone s (fun t =>
      let u := withLeg h { l with saving := none, record := saveRecord fd h, savedEp := if h.cw.isHead then l.epoch else l.savedEp }
      t = s.setHost (answer u (fwdAsked w) (okAct w.idx w.sub [])))) ∧
    (∀ w, l.quoting = some w → answers .quoteDone s (fun t =>
      let q := quoteBytes fd h
      let u := withBoot (withLeg h { l with quoting := none }) { h.boot with quoteBusy := false, quote := q }
      t = s.setHost (answer u (fwdAsked w) ⟨0, 0, bytesBE 2 w.idx ++ bytesBE 1 w.sub ++ [3] ++ bytesBE 2 2 ++ bytesBE 2 768, false⟩) ∧ q.length = 768)) ∧
    answers .openLockoutEnd s (fun t => t = s.setHost (withLeg h { l with lockout := false })) ∧
    (∀ n, answers (.sessionIdle n) s (fun t => t = s.setHost (withLeg h { l with sessions := tput none l.sessions n none }))) ∧
    (∀ x, h.cw.isHead = false → h.cw.noaddr = false → l.profEp ≠ some l.epoch → h.coresRun = true → upPort h.cw = some x → answers .profileFetch s (fun t =>
      let n := (l.selfSeq + 1) % 65536
      let m : LegMsg := ⟨3, 0, 0xF000 + h.cw.addr, n, 2, 0, 0, 0, bytesBE 2 0x0200 ++ [0x20] ++ bytesBE 4 0 ++ bytesBE 2 992⟩
      t = s.setHost (cwQueue (withLeg h { l with selfSeq := n, out := m :: l.out }) x (cwTx 3 0 0 (legBytes m))))) ∧
    answers .profileEvaluate s (fun t => ∃ d : Nat,
      t = s.setHost { withLeg h { l with disagree := d } with cw := { h.cw with state := judged d } } ∧
      (d.testBit 3 = (h.com.weir.farPresent && decide (ofBytesBE (profGet l.prof 0x0D) ≠ 255) && decide (ofBytesBE (profGet l.prof 0x0D) ≠ rateOf fd.mer))) ∧
      d.testBit 5 = (h.com.weir.farPresent && fd.mer.numConflict) ∧ d.testBit 6 = l.stale) ∧
    (h.cw.isHead = false → l.profEp ≠ some l.epoch → answers .profileStale s (fun t => ∃ d : Nat,
      let st := h.cw.state
      t = s.setHost { withLeg h { l with stale := true, disagree := d } with
        cw := { h.cw with state := if st = 1 then (if h.cw.noaddr = true then 1 else 2) else if st = 3 ∨ st = 5 then 2 else st } } ∧ d.testBit 6 = true))

/-! ### Boot, trust and update -/

/-- R341 to R348, R361, R362, R375: lifecycle, tokens, keys, quotes. A transition is made with the authority it needs, logged, asked of the field die, whose
lifecycle is read back; any other is answered 05h, one without its token 0Ah; VOID blows its bits and wipes the key. An accepted UNLOCK opens the ports it
names, on the Legend entry and at either test port; TEST_CTRL is written while not locked; a key slot is programmed, a slot revoked but not the last, anything
else answered 06h; the fault log is cleared; a quote is begun once.
The hash and signature functions are open constants (log entry 11); the field die's record of the challenge is the model's (log entry 18). -/
def Obligations.TrustActions : Prop :=
  ∀ (s : State) (q0 : LegReq), serving s.dies.host → q0.dest = none →
    let h0 := s.dies.host
    let h := (gate h0 q0).1
    let q := (gate h0 q0).2
    let fd := s.dies.field
    let g := legCount h 0
    let b := h.boot
    let fz := h.com.fuses
    let err (code sub : Nat) (u : HostDie) (c : Instr) : Prop := answers c s (replied 6 q u ⟨code, 0, bytesBE 2 0x8000 ++ bytesBE 1 sub, false⟩ s)
    let boss : Prop := roleRank q.role.toNat = 3
    let good (kind : Nat) (t : List Byte) : Prop := tokenOk h q.late t = true ∧ beAt t 0 1 = kind
    let spent : HostDie := withBoot g { b with chal := none }
    let openedHere (t : List Byte) (u : HostDie) : HostDie :=
      let arg := beAt t 1 1
      let u := { u with com := { u.com with testCtrl := if arg.testBit 0 ∧ lcHost h ≠ 4 then u.com.testCtrl ||| 5 else u.com.testCtrl } }
      let tb := tokenTaken b t
      withBoot u (logged h { tb with ksCtrl := tb.ksCtrl ||| 4 } 4 [w32 arg])
    let opened (t : List Byte) (u : HostDie) : HostDie :=
      if (beAt t 1 1).testBit 1 then asked (openedHere t u) 0x0E 0x8000 5 t else openedHere t u
    let ctrl (old new v : W32) (lc : Nat) : Prop := bit new 1 = (bit old 1 || bit v 1) ∧ bit new 2 = bit old 2 ∧
      bit new 0 = if bit old 1 = false ∧ (bit v 0 = false ∨ lcOpen lc = true ∨ bit old 2 = true) then bit v 0 else bit old 0
    (∀ d : List Byte, asksAct h q 0x0E d → d.length ≤ 225 → boss →
      let dst := beAt d 0 1
      let made (u : HostDie) (f : Fuses) : HostDie := splitNow (askMeasure (asked (withBoot (withFuses u f) (logged h u.boot 3 [w32 dst])) 0x0E 0x8000 4 d))
      ((lcHost h = 0 ∧ dst = 1 ∨ lcHost h = 1 ∧ dst = 2 ∧ liveSlots fz ≠ []) →
        answers (.lifecycleAdvance q0) s (replied 6 q (made g (lcBlow fz dst)) (okAct 0x8000 4 []) s)) ∧
      (lcHost h = 1 → dst = 2 → liveSlots fz = [] → err 6 4 g (.lifecycleAdvance q0)) ∧
      (lcHost h = 2 → dst = 3 → good 2 (d.drop 1) → answers (.lifecycleAdvance q0) s
        (replied 6 q (made (withBoot g (tokenTaken b (d.drop 1))) (lcBlow { fz with wiped := true } 3)) (okAct 0x8000 4 []) s)) ∧
      (lcHost h = 2 → (dst = 3 ∨ dst = 4) → tokenOk h q.late (d.drop 1) = false → err 10 4 spent (.lifecycleAdvance q0)) ∧
      ((lcHost h ≤ 1 ∨ lcHost h = 3) → dst = 4 → answers (.lifecycleAdvance q0) s (fun t =>
        lcOf t.dies.host.com.fuses = 4 ∧ t.dies.host.com.fuses.wiped = true ∧ t.dies.field = fd)) ∧
      (lcHost h ≤ 4 → (dst ≤ lcHost h ∨ 4 < dst ∨ lcHost h + 1 < dst ∧ dst ≠ 4) → err 5 4 g (.lifecycleAdvance q0))) ∧
    (fresh h q → q.body = [] → framed q 3 → 1 ≤ roleRank q.role.toNat → answers (.lifecycleChallengeRead q0) s (fun t => ∃ v : List Byte, v.length = 16 ∧
      replied 1 q { withBoot g { b with chal := some ⟨v⟩, issued := v } with com := { h.com with free := h.com.free + 4 } }
        ⟨0, 0, bytesBE 2 0x8000 ++ [3] ++ [0x0E] ++ bytesBE 2 16 ++ v, false⟩ s t)) ∧
    (∀ t : List Byte, asksAct h q 0x0E t → boss → t.length ≤ 224 →
      (good 1 t → answers (.unlock q0) s (replied 6 q (opened t g) (okAct 0x8000 5 []) s)) ∧
      (tokenOk h q.late t = false → err 10 5 spent (.unlock q0))) ∧
    (∀ (t : List Byte) late, lcHost h ≠ 4 → beAt t 0 1 = 1 →
      (tokenOk h late t = true → answers (.testToken .host ⟨t, late⟩) s (fun u => u = s.setHost (opened t h0))) ∧
      (tokenOk h late t = false → answers (.testToken .host ⟨t, late⟩) s (fun u => u = s.setHost (withBoot h0 { b with chal := none })))) ∧
    (∀ (t : List Byte) late, fd.com.runs = true → fd.com.weir.farPresent = true → lcFieldIn fd ≠ 4 → b.chal.isSome = true → beAt t 0 1 = 1 →
      let accepts : Bool := tokenBase fd.com.fuses t && chalOk b.issued fd.chalUsed late t
      let c := if (beAt t 1 1).testBit 1 then fd.com.testCtrl ||| 5 else fd.com.testCtrl
      let f := { fd with chalUsed := b.issued }
      (accepts = true → answers (.testToken .field ⟨t, late⟩) s (fun u => u = (s.setHost (openedHere t h0)).setField
        { f with fb := { fd.fb with rootLock := true }, com := { fd.com with testCtrl := c, faults := (4, [w32 (beAt t 1 1)]) :: fd.com.faults } })) ∧
      (accepts = false → answers (.testToken .field ⟨t, late⟩) s (fun u => u = (s.setHost (withBoot h0 { b with chal := none })).setField f))) ∧
    (∀ v : W32, answers (.testCtrlWrite .host v) s (fun t => ∃ c : W32, t = s.setHost { h0 with com := { h.com with testCtrl := c } } ∧ ctrl h.com.testCtrl c v (lcHost h))) ∧
    (∀ v : W32, fd.com.runs = true → answers (.testCtrlWrite .field v) s (fun t => ∃ c : W32,
      t = s.setField { fd with com := { fd.com with testCtrl := c } } ∧ ctrl fd.com.testCtrl c v (lcFieldIn fd))) ∧
    (∀ d : List Byte, asksAct h q 0x0E d → boss → d.length ≤ 224 →
      let put (k : Nat) (dig : List Byte) : Fuses := { fz with programmed := fz.programmed ||| 2 ^ k, digests := tput [] fz.digests k dig }
      (lcHost h ≤ 1 → d.length = 49 → beAt d 0 1 < 4 → fz.programmed.testBit (beAt d 0 1) = false → answers (.keyAdd q0) s (fun t => ∃ u,
        replied 6 q u (okAct 0x8000 7 []) s t ∧ u.com.fuses = put (beAt d 0 1) (d.drop 1) ∧ ⟨b.logSeq + 1, h.dt.time, 5, [w32 (beAt d 0 1)]⟩ ∈ u.boot.log)) ∧
      (lcHost h = 2 → d.length = 224 → good 4 d → beAt d 1 1 < 4 → fz.programmed.testBit (beAt d 1 1) = false → answers (.keyAdd q0) s (fun t => ∃ u,
        replied 6 q u (okAct 0x8000 7 []) s t ∧ u.com.fuses = put (beAt d 1 1) (slice d 28 48) ∧ u.boot.chal = none)) ∧
      (lcHost h ≤ 1 → (d.length ≠ 49 ∨ 4 ≤ beAt d 0 1 ∨ fz.programmed.testBit (beAt d 0 1) = true) → err 6 7 g (.keyAdd q0)) ∧
      (3 ≤ lcHost h → err 6 7 g (.keyAdd q0))) ∧
    (∀ t : List Byte, asksAct h q 0x0E t → boss →
      (t.length < 224 → err 6 8 g (.keyRevoke q0)) ∧ (t.length = 224 → tokenOk h q.late t = false → err 6 8 spent (.keyRevoke q0))) ∧
    (∀ t : List Byte, asksAct h q 0x0E t → boss → t.length = 224 → good 5 t →
      let k := beAt t 1 1
      (beAt t 2 1 ≠ k → slotLive fz k = true → liveSlots fz ≠ [k] → answers (.keyRevoke q0) s (replied 6 q
        (asked (withBoot (withFuses g { fz with revoked := fz.revoked ||| 2 ^ k }) (logged h (tokenTaken b t) 5 [w32 k])) 0x0E 0x8000 8 t) (okAct 0x8000 8 []) s)) ∧
      (beAt t 2 1 = k ∨ slotLive fz k = false ∨ liveSlots fz = [k] → err 6 8 (withBoot g (tokenTaken b t)) (.keyRevoke q0))) ∧
    (asksAct h q 0x0E [] → boss → answers (.faultLogClear q0) s (replied 6 q (withBoot g { b with log := [] }) (okAct 0x9300 3 []) s)) ∧
    (∀ d : List Byte, asksAct h q 0x0E d → d.length ≤ 32 → 2 ≤ roleRank q.role.toNat →
      let busy (code : Nat) : Prop := answers (.quote q0) s (replied 6 q g ⟨code, 0, bytesBE 2 0x8030 ++ [1], false⟩ s)
      (lcHost h < 3 → b.quoteBusy = false → answers (.quote q0) s (fun t =>
        let w : Fwd := ⟨q.rid.toNat, q.rseq.toNat, q.role.toNat, q.flags.toNat, q.via, 0x8030, 1, .act, 0, false⟩
        t = s.setHost (withBoot (withLeg g { g.leg with quoting := some w }) { b with quoteBusy := true, quoteReq := d }))) ∧
      (lcHost h < 3 → b.quoteBusy = true → busy 7) ∧ (3 ≤ lcHost h → busy 6))

/-- R309, R349, R350, R353, R356, R359 to R361, R363, R364, R371, R373, R374: boot and update. A source abandoned gives way to the next, to which the ROM
listens, CA brought up at SPEED AUTO or SPP1 made a slave, and leaves a record; the ROM sends PULL on CA; an image chosen runs. MS_CTRL extends the register named, but MS0 once locked; KS_DERIVE gives a key, or says why not; KS_CTRL
sets locks. An image is opened, erased for, activated by a new directory copy, or aborted.
The hash and signature functions are open constants (log entry 11). -/
def Obligations.BootAndUpdate : Prop :=
  ∀ (s : State) (q : LegReq), s.dies.host.com.runs = true →
    let h := s.dies.host
    let g := legCount h 0
    let b := h.boot
    let boss : Prop := serving h ∧ gated h q ∧ roleRank q.role.toNat = 3
    let err (code sub : Nat) (c : Instr) : Prop := answers c s (replied 6 q g ⟨code, 0, bytesBE 2 0x8040 ++ bytesBE 1 sub, false⟩ s)
    let ok (sub : Nat) (x : Boot) (c : Instr) : Prop := answers c s (replied 6 q (withBoot g x) (okAct 0x8040 sub []) s)
    let only (c : Instr) (x : Boot) : Prop := answers c s (fun t => t = s.setHost (withBoot h x))
    (∀ k rest, b.inRom = true → b.sources = k :: rest → answers .bootSourceAbandon s (fun t =>
      let bad (v : Nat) : Nat := if v = 0 then 3 else v
      let recs : List (Nat × Nat) := if k = 1 then (slotOrder b).map (fun i => (i + 1, bad (imageVerdict h (slotBlock b i))))
        else [(if k = 2 then 3 else 4, if pushWhole h = true then bad (imageVerdict h (pushBlock b)) else 3)]
      let x : Boot := { b with sources := rest, attempts := (b.attempts ++ recs).take 8, xfer := xfer0, push := [] }
      let u := t.dies.host.spp
      let v := t.dies.host.cw
      t = s.setHost { withBoot h x with spp := u, cw := v } ∧ (rest ≠ [] → rest.head? ≠ some 3 → u = { h.spp with sstat := h.spp.sstat / 2 * 2 }) ∧
        ((rest = [] ∨ rest.head? = some 3) → u.sstat.testBit 0 = true ∧ fld u.p1.ctl 1 0 = 3 ∧ u.busy = false) ∧ (rest.head? ≠ some 2 → v = h.cw) ∧
        (rest.head? = some 2 → bit v.ctrl 0 = true ∧ fld (cwPort v 0).pctl 1 0 = 2 ∧ bit (cwPort v 0).pctl 2 = true ∧
          ∀ y, 0 < y → y < 3 → cwPort v y = cwPort h.cw y))) ∧
    (∀ rest, b.inRom = true → b.sources = 2 :: rest → portUp h.cw 0 = true → answers .pullSend s (fun t =>
      let m : LegMsg := ⟨6, 0, 0xF000 + ownAddr h.cw, b.pulls % 65536, 0xFF, 0, 0, 0,
        bytesBE 2 0x8040 ++ [0x06, 0x0E] ++ bytesBE 2 13 ++ bytesBE 4 0x4E412820 ++ bytesBE 8 h.com.fuses.udn.toNat ++ bytesBE 1 (lcHost h)⟩
      let p := cwPort h.cw 0
      t = s.setHost { withBoot h { b with pulls := b.pulls + 1 } with cw := cwSetPort h.cw 0 { p with txq := p.txq ++ [cwTx 3 3 0 (legBytes m)] } })) ∧
    (∀ d : List Byte, serving h → gated h q → asksAct h q 0x0E d → d.length ≤ 13 → ok 6 b (.pull q)) ∧
    (∀ c, b.inRom = true → h.coresRun = true → romTests h.com = false → chooseImage h = some c → answers .stage1Start s (fun t =>
      let x := t.dies.host.boot
      t = s.setHost t.dies.host ∧ x.inRom = false ∧ x.source = c.src ∧ x.man = c.blk 0 ∧ x.core1 = true ∧ x.pmp = true ∧ bit x.ksCtrl 0 = true ∧
        bit x.ksCtrl 1 = true ∧ (c.verified = false → bit x.ksCtrl 2 = true))) ∧
    (∀ v : W32,
      let x : Boot := { b with msSlot := fld v 2 0, msRef := b.msRef && !bit v 9 }
      let data := (List.range 12).flatMap (fun w => bytesLE 4 (tget 0 b.msData w).toNat)
      let ms := tput [] b.ms (fld v 2 0) (Config.sha384 (fixLen 48 (tget [] b.ms (fld v 2 0)) ++ data))
      let n := (tget 0 b.msCnt (fld v 2 0) + 1) % 65536
      (bit v 8 = true → (fld v 2 0 ≠ 0 ∨ bit b.ksCtrl 0 = false) → only (.msExtend v) { x with ms := ms, msCnt := tput 0 b.msCnt (fld v 2 0) n }) ∧
      (bit v 8 = true → fld v 2 0 = 0 → bit b.ksCtrl 0 = true → only (.msExtend v) { x with msRef := true }) ∧
      (bit v 8 = false → only (.msExtend v) x)) ∧
    (∀ v : W32,
      let n := fld v 19 16
      let x : Boot := { b with ksHandle := n }
      let label := (List.range 8).flatMap (fun w => bytesLE 4 (tget 0 b.ksLabel w).toNat)
      (bit v 31 = true → bit b.ksCtrl 2 = true → only (.ksDerive v) { x with ksResult := 3 }) ∧
      (bit v 31 = true → bit b.ksCtrl 2 = false → b.svn.toNat < b.ksVer.toNat → only (.ksDerive v) { x with ksResult := 2 }) ∧
      (bit v 31 = true → bit b.ksCtrl 2 = false → b.ksVer.toNat ≤ b.svn.toNat →
        (let key := Config.hmac384 (rootKeyOf h.com.fuses) (ascii "NK-SEAL" ++ label ++ bytesBE 4 b.ksVer.toNat)
         only (.ksDerive v) { x with ksResult := 1, handles := tput [] b.handles n key }))) ∧
    (∀ v : W32, answers (.ksLockWrite v) s (fun t => ∃ c : W32, t = s.setHost (withBoot h { b with ksCtrl := c }) ∧
      ∀ i, bit c i = (bit b.ksCtrl i || (decide (i < 3) && bit v i)))) ∧
    (∀ n, n < 2 ^ 32 → boss → asksAct h q 4 (bytesBE 4 n) →
      (1 ≤ n → n ≤ 25165824 → ok 1 { b with xfer := { xfer0 with state := 1, size := n } } (.imageOpen q)) ∧
      ((n = 0 ∨ 25165824 < n) → err 5 1 (.imageOpen q))) ∧
    (b.xfer.state = 1 → only .imageEraseDone { b with
      flash := tclear b.flash (slotBase (slotFree b)) (slotBase (slotFree b) + 0x1800000), xfer := { b.xfer with state := 2 } }) ∧
    (∀ p, p < 256 → boss → asksAct h q 2 (bytesBE 1 p) →
      (b.xfer.state ≠ 3 → err 6 4 (.imageActivate q)) ∧
      (b.xfer.state = 3 → 1 < p → err 5 4 (.imageActivate q)) ∧
      (b.xfer.state = 3 → (p = 1 ∨ p = 0 ∧ b.runDig = imageDigests (slotBlock b (slotFree b)) ∧ fieldDigest (slotBlock b (slotFree b)) = []) →
        ok 4 { dirWrite b (slotFree b) with xfer := xfer0 } (.imageActivate q))) ∧
    (boss → asksAct h q 0x0E [] → ok 5 { b with xfer := xfer0 } (.imageAbort q))

/-! ### DMA queues and serial ports -/

/-- R378 to R381, R384 to R388: DMA queues of both dies. EN, RESUME, PIDX and AUDIT change their queue alone; EN 0 leaves it empty and returns what was
posted as ABORTED; a granted queue fetches its next descriptor, and one in progress runs beat by beat, its STATUS written where it ends and DIDX advanced; a write
of the field DMA that makes the seam can move the class. -/
def Obligations.DmaQueues : Prop :=
  ∀ (s : State) (d : Side) (n : Nat), (comOf d s.dies).runs = true → n < queuesOf d →
    let q := dmaQ (dmaOf d s) n
    let size (v : W32) : Nat := if 10 < fld v 7 4 then q.size else fld v 7 4
    let set (v : W32) : DmaQ :=
      { q with prio := fld v 2 1, irqEn := bit v 8, size := if q.en then q.size else size v, refused := q.refused || (q.en && decide (size v ≠ q.size)), halted := if bit v 9 then false else q.halted }
    let now (c : Instr) (x : DmaQ) : Prop := answers c s (fun t => queueNow d n s t (fun y => y = x))
    let gives (c : Instr) (p : State → Prop) : Prop := answers c s (fun t => ∃ u, t = judged s u ∧ p u)
    let posted := (q.pidx + 65536 - q.didx) % 65536
    let agrees : Prop := q.pidx < 65536 ∧ q.didx < 65536 ∧ q.cidx < 65536 ∧ (q.cidx + 65536 - q.didx) % 65536 = b2n q.cur.isSome ∧ b2n q.cur.isSome ≤ posted ∧ posted ≤ 2 ^ (q.size + 2)
    let at' (i : Nat) : Nat := q.base.toNat + 32 * (i % 2 ^ (q.size + 2))
    let granted : Prop := dmaGranted (dmaOf d s) (queuesOf d) = some n
    let ends (u : State) (c : DmaCur) (code bytes : Nat) (t : State) : Prop :=
      let x := dmaQ (dmaOf d u) n
      let v := busWrote d u (x.base.toNat + 32 * (c.at' % 2 ^ (x.size + 2)) + 28) (bytesLE 4 (dmaStatus code bytes).toNat)
      let z := dmaQ (dmaOf d v) n
      queueNow d n v t (fun y =>
        y = { z with didx := (z.didx + 1) % 65536, cur := none, irq := z.irq || (bit (wAt c.words 0) 8 && z.irqEn) })
    (∀ v : W32, bit v 0 = true → bit v 10 = false → now (.dmaQueueEnable d n v) { set v with en := true }) ∧
    (∀ v : W32, bit v 0 = true → bit v 9 = true → bit v 10 = false → q.en = true → now (.dmaResume d n v) { set v with en := true, halted := false }) ∧
    (∀ v : W32, bit v 0 = false → bit v 10 = false → q.en = true → gives (.dmaQueueDisable d n v) (fun t =>
      let y := dmaQ (dmaOf d t) n
      y.en = false ∧ y.cur = none ∧ y.halted = false ∧ y.cidx = y.pidx ∧ y.didx = y.pidx ∧
        (∀ u : Side, u ≠ d → comOf u t.dies = comOf u s.dies) ∧ (agrees → posted = 0 → queueNow d n s t (fun y => y.pidx = q.pidx)) ∧
        (∀ bs, agrees → posted = 1 → q.cur = none → bit v 9 = false → busReads d s (at' q.didx) 4 bs → ∃ e,
          t = withDma d e (busWrote d (withDma d (dmaSetQ (dmaOf d s) n (set v)) s) (at' q.didx + 28) (bytesLE 4 (dmaStatus 1 0).toNat))))) ∧
    (∀ v : W32, bit v 0 = true → bit v 10 = true →
      ((q.cidx + 65536 - q.didx) % 65536 = b2n q.cur.isSome → b2n q.cur.isSome ≤ posted → posted ≤ 2 ^ ((set v).size + 2) →
        now (.dmaAudit d n v) { set v with en := true }) ∧
      ((q.cidx + 65536 - q.didx) % 65536 ≠ b2n q.cur.isSome → q.didx = q.pidx →
        now (.dmaAudit d n v) { set v with en := true, cur := none, cidx := q.pidx, didx := q.pidx, resync := true, resyncs := q.resyncs + 1 })) ∧
    (∀ v : W32, now (.dmaPidxWrite d n v)
      (if 2 ^ (q.size + 2) < (fld v 15 0 + 65536 - q.didx) % 65536 then { q with overpost := true } else { q with pidx := fld v 15 0 })) ∧
    (∀ bs : List Byte, granted → q.cur = none → busReads d s (at' q.cidx) 28 bs → dmaBadop (wordsOfBytes bs) (match d with | .host => (sppBound s.dies.host n).isSome | .field => false) = false →
      answers (.dmaDescFetch d n) s (fun t => queueNow d n s t (fun y =>
        y = { q with cidx := (q.cidx + 1) % 65536, cur := some ⟨wordsOfBytes bs, q.cidx, 0, [], 0⟩ }))) ∧
    (∀ c, granted → q.cur = some c → fld (wAt c.words 0) 7 0 = 0 → gives (.dmaNop d n) (ends s c 0 0)) ∧
    (∀ c beats, granted → q.cur = some c → fld (wAt c.words 1) 23 0 = 0 →
      (fld (wAt c.words 0) 7 0 = 1 → gives (.dmaCopy d n beats) (ends s c 0 0)) ∧
      (fld (wAt c.words 0) 7 0 = 2 → gives (.dmaFill d n beats) (ends s c 0 0))) ∧
    (∀ c, granted → q.cur = some c → c.read = c.done → c.funnel = [] → c.done % 16 = 0 → (wAt c.words 3).toNat % 16 = 0 →
      let len := fld (wAt c.words 1) 23 0
      let dst := (wAt c.words 3).toNat + c.done
      let beat (bs : List Byte) (more : Nat) (t : State) : Prop :=
        let w := busWrote d s dst bs
        let u := withDma d (dmaBeatCount (dmaSetQ (dmaOf d w) n { dmaQ (dmaOf d w) n with cur := some ⟨c.words, c.at', c.done + 16, [], c.done + more⟩ }) n 1) w
        (c.done + 16 < len → t = u) ∧ (c.done + 16 = len → ends u c 0 len t)
      c.done + 16 ≤ len →
      (∀ bs : List Byte, fld (wAt c.words 0) 7 0 = 1 → (wAt c.words 2).toNat % 16 = 0 → bs.length = 16 →
        busReads d s ((wAt c.words 2).toNat + c.done) 16 bs → busTakes d s dst bs = true → gives (.dmaCopy d n 1) (beat bs 16)) ∧
      (fld (wAt c.words 0) 7 0 = 2 →
        let bs := (List.range 16).map (fun i => byteN (wAt c.words 4).toNat (i % 4))
        busTakes d s dst bs = true → gives (.dmaFill d n 1) (beat bs 0)))

/-- R309, R389 to R402: the serial ports. EN 0 lets go of the select and returns the entry in progress; a lost select with MM 1 stops the port, an idle one lets a
waiting entry go on; an SPP entry runs as one frame on its port; XIP serves reads from its lines or by a miss; the slave of SPP1 reads and writes its
registers and the exchange bank, hands the requests posted in its ring to the node's gateway, ends a transaction cleanly or with ABORT, and drops a response
that found no room. -/
def Obligations.SerialPorts : Prop :=
  ∀ (s : State), s.dies.host.com.runs = true →
    let h := s.dies.host
    let b := h.spp
    let only (c : Instr) (x : SppBlk) : Prop := answers c s (fun t => t = s.setHost (withSpp h x))
    let free (x : Nat) : Prop := 48 ≤ fld (sppPort h x).ctl 21 16
    let put (x : Nat) (p : Spp) : SppBlk := if x = 0 then { b with p0 := p } else { b with p1 := p }
    let idle : Prop := slaveOn h = true ∧ b.op = .idle
    let wait (n x : Nat) (c : DmaCur) : Prop := n < 48 ∧ (dmaQ h.com.dma n).cur = some c ∧ sppBound h n = some x ∧ fld (wAt c.words 0) 7 0 = 3 ∧
      dmaGranted h.com.dma 48 = some n ∧ sppSlave h x = false
    let ended (n code bytes : Nat) (c : DmaCur) (u : State) (t : State) : Prop :=
      let q := dmaQ (dmaOf .host u) n
      let v := busWrote .host u (q.base.toNat + 32 * (c.at' % 2 ^ (q.size + 2)) + 28) (bytesLE 4 (dmaStatus code bytes).toNat)
      queueNow .host n v t (fun y => y.cur = none ∧ y.didx = ((dmaQ (dmaOf .host v) n).didx + 1) % 65536)
    (∀ v : W32, bit v 0 = false → 4 ≤ fld v 31 24 → fld v 21 16 = 63 → free 0 → only (.sppEnWrite 0 v)
      { b with p0 := { b.p0 with ctl := v &&& 0xFF3F001D, keep := none, active := false, waitSel := false } }) ∧
    (∀ v : W32, bit v 0 = true → bit v 1 = false → 4 ≤ fld v 31 24 → fld v 21 16 = 63 → only (.sppEnWrite 1 v)
      { b with p1 := { b.p1 with ctl := v &&& 0xFF3F000F }, busy := true, op := .idle }) ∧
    (∀ x c, x < 2 → fld (sppPort h x).ctl 21 16 < 48 → (dmaQ h.com.dma (fld (sppPort h x).ctl 21 16)).cur = some c → fld (wAt c.words 0) 7 0 = 3 →
      (∀ v : W32, bit v 0 = false → answers (.sppEnWrite x v) s (fun t =>
        (dmaQ t.dies.host.com.dma (fld (sppPort h x).ctl 21 16)).cur = none ∧ (sppPort t.dies.host x).active = false ∧ (sppPort t.dies.host x).keep = none)) ∧
      (bit (sppPort h x).ctl 2 = true → (sppPort h x).active = true → answers (.sppSelectLost x) s (fun t =>
        let q := dmaQ t.dies.host.com.dma (fld (sppPort h x).ctl 21 16)
        q.cur = none ∧ q.halted = true ∧ (sppPort t.dies.host x).mmFault = true ∧ (sppPort t.dies.host x).stopped = true ∧ (sppPort t.dies.host x).active = false))) ∧
    (∀ x, x < 2 → free x → bit (sppPort h x).ctl 2 = true → (sppPort h x).active = true → only (.sppSelectLost x)
      (put x { sppPort h x with mmFault := true, stopped := true, active := false, keep := none, waitSel := false })) ∧
    (∀ x, x < 2 → bit (sppPort h x).ctl 2 = true → (sppPort h x).waitSel = true → (sppPort h x).stopped = false → only (.sppSelectIdle x)
      (put x { sppPort h x with waitSel := false, active := true })) ∧
    (∀ n x c rx, wait n x c →
      let p := sppPort h x
      let fmt := wAt c.words 6
      let frame (data : List Byte) (u : State) : State :=
        let f : SppFrame := ⟨fld fmt 22 21, fmt, fld (wAt c.words 4) 15 0, wAt c.words 5, fld (wAt c.words 4) 23 16, data⟩
        let k := if bit fmt 24 then some (fld fmt 22 21) else none
        u.setHost (withSpp u.dies.host (put x { p with frames := f :: p.frames, keep := k, active := bit fmt 24 }))
      (bit p.ctl 0 = false → answers (.dmaSpp n rx) s (ended n 1 0 c s)) ∧
      (bit p.ctl 0 = true → p.stopped = false → bit p.ctl 2 = true → p.active = false → only (.dmaSpp n rx) (put x { p with waitSel := true })) ∧
      (bit p.ctl 0 = true → p.stopped = false → (bit p.ctl 2 = false ∨ p.active = true) → p.keep = none → xipOn h = false → bit fmt 23 = true → bit fmt 18 = false →
        fld (wAt c.words 1) 23 0 = 16 →
        (∀ bs : List Byte, bit fmt 17 = true → (wAt c.words 2).toNat % 16 = 0 → bs.length = 16 → busReads .host s (wAt c.words 2).toNat 16 bs →
          answers (.dmaSpp n rx) s (ended n 0 16 c (frame bs s))) ∧
        (bit fmt 17 = false → (wAt c.words 3).toNat % 16 = 0 → busTakes .host (frame [] s) (wAt c.words 3).toNat (fixLen 16 rx) = true →
          answers (.dmaSpp n rx) s (ended n 0 16 c (busWrote .host (frame [] s) (wAt c.words 3).toNat (fixLen 16 rx)))))) ∧
    (∀ off : BitVec 28,
      let k := off.toNat / 64
      (xipOn h = false → only (.xipRead off) { b with xipOut := none :: b.xipOut }) ∧
      (∀ l, xipOn h = true → b.lines.find? (fun l => decide (l.1 = k)) = some l → only (.xipRead off)
        { b with lines := l :: b.lines.filter (fun m => decide (m.1 ≠ k)), xipOut := some (byAt l.2 (off.toNat % 64)) :: b.xipOut }) ∧
      (xipOn h = true → (∀ l ∈ b.lines, l.1 ≠ k) → b.p0.keep = none → b.p0.stopped = false → (bit b.p0.ctl 2 = false ∨ b.p0.active = true) → answers (.xipRead off) s (fun t =>
        let u := t.dies.host.spp
        t = s.setHost (withSpp h u) ∧ u.xipOut = some (tget 0xFF h.boot.flash off.toNat) :: b.xipOut ∧ u.lastMiss = some k ∧ u.lines.length ≤ 4 ∧
          u.lines.head? = some (k, (List.range 64).map (fun i => tget 0xFF h.boot.flash (64 * k + i))) ∧ u.p0.frames.length ≤ b.p0.frames.length + 2)) ∧
      (xipOn h = true → (∀ l ∈ b.lines, l.1 ≠ k) → b.p0.keep = none → b.p0.stopped = false → bit b.p0.ctl 2 = true → b.p0.active = false →
        only (.xipRead off) { b with p0 := { b.p0 with waitSel := true } })) ∧
    (∀ v : W32, (bit v 31 = true ∨ xipOn h = false) → only (.xipEnWrite v) { b with xipMode := v &&& 0x8300FFFF }) ∧
    (∀ v : W32, bit v 31 = false → xipOn h = true →
      let x : SppFrame := ⟨fld b.xipMode 25 24, b.xipCfg, 0, 0, fld b.xipMode 15 8, []⟩
      let p := if b.p0.modeOn then { b.p0 with frames := x :: b.p0.frames, modeOn := false } else b.p0
      only (.xipEnWrite v) { b with p0 := p, lines := [], lastMiss := none, xipMode := v &&& 0x8300FFFF }) ∧
    (∀ (a : BitVec 6) k, idle → only (.slaveRegRead a ⟨k, []⟩) { b with op := .regRead, stByte := w32 ((slaveStat h).toNat % 256), sent := (List.range k).map (fun i => slaveGet h ((a.toNat + i) % 64)) }) ∧
    (∀ a : BitVec 6, idle → only (.slaveRegRead a ⟨1, [0]⟩) { b with op := .regRead, stByte := w32 ((slaveStat h).toNat % 256), sent := [0xFFFFFFFF], sstat := b.sstat ||| 2, uaddr := if b.sstat.testBit 1 then b.uaddr else a.toNat }) ∧
    (∀ v : W32, idle → only (.slaveRegWrite 3 ⟨[v], []⟩) { b with op := .regWrite, dbIn := b.dbIn ||| v } ∧
      only (.slaveRegWrite 4 ⟨[v], []⟩) { b with op := .regWrite, dbOut := b.dbOut &&& ~~~ v } ∧
      (32 < (fld v 7 0 + 256 - b.reqC) % 256 → only (.slaveRegWrite 5 ⟨[v], []⟩) { b with op := .regWrite, sstat := b.sstat ||| 4 }) ∧
      (∀ a : BitVec 6, only (.slaveRegWrite a ⟨[v], [0]⟩) { b with op := .regWrite, sstat := b.sstat ||| 4 }) ∧
      ((fld v 7 0 + 256 - b.reqC) % 256 ≤ 32 → (b.sstat.testBit 0 = false ∨ h.coresRun = false ∨ fld v 7 0 = b.reqC) →
        only (.slaveRegWrite 5 ⟨[v], []⟩) { b with op := .regWrite, reqP := fld v 7 0 }) ∧
      (b.reqP = b.reqC → b.reqC < 256 → fld v 7 0 = (b.reqC + 1) % 256 → b.sstat.testBit 0 = true → h.coresRun = true → h.e.err = [] →
        let slot := (List.range 1024).map (fun i => rd8 h.e.mem (0x400 * (b.reqC % 32) + i))
        let g := toolMsg 0 (slot.take (16 + min 1008 (beAt slot 14 2))) s.dies.field (withSpp h { b with op := .regWrite, reqP := fld v 7 0, reqC := fld v 7 0 })
        g.spp.reqP = g.spp.reqC → answers (.slaveRegWrite 5 ⟨[v], []⟩) s (fun t => t = s.setHost g)) ∧
      (b.rspWait = [] → only (.slaveRegWrite 8 ⟨[v], []⟩) { b with op := .regWrite, rspC := fld v 7 0 })) ∧
    (∀ a : BitVec 16, idle →
      let w := a.toNat / 4 * 4
      let hit (c : List Nat) (x : SppBlk) : SppBlk := if c = [0] then { x with sstat := x.sstat ||| 32, ecoll := (b.ecoll + 1) % 65536 } else x
      (∀ c, (c = [] ∨ c = [0]) → h.e.err = [] → only (.exchangeRead a 1 c [])
        (hit c { b with op := .exRead, stByte := w32 ((slaveStat h).toNat % 256), sent := [w32 (ofBytesLE ((List.range 4).map (fun i => rd8 h.e.mem (w + i))))] })) ∧
      only (.exchangeRead a 1 [] [0]) { b with op := .exRead, stByte := w32 ((slaveStat h).toNat % 256), sent := [0xFFFFFFFF], sstat := b.sstat ||| 2, uaddr := if b.sstat.testBit 1 then b.uaddr else w } ∧
      (∀ (v : W32) c, (c = [] ∨ c = [0]) → h.e.err = [] → answers (.exchangeWrite a [v] c []) s (fun t =>
        t = s.setHost { withSpp h (hit c { b with op := .exWrite }) with e := { h.e with mem := wrBytes h.e.mem w (bytesLE 4 v.toNat) } })) ∧
      (∀ v : W32, only (.exchangeWrite a [v] [] [0]) { b with op := .exWrite, sstat := b.sstat ||| 4 })) ∧
    (∀ bits, slaveOn h = true →
      let k := slaveHeader b.op
      let clean : Prop := if b.op = .idle then bits = 0 else k ≤ bits ∧ (bits - k) % 32 = 0
      (clean → bits % 8 = 0 → only (.slaveCsRelease bits) { b with op := .idle }) ∧
      (¬clean → only (.slaveCsRelease bits) { b with op := .idle, sstat := b.sstat ||| 8 ||| (if bits % 8 = 0 then 0 else 16), aborts := (b.aborts + 1) % 65536 })) ∧
    only .responseDrop { b with rspWait := b.rspWait.drop 1 }

/-! ### Memory integrity, registers, reset -/

/-- R8, R410 to R417, R420, R446: march tests, repairs, sensors. A march begins on a bank that allows it and runs none, else it is refused and REFUSED sets; one that ends
makes its failing rows candidates, and a destructive one leaves zeros; a row named becomes a candidate; its copy takes the next spare, and the row moves at
the end of the copy or at the seam. A sample is kept with its highest value.
The code words of an EVENT are open (log entry 9). -/
def Obligations.IntegrityCommands : Prop :=
  ∀ (s : State) (d : Side), (comOf d s.dies).runs = true →
    let c := comOf d s.dies
    let i := c.integ
    let only (x : Instr) (j : Integ) : Prop := answers x s (fun t => t = withInteg d j s)
    (∀ v : W32, bit v 8 = true → bit v 9 = false →
      let k := fld v 3 0
      let w : Integ := { i with ctrl := v &&& 0x00FF003F }
      (∀ b, integBank d k = some b → (∀ e ∈ i.march, e.1 ≠ k) → fld v 5 4 = 1 → only (.marchGo d v) { w with march := i.march ++ [(k, false)], result := 1, progress := 0 }) ∧
      (∀ b, d = .field → integBank d k = some b → (∀ e ∈ i.march, e.1 ≠ k) → fld v 5 4 = 2 → s.dies.field.mer.running = false → b ≠ .f →
        only (.marchGo d v) { w with march := i.march ++ [(k, true)], result := 1, progress := 0 }) ∧
      ((integBank d k = none ∨ (∃ e ∈ i.march, e.1 = k) ∨ fld v 5 4 = 0 ∨ fld v 5 4 = 3 ∨ fld v 5 4 = 2 ∧ d = .host) →
        only (.marchGo d v) { w with refused := true, result := 4 })) ∧
    (∀ v, bit v 8 = false → bit v 9 = true → i.march ≠ [] → (∀ e ∈ i.march, e.2 = false) → only (.marchAbort d v) { i with ctrl := v &&& 0x00FF003F, march := [], result := 0 }) ∧
    (∀ v k b, bit v 8 = false → bit v 9 = true → i.march = [(k, true)] → integBank d k = some b → answers (.marchAbort d v) s (fun t =>
      (comOf d t.dies).integ = { i with ctrl := v &&& 0x00FF003F, march := [], result := 0 } ∧ ∀ id, id ≠ b → bankOf d t id = bankOf d s id)) ∧
    (∀ k b, (k, false) ∈ i.march → (∀ e ∈ i.march, e.1 = k → e.2 = false) → integBank d k = some b →
      let rest := i.march.filter (fun e => e.1 != k)
      only (.marchDone d k []) { i with march := rest, result := if rest ≠ [] then 1 else 2, fail := i.fail || false } ∧
      (∀ r, r < bankRows b → 0 < resOf b → i.cand = [] → i.copying = none → i.copied = [] → answers (.marchDone d k [r]) s (fun t =>
        (comOf d t.dies).integ = { i with march := rest, result := if rest ≠ [] then 1 else 3, fail := true, cand := [⟨resOf b, r⟩] }))) ∧
    (∀ k b, i.march = [(k, true)] → integBank d k = some b → answers (.marchDone d k []) s (fun t =>
      (comOf d t.dies).integ = { i with march := [], result := 2 } ∧ bankOf d t b = { bankOf d s b with mem := [], err := [], wb := [] })) ∧
    (∀ v : W32, bit v 31 = true →
      let w : Integ := { i with repair := v &&& 0x000FFFFF }
      let r (b : BankId) : RowId := ⟨resOf b, fld v 15 0⟩
      (∀ b, integBank d (fld v 19 16) = some b → fld v 15 0 < bankRows b → 0 < resOf b → r b ∉ i.cand → i.copying.map (·.1) ≠ some (r b) →
        r b ∉ i.copied.map (·.1) → only (.repairRequest d v) { w with cand := i.cand ++ [r b] }) ∧
      (∀ b, integBank d (fld v 19 16) = some b → bankRows b ≤ fld v 15 0 → (d = .host ∨ fld v 19 16 ≠ 6) → only (.repairRequest d v) { w with refused := true }) ∧
      (integBank d (fld v 19 16) = none → (d = .host ∨ fld v 19 16 ≠ 6) → only (.repairRequest d v) { w with refused := true }) ∧
      (d = .field → fld v 19 16 = 6 → i.cand = [] → i.copying = none → i.copied = [] → only (.repairRequest d v) { w with cand := [⟨11, fld v 15 0⟩] })) ∧
    (∀ b row, 1 ≤ bankNo b → (0 < resOf b) → i.copying = none → (⟨resOf b, row⟩ : RowId) ∈ i.cand →
      let r : RowId := ⟨resOf b, row⟩
      (ledUsed c (resOf b) < sparesOf (resOf b) → answers (.repairStart d (bankNo b) row) s (fun t =>
        let j := (comOf d t.dies).integ
        j.copying = some (r, ledUsed c (resOf b)) ∧ r ∉ j.cand ∧ tget 0 j.used (resOf b) = tget 0 i.used (resOf b) + 1 ∧ j.remap = i.remap ∧
          ∀ id, id ≠ .e → bankOf d t id = bankOf d s id)) ∧
      (sparesOf (resOf b) ≤ ledUsed c (resOf b) → answers (.repairStart d (bankNo b) row) s (fun t =>
        let j := (comOf d t.dies).integ
        j.copying = none ∧ r ∉ j.cand ∧ j.out.testBit (resOf b) = true ∧ j.used = i.used))) ∧
    (∀ r k, i.copying = some (r, k) →
      (d = .host → answers (.repairCopyDone d false) s (fun t =>
        (s.dies.host.boot.log.length < 32768 → t.dies.host.boot.log =
          ⟨s.dies.host.boot.logSeq + 1, s.dies.host.dt.time, if r.res = 11 then 0x101 else 0x100, [w32 r.res, w32 r.row, w32 k]⟩ :: s.dies.host.boot.log) ∧
        t.dies.host.com = { c with integ := { i with copying := none, remap := i.remap ++ [(r, k)] } } ∧
        t.dies.host.boot.repairs = s.dies.host.boot.repairs.filter (fun e => e.1 != r) ++ [(r, k)])) ∧
      (d = .field → r.res = 6 → answers (.repairCopyDone d false) s (fun t =>
        (comOf d t.dies).integ = { i with copying := none, remap := i.remap ++ [(r, k)] } ∧ t.dies.field.com.faults = (0x100, [w32 6, w32 r.row, w32 k]) :: c.faults)) ∧
      (rowLeft c r ≠ 0 → answers (.repairCopyDone d true) s (fun t => ∃ n, (comOf d t.dies).integ.copying = some (r, n) ∧ (comOf d t.dies).integ.remap = i.remap ∧
        (r.res ≠ 11 → n = ledUsed c r.res))) ∧
      (d = .field → r.res ≠ 6 → only (.repairCopyDone d false) { i with copying := none, copied := i.copied ++ [(r, k)] })) ∧
    (∀ t12 : BitVec 12,
      let tmax := if c.tmax.toInt < t12.toInt then t12 else c.tmax
      let hot := c.hot || decide (420 ≤ t12.toInt)
      (d = .field → (hot = false ∨ c.hot = true) → answers (.tempSample d t12) s (fun t =>
        t = s.setField { s.dies.field with com := { c with temp := t12, tmax := tmax, hot := hot } })) ∧
      (d = .field → hot = true → c.hot = false → answers (.tempSample d t12) s (fun t => evWords .hot [w32 t12.toNat] ∈ t.dies.field.com.events ∧ t.dies.field.com.hot = true)) ∧
      (d = .host → answers (.tempSample d t12) s (fun t =>
        let g := t.dies.host
        t = s.setHost g ∧ g.com.temp = t12 ∧ g.com.tmax = tmax ∧ g.com.hot = hot ∧ g.farFresh = false ∧
          bit g.far 31 = (bit s.dies.host.far 31 && s.dies.host.farFresh) ∧ g.dt.histH = histAdd s.dies.host.dt.histH t12.toInt 6000)))

/-- R7, R8: registers of both dies. A write reaches the fields that its register gives, a write to an identity register or to an offset that holds none changes
nothing; a read gives the register's value, and the low word of a wide value latches the others. -/
def Obligations.RegistersWriteAndRead : Prop :=
  ∀ (s : State),
    let h := s.dies.host
    let f := s.dies.field
    (h.com.runs = true →
      (∀ v : W32, exec (.registerWrite .host ⟨0, false⟩ v) s = .next s) ∧
      (∀ o v, 0x8000 ≤ o → exec (.registerWrite .host ⟨o, false⟩ v) s = .next s) ∧
      (∀ v : W32, answers (.registerWrite .host ⟨0x2190, false⟩ v) s (fun t => t = s.setHost { h with cw := { h.cw with macLo := v } })) ∧
      (∀ v : W32, answers (.registerWrite .host ⟨0x501C, false⟩ v) s (fun t => t = s.setHost (withBoot h { h.boot with ksVer := v }))) ∧
      (∀ k (v : W32), k < 8 → answers (.registerWrite .host ⟨(0x5020 + 4 * k), false⟩ v) s (fun t => t = s.setHost (withBoot h { h.boot with ksLabel := tput 0 h.boot.ksLabel k v }))) ∧
      (∀ v : W32, answers (.registerWrite .host ⟨0x7900, false⟩ v) s (fun t =>
        t = s.setHost { h with com := { h.com with hot := h.com.hot && !bit v 28 } })) ∧
      (∀ o, o ≠ 0x3010 → o ≠ 0x3020 → answers (.readSnapshot .host ⟨o, false⟩) s (fun t => t = s.setHost { h with com := { h.com with lastRead := hostReg h o } })) ∧
      answers (.readSnapshot .host ⟨0x3010, false⟩) s (fun t =>
        let ns := h.dt.time / 65536
        let sec := ns / 1000000000
        t = s.setHost { h with com := { h.com with lastRead := w32 (ns % 1000000000) }, dt := { h.dt with timeLatch := t.dies.host.dt.timeLatch } } ∧
          wAt t.dies.host.dt.timeLatch 1 = w32 (sec % 2 ^ 32) ∧ wAt t.dies.host.dt.timeLatch 2 = w32 (h.dt.time % 65536 * 65536 + sec / 2 ^ 32 % 65536)) ∧
      hostReg h 0 = 0x4E412820 ∧ hostReg h 0x2190 = h.cw.macLo ∧ hostReg h 0x501C = h.boot.ksVer ∧ hostReg h 0x7904 = h.far) ∧
    (f.com.runs = true →
      (∀ v : W32, exec (.registerWrite .field ⟨0, false⟩ v) s = .next s) ∧
      (∀ o v, 0x25000 ≤ o → exec (.registerWrite .field ⟨o, false⟩ v) s = .next s) ∧
      (∀ v : W32, answers (.registerWrite .field ⟨0x101C, false⟩ v) s (fun t => t = s.setField { f with mer := { f.mer with keep := v } })) ∧
      (∀ v : W32, answers (.registerWrite .field ⟨0x1020, false⟩ v) s (fun t => t = s.setField { f with mer := { f.mer with plen0 := v &&& 0xFFFF } })) ∧
      (∀ v : W32, answers (.registerWrite .field ⟨0x1080, false⟩ v) s (fun t => t = s.setField { f with eng := { f.eng with fault := f.eng.fault &&& ~~~(v &&& 0x3F) } })) ∧
      (∀ k (v : W32), k < 512 → answers (.registerWrite .field ⟨(0x2000 + 4 * k), false⟩ v) s (fun t => t = s.setField { f with eng := { f.eng with dtSh := tput 0 f.eng.dtSh k v } })) ∧
      (∀ v : W32, answers (.registerWrite .field ⟨0x3804, false⟩ v) s (fun t => t = s.setField { f with cg := { f.cg with passLo := v } })) ∧
      (∀ v : W32, answers (.registerWrite .field ⟨0x1C008, false⟩ v) s (fun t => t = s.setField { f with silt := { f.silt with win := v &&& 0xFFF00000 } })) ∧
      (∀ v : W32, answers (.registerWrite .field ⟨0x22100, false⟩ v) s (fun t => t = s.setField { f with pil := { f.pil with syncMask := v &&& 0xFF } })) ∧
      answers (.readSnapshot .field ⟨0x1008, false⟩) s (fun t =>
        t = s.setField (setRead { f with mer := { f.mer with pcntLatch := w32 (f.mer.pcnt / 2 ^ 32) } } (w32 f.mer.pcnt))) ∧
      answers (.readSnapshot .field ⟨0x101C, false⟩) s (fun t => t = s.setField (setRead f f.mer.keep)) ∧
      fieldReg f 0 = 0x4E412920)

/-- R32, R434, R435: a die that holds its reset, or has no supply, stands as it is in every step, whatever else happens, until it is powered or released. -/
def Obligations.HeldDiesStand : Prop :=
  ∀ (s t : State), step s = .next t →
    (∀ f, fieldHeld f s → fieldHeld f t) ∧ (∀ h, hostHeld h s → hostHeld h t)

/-- What State.reset leaves, by the reset value of each register's table: both dies run with POR as the only cause, no pass runs, every register named reads as its
table says, every memory is in its canonical form and lists nothing, and no command waits. A reset ball then held low begins a held reset of its die
(HeldDiesStand). The reset state as such, with HEAD low and both dies released, is the model's (log entry 1). -/
def Obligations.ResetState : Prop :=
  let s := State.reset
  let h := s.dies.host
  let f := s.dies.field
  s.pending = [] ∧ Memory.wf s.dies = true ∧ (∀ b ∈ allBanks s.dies, b = bank0) ∧ f.silt.dram = [] ∧ h.com.runs = true ∧ f.com.runs = true ∧
    f.mer.running = false ∧ h.boot.inRom = true ∧ f.fb.inRom = true ∧
    (∀ e ∈ [(0x0, (0x4E412820 : W32)), (0x44, 1), (0x400, 0x803), (0x404, 0x80800), (0x2000, 0x88B50001), (0x2004, 0x8000), (0x200C, 0x80200), (0x2040, 0x16),
        (0x2044, 0), (0x2080, 0x16), (0x2084, 4), (0x20C0, 0x16), (0x20C4, 4), (0x3000, 0x012C0A00), (0x3004, 4), (0x3010, 0), (0x5010, 0), (0x6004, 0),
        (0x7000, 0x143F0000), (0x7100, 0x143F0000), (0x7004, 0x1000), (0x7104, 0x1000), (0x700C, 0), (0x7800, 0x40000), (0x7900, 0x08000000), (0x7904, 0)],
      hostReg h e.1 = e.2) ∧
    (∀ e ∈ [(0x0, (0x4E412920 : W32)), (0x44, 1), (0x400, 0x803), (0x404, 0x80800), (0x1000, 0x128), (0x1004, 0), (0x1008, 0), (0x101C, 0xFFFFFFFF), (0x1080, 0),
        (0x3800, 0), (0x3900, 0), (0x1C000, 0), (0x1C004, 0), (0x20400, 0x1F), (0x20404, 0x1F), (0x2040C, 0x10000), (0x20600, 0x30), (0x21400, 0),
        (0x24000, 0x40000), (0x2400C, 1), (0x24100, 0x08000000)], fieldReg f e.1 = e.2) ∧
    (∀ p, p < 24 → fieldReg f (0x20000 + 32 * p) = 0x25C ∧ fieldReg f (0x20004 + 32 * p) = 0x25C ∧ fieldReg f (0x2000C + 32 * p) = 0xF0) ∧
    (∀ c, c < 8 → fieldReg f (0x22000 + 32 * c) = 0x40 ∧ fieldReg f (0x21800 + 128 * c) = 0x20000000) ∧
    (∃ t, exec (.resetBallLow .field) s = .next t ∧ fieldHeld t.dies.field t ∧ t.dies.host = h) ∧
    (∃ t, exec (.resetBallLow .host) s = .next t ∧ hostHeld t.dies.host t ∧ t.dies.field = f)
end

