-- ==== Sys2Proof/Laws/Tbl.lean ====
section
/-! SUPPORT. Laws of sparse tables and byte memories: read after write, and every operation keeps the canonical form. -/

namespace Sys2Proof.Machine

variable {α : Type}

/-- A bound under every key of a table. -/
def keysAbove (t : Tbl α) (k : Nat) : Prop := ∀ e ∈ t, k < e.1

theorem risingKeys_cons (k : Nat) (v : α) (t : Tbl α) :
    risingKeys ((k, v) :: t) = true ↔ keysAbove t k ∧ risingKeys t = true := by
  induction t generalizing k v with
  | nil => simp [risingKeys, keysAbove]
  | cons e t ih =>
    obtain ⟨k', v'⟩ := e
    simp only [risingKeys, Bool.and_eq_true, decide_eq_true_eq, keysAbove, List.mem_cons, forall_eq_or_imp]
    constructor
    · rintro ⟨h1, h2⟩
      refine ⟨⟨h1, fun e he => ?_⟩, h2⟩
      have := ((ih k' v').1 h2).1 e he
      omega
    · rintro ⟨⟨h1, _⟩, h2⟩
      exact ⟨h1, h2⟩

theorem tget_of_keysAbove (d : α) (t : Tbl α) (k j : Nat) (h : keysAbove t k) (hj : j ≤ k) : tget d t j = d := by
  induction t with
  | nil => rfl
  | cons e t ih =>
    obtain ⟨k', v'⟩ := e
    have h1 : k < k' := h (k', v') (by simp)
    have : k' ≠ j := by omega
    simp only [tget, this, if_false]
    exact ih (fun e he => h e (by simp [he]))

/-- A read after an insertion. -/
theorem tget_tins (d : α) (t : Tbl α) (k j : Nat) (v : α) : tget d (tins t k v) j = if j = k then v else tget d t j := by
  induction t with
  | nil => simp [tins, tget, eq_comm]
  | cons e t ih =>
    obtain ⟨k', v'⟩ := e
    by_cases hjk : j = k
    · subst hjk
      simp only [tins, if_true]
      split
      · simp [tget]
      · split
        · simp [tget]
        · next h => simp [tget, Ne.symm h, ih]
    · simp only [tins, hjk, if_false]
      split
      · simp [tget, Ne.symm hjk]
      · split
        · next h => subst h; simp [tget, Ne.symm hjk]
        · simp [tget, ih, hjk]

/-- A read after a removal. -/
theorem tget_tdel (d : α) (t : Tbl α) (k j : Nat) : tget d (tdel t k) j = if j = k then d else tget d t j := by
  induction t with
  | nil => simp [tdel, tget]
  | cons e t ih =>
    obtain ⟨k', v'⟩ := e
    simp only [tdel]
    by_cases hk : k' = k
    · subst hk
      rw [if_pos rfl, ih, tget]
      by_cases hj : j = k'
      · simp [hj]
      · simp [hj, Ne.symm hj]
    · simp only [hk, if_false, tget, ih]
      by_cases hj : k' = j
      · subst hj; simp [hk]
      · simp [hj]

/-- A read after a write. -/
theorem tget_tput [DecidableEq α] (d : α) (t : Tbl α) (k j : Nat) (v : α) :
    tget d (tput d t k v) j = if j = k then v else tget d t j := by
  unfold tput
  split
  · next hv => subst hv; exact tget_tdel v t k j
  · exact tget_tins d t k j v

theorem mem_tins (t : Tbl α) (k : Nat) (v : α) (e : Nat × α) (h : e ∈ tins t k v) : e = (k, v) ∨ e ∈ t := by
  induction t with
  | nil => simp [tins] at h; exact .inl h
  | cons e' t ih =>
    obtain ⟨k', v'⟩ := e'
    simp only [tins] at h
    split at h
    · simpa using h
    · split at h
      · simp only [List.mem_cons] at h ⊢
        rcases h with h | h
        · exact .inl h
        · exact .inr (.inr h)
      · simp only [List.mem_cons] at h ⊢
        rcases h with h | h
        · exact .inr (.inl h)
        · rcases ih h with h | h
          · exact .inl h
          · exact .inr (.inr h)

theorem mem_tdel (t : Tbl α) (k : Nat) (e : Nat × α) (h : e ∈ tdel t k) : e ∈ t := by
  induction t with
  | nil => simp [tdel] at h
  | cons e' t ih =>
    obtain ⟨k', v'⟩ := e'
    simp only [tdel] at h
    split at h
    · exact List.mem_cons_of_mem _ (ih h)
    · simp only [List.mem_cons] at h ⊢
      exact h.imp id ih

theorem risingKeys_tins (t : Tbl α) (k : Nat) (v : α) (h : risingKeys t = true) : risingKeys (tins t k v) = true := by
  induction t with
  | nil => rfl
  | cons e t ih =>
    obtain ⟨k', v'⟩ := e
    obtain ⟨ha, hr⟩ := (risingKeys_cons k' v' t).1 h
    simp only [tins]
    split
    · next hlt =>
      refine (risingKeys_cons _ _ _).2 ⟨fun e he => ?_, h⟩
      rcases List.mem_cons.1 he with rfl | he
      · exact hlt
      · have := ha e he; omega
    · split
      · next hlt hk => subst hk; exact (risingKeys_cons _ _ _).2 ⟨ha, hr⟩
      · next hlt hk =>
        refine (risingKeys_cons _ _ _).2 ⟨fun e he => ?_, ih hr⟩
        rcases mem_tins t k v e he with rfl | he
        · show k' < k; omega
        · exact ha e he

theorem risingKeys_tdel (t : Tbl α) (k : Nat) (h : risingKeys t = true) : risingKeys (tdel t k) = true := by
  induction t with
  | nil => rfl
  | cons e t ih =>
    obtain ⟨k', v'⟩ := e
    obtain ⟨ha, hr⟩ := (risingKeys_cons k' v' t).1 h
    simp only [tdel]
    split
    · exact ih hr
    · exact (risingKeys_cons _ _ _).2 ⟨fun e he => ha e (mem_tdel t k e he), ih hr⟩

theorem twf_iff [DecidableEq α] (d : α) (t : Tbl α) : twf d t = true ↔ risingKeys t = true ∧ ∀ e ∈ t, e.2 ≠ d := by
  simp [twf]

/-- A write keeps the canonical form. -/
theorem twf_tput [DecidableEq α] (d : α) (t : Tbl α) (k : Nat) (v : α) (h : twf d t = true) : twf d (tput d t k v) = true := by
  obtain ⟨hr, hn⟩ := (twf_iff d t).1 h
  unfold tput
  split
  · exact (twf_iff _ _).2 ⟨risingKeys_tdel t k hr, fun e he => hn e (mem_tdel t k e he)⟩
  · next hv =>
    refine (twf_iff _ _).2 ⟨risingKeys_tins t k v hr, fun e he => ?_⟩
    rcases mem_tins t k v e he with rfl | he
    · exact hv
    · exact hn e he

/-- A change of one entry keeps the canonical form. -/
theorem twf_tmod [DecidableEq α] (d : α) (t : Tbl α) (k : Nat) (f : α → α) (h : twf d t = true) : twf d (tmod d t k f) = true :=
  twf_tput d t k _ h

theorem risingKeys_filter (t : Tbl α) (p : Nat × α → Bool) (h : risingKeys t = true) : risingKeys (t.filter p) = true := by
  induction t with
  | nil => rfl
  | cons e t ih =>
    obtain ⟨k', v'⟩ := e
    obtain ⟨ha, hr⟩ := (risingKeys_cons k' v' t).1 h
    simp only [List.filter_cons]
    split
    · exact (risingKeys_cons _ _ _).2 ⟨fun e he => ha e ((List.mem_filter.1 he).1), ih hr⟩
    · exact ih hr

/-- Clearing a range keeps the canonical form. -/
theorem twf_tclear [DecidableEq α] (d : α) (t : Tbl α) (lo hi : Nat) (h : twf d t = true) : twf d (tclear t lo hi) = true := by
  obtain ⟨hr, hn⟩ := (twf_iff d t).1 h
  exact (twf_iff _ _).2 ⟨risingKeys_filter t _ hr, fun e he => hn e ((List.mem_filter.1 he).1)⟩

/-- Cutting out a range keeps the canonical form. -/
theorem twf_tslice [DecidableEq α] (d : α) (t : Tbl α) (lo hi : Nat) (h : twf d t = true) : twf d (tslice t lo hi) = true := by
  obtain ⟨hr, hn⟩ := (twf_iff d t).1 h
  exact (twf_iff _ _).2 ⟨risingKeys_filter t _ hr, fun e he => hn e ((List.mem_filter.1 he).1)⟩

/-- Two tables in canonical form that read alike are the same data. -/
theorem tbl_ext [DecidableEq α] (d : α) (t u : Tbl α) (ht : twf d t = true) (hu : twf d u = true)
    (h : ∀ k, tget d t k = tget d u k) : t = u := by
  induction t generalizing u with
  | nil =>
    cases u with
    | nil => rfl
    | cons e u =>
      obtain ⟨k, v⟩ := e
      have := h k
      simp only [tget, if_true] at this
      exact absurd this.symm (((twf_iff d _).1 hu).2 (k, v) (by simp))
  | cons e t ih =>
    obtain ⟨k, v⟩ := e
    obtain ⟨hr, hn⟩ := (twf_iff d _).1 ht
    obtain ⟨ha, hr'⟩ := (risingKeys_cons k v t).1 hr
    cases u with
    | nil =>
      have := h k
      simp only [tget, if_true] at this
      exact absurd this (hn (k, v) (by simp))
    | cons e' u =>
      obtain ⟨k2, v2⟩ := e'
      obtain ⟨hr2, hn2⟩ := (twf_iff d _).1 hu
      obtain ⟨ha2, hr2'⟩ := (risingKeys_cons k2 v2 u).1 hr2
      have hk : k = k2 := by
        rcases Nat.lt_trichotomy k k2 with hlt | heq | hlt
        · have h1 := h k
          have h2 : k2 ≠ k := by omega
          simp only [tget, if_true, h2, if_false] at h1
          rw [tget_of_keysAbove d u k2 k ha2 (by omega)] at h1
          exact absurd h1 (hn (k, v) (by simp))
        · exact heq
        · have h1 := h k2
          have h2 : k ≠ k2 := by omega
          simp only [tget, if_true, h2, if_false] at h1
          rw [tget_of_keysAbove d t k k2 ha (by omega)] at h1
          exact absurd h1.symm (hn2 (k2, v2) (by simp))
      subst hk
      have hv : v = v2 := by
        have h1 := h k
        simpa only [tget, if_true] using h1
      subst hv
      have ht' : twf d t = true := (twf_iff d t).2 ⟨hr', fun e he => hn e (List.mem_cons_of_mem _ he)⟩
      have hu' : twf d u = true := (twf_iff d u).2 ⟨hr2', fun e he => hn2 e (List.mem_cons_of_mem _ he)⟩
      have : t = u := by
        refine ih u ht' hu' (fun j => ?_)
        have h1 := h j
        by_cases hj : k = j
        · subst hj
          rw [tget_of_keysAbove d t k k ha (Nat.le_refl _), tget_of_keysAbove d u k k ha2 (Nat.le_refl _)]
        · simpa only [tget, hj, if_false] using h1
      rw [this]

/-! ### Byte memories -/

theorem memWf_nil : memWf [] = true := rfl

/-- A byte read after a byte written. -/
theorem rd8_wr8 (m : Mem) (a b : Nat) (v : Byte) : rd8 (wr8 m a v) b = if b = a then v else rd8 m b := tget_tput 0 m a b v

/-- A byte write keeps the canonical form. -/
theorem memWf_wr8 (m : Mem) (a : Nat) (v : Byte) (h : memWf m = true) : memWf (wr8 m a v) = true := twf_tput 0 m a v h

/-- A value write keeps the canonical form. -/
theorem memWf_wrN (m : Mem) (a n v : Nat) (h : memWf m = true) : memWf (wrN m a n v) = true := by
  induction n generalizing m a v with
  | zero => exact h
  | succ n ih => exact ih _ _ _ (memWf_wr8 m a _ h)

/-- A word write keeps the canonical form. -/
theorem memWf_wr32 (m : Mem) (a : Nat) (v : W32) (h : memWf m = true) : memWf (wr32 m a v) = true := memWf_wrN m a 4 _ h

/-- A write of a byte list keeps the canonical form. -/
theorem memWf_wrBytes (m : Mem) (a : Nat) (v : List Byte) (h : memWf m = true) : memWf (wrBytes m a v) = true := by
  induction v generalizing m a with
  | nil => exact h
  | cons b bs ih => exact ih _ _ (memWf_wr8 m a b h)

/-- A byte read after a write of a byte list: the list's byte inside it, the old byte outside. -/
theorem rd8_wrBytes (m : Mem) (a b : Nat) (v : List Byte) :
    rd8 (wrBytes m a v) b = if a ≤ b ∧ b < a + v.length then v.getD (b - a) 0 else rd8 m b := by
  induction v generalizing m a with
  | nil =>
    have : ¬ (a ≤ b ∧ b < a + ([] : List Byte).length) := by simp
    rw [if_neg this]; rfl
  | cons x xs ih =>
    rw [show wrBytes m a (x :: xs) = wrBytes (wr8 m a x) (a + 1) xs from rfl, ih, rd8_wr8 m a b x]
    by_cases h1 : b = a
    · subst h1
      have h2 : ¬ (b + 1 ≤ b ∧ b < b + 1 + xs.length) := by omega
      rw [if_neg h2, if_pos rfl, if_pos (by simp)]
      simp
    · by_cases h2 : a + 1 ≤ b ∧ b < a + 1 + xs.length
      · have h3 : a ≤ b ∧ b < a + (x :: xs).length := by simp only [List.length_cons]; omega
        rw [if_pos h2, if_pos h3, show b - a = (b - (a + 1)) + 1 by omega]
        simp
      · have h3 : ¬ (a ≤ b ∧ b < a + (x :: xs).length) := by simp only [List.length_cons]; omega
        rw [if_neg h2, if_neg h3, if_neg h1]

/-- Bytes outside a value write keep their value. -/
theorem rd8_wrN_outside (m : Mem) (a n v b : Nat) (hb : b < a ∨ a + n ≤ b) : rd8 (wrN m a n v) b = rd8 m b := by
  induction n generalizing m a v with
  | zero => rfl
  | succ n ih =>
    rw [show wrN m a (n + 1) v = wrN (wr8 m a (BitVec.ofNat 8 v)) (a + 1) n (v / 256) from rfl,
      ih _ _ _ (by omega), rd8_wr8, if_neg (by omega)]

/-! ### Counters (R450) -/

/-- A counter that an event reaches moves on by `n` below the limit. -/
theorem ctrGet_ctrAdd_below (c : Ctrs) (i n : Nat) (hn : (ctrGet c i).toNat + n < 0xFFFFFFFF) :
    ctrGet (ctrAdd c i n) i = w32 ((ctrGet c i).toNat + n) := by
  have h1 : ¬ (ctrGet c i).toNat = 0xFFFFFFFF := by omega
  simp only [ctrAdd, h1, hn, if_false, if_true]
  exact (tget_tput 0 c.val i i _).trans (by simp)

/-- Another counter keeps its value. -/
theorem ctrGet_ctrAdd_other (c : Ctrs) (i j n : Nat) (hj : j ≠ i) :
    ctrGet (ctrAdd c i n) j = ctrGet c j := by
  have key : ∀ v : W32, tget 0 (tput 0 c.val i v) j = tget 0 c.val j := fun v => by
    rw [tget_tput 0 c.val i j v, if_neg hj]
  simp only [ctrAdd]
  split
  · rfl
  · split
    · exact key _
    · exact key 0xFFFFFFFF

end Sys2Proof.Machine
end

