-- ==== Sys2Proof/Laws/Bits.lean ====
section
/-! SUPPORT. Laws of bit fields, of wrapping and saturation. -/

namespace Sys2Proof.Machine

/-- Wrapping an integer is taking its residue. -/
theorem wrapN_lt (n : Nat) (v : Int) : wrapN n v < 2 ^ n := by
  have h : (0 : Int) < 2 ^ n := Int.pow_pos (by decide)
  have h1 := Int.emod_nonneg v (Int.ne_of_gt h)
  have h2 := Int.emod_lt_of_pos v h
  unfold wrapN
  have h3 : ((v % 2 ^ n).toNat : Int) < 2 ^ n := by rw [Int.toNat_of_nonneg h1]; exact h2
  exact_mod_cast h3

/-- A word of a wrapped integer is the integer's word. -/
theorem ofNat_wrapN (n : Nat) (v : Int) : BitVec.ofNat n (wrapN n v) = BitVec.ofInt n v := by
  apply BitVec.eq_of_toNat_eq
  rw [BitVec.toNat_ofNat, Nat.mod_eq_of_lt (wrapN_lt n v), BitVec.toNat_ofInt]
  unfold wrapN
  congr 2

theorem w32_wrapN (v : Int) : w32 (wrapN 32 v) = BitVec.ofInt 32 v := ofNat_wrapN 32 v

theorem ofI_eq (v : Int) : ofI v = BitVec.ofInt 32 v := ofNat_wrapN 32 v

/-- The signed reading of `n` bits is that of the bit vector. -/
theorem sextN_eq (n v : Nat) (hn : 0 < n) : sextN n v = (BitVec.ofNat n v).toInt := by
  unfold sextN
  rw [BitVec.toInt_eq_toNat_cond, BitVec.toNat_ofNat]
  have h2 : 2 ^ n = 2 * 2 ^ (n - 1) := by rw [← Nat.pow_succ']; congr 1; omega
  simp only
  split
  · next h => rw [if_pos (by omega)]
  · next h => rw [if_neg (by omega)]; push_cast; rfl

/-- A wrapped integer read back with its sign. -/
theorem sextN_wrapN (n : Nat) (v : Int) (hn : 0 < n) : sextN n (wrapN n v) = (BitVec.ofInt n v).toInt := by
  rw [sextN_eq n _ hn, ofNat_wrapN]

/-- A value inside the range of `n` bits fits, and only such a value. -/
theorem fitsN_iff (n : Nat) (v : Int) : fitsN n v = true ↔ -(2 : Int) ^ (n - 1) ≤ v ∧ v < (2 : Int) ^ (n - 1) := by
  simp only [fitsN, Bool.and_eq_true, decide_eq_true_eq]
  omega

/-- Masked bits of a register take those of the value, the others keep theirs. -/
theorem testBit_masked (old mask v j : Nat) :
    ((old ^^^ (old &&& mask)) ||| (v &&& mask)).testBit j = if mask.testBit j then v.testBit j else old.testBit j := by
  simp only [Nat.testBit_or, Nat.testBit_xor, Nat.testBit_and]
  cases old.testBit j <;> cases mask.testBit j <;> cases v.testBit j <;> rfl

/-- The low `n` bits after a write of `n` bits. -/
theorem masked_mod (old v n : Nat) : ((old ^^^ (old &&& (2 ^ n - 1))) ||| (v &&& (2 ^ n - 1))) % 2 ^ n = v % 2 ^ n := by
  apply Nat.eq_of_testBit_eq
  intro j
  rw [Nat.testBit_mod_two_pow, Nat.testBit_mod_two_pow, testBit_masked, Nat.testBit_two_pow_sub_one]
  by_cases h : j < n <;> simp [h]

theorem testBit_b2n0 (z n v q : Bool) :
    (b2n z + 2 * b2n n + 4 * b2n v + 8 * b2n q).testBit 0 = z ∧ (b2n z + 2 * b2n n + 4 * b2n v + 8 * b2n q).testBit 1 = n ∧
      (b2n z + 2 * b2n n + 4 * b2n v + 8 * b2n q).testBit 2 = v ∧ (b2n z + 2 * b2n n + 4 * b2n v + 8 * b2n q).testBit 3 = q := by
  cases z <;> cases n <;> cases v <;> cases q <;> decide

/-- FL of a result holds Z, N, V and Q in bits 0 to 3 (R76, R84). -/
theorem flagsOf_bits (r : Res) :
    (flagsOf r).testBit 0 = decide (r.val = 0) ∧ (flagsOf r).testBit 1 = decide (r.val < 0) ∧ (flagsOf r).testBit 2 = r.v ∧
      (flagsOf r).testBit 3 = r.q := testBit_b2n0 _ _ _ _

end Sys2Proof.Machine
end

