-- ==== Sys2Proof/Laws/State.lean ====
section
/-! SUPPORT. One lemma per field and per update operation of the state, each true by computation, so that no later proof unfolds a record
update. -/

namespace Sys2Proof.Machine

/-! ### The state -/

@[simp] theorem setField_pending (s : State) (f : FieldDie) : (s.setField f).pending = s.pending := rfl
@[simp] theorem setField_dies_field (s : State) (f : FieldDie) : (s.setField f).dies.field = f := rfl
@[simp] theorem setField_dies_host (s : State) (f : FieldDie) : (s.setField f).dies.host = s.dies.host := rfl
@[simp] theorem setHost_pending (s : State) (h : HostDie) : (s.setHost h).pending = s.pending := rfl
@[simp] theorem setHost_dies_field (s : State) (h : HostDie) : (s.setHost h).dies.field = s.dies.field := rfl
@[simp] theorem setHost_dies_host (s : State) (h : HostDie) : (s.setHost h).dies.host = h := rfl
@[simp] theorem setField_self (s : State) : s.setField s.dies.field = s := rfl
@[simp] theorem setHost_self (s : State) : s.setHost s.dies.host = s := rfl

/-! ### The common part of a die -/

@[simp] theorem weirQueue_supply (c : Common) (m : WMsg) : (weirQueue c m).supply = c.supply := rfl
@[simp] theorem weirQueue_por (c : Common) (m : WMsg) : (weirQueue c m).por = c.por := rfl
@[simp] theorem weirQueue_pwrStat (c : Common) (m : WMsg) : (weirQueue c m).pwrStat = c.pwrStat := rfl
@[simp] theorem weirQueue_rstCause (c : Common) (m : WMsg) : (weirQueue c m).rstCause = c.rstCause := rfl
@[simp] theorem weirQueue_dma (c : Common) (m : WMsg) : (weirQueue c m).dma = c.dma := rfl
@[simp] theorem weirQueue_integ (c : Common) (m : WMsg) : (weirQueue c m).integ = c.integ := rfl
@[simp] theorem weirQueue_fuses (c : Common) (m : WMsg) : (weirQueue c m).fuses = c.fuses := rfl
@[simp] theorem weirQueue_testCtrl (c : Common) (m : WMsg) : (weirQueue c m).testCtrl = c.testCtrl := rfl
@[simp] theorem weirQueue_temp (c : Common) (m : WMsg) : (weirQueue c m).temp = c.temp := rfl
@[simp] theorem weirQueue_tmax (c : Common) (m : WMsg) : (weirQueue c m).tmax = c.tmax := rfl
@[simp] theorem weirQueue_hot (c : Common) (m : WMsg) : (weirQueue c m).hot = c.hot := rfl
@[simp] theorem weirQueue_free (c : Common) (m : WMsg) : (weirQueue c m).free = c.free := rfl
@[simp] theorem weirQueue_events (c : Common) (m : WMsg) : (weirQueue c m).events = c.events := rfl
@[simp] theorem weirQueue_faults (c : Common) (m : WMsg) : (weirQueue c m).faults = c.faults := rfl
@[simp] theorem weirQueue_lastRead (c : Common) (m : WMsg) : (weirQueue c m).lastRead = c.lastRead := rfl
@[simp] theorem weirQueue_weir (c : Common) (m : WMsg) : (weirQueue c m).weir = wQueue c.weir m := rfl
@[simp] theorem draw_supply (c : Common) (k : Nat) : (draw c k).1.supply = c.supply := rfl
@[simp] theorem draw_por (c : Common) (k : Nat) : (draw c k).1.por = c.por := rfl
@[simp] theorem draw_pwrStat (c : Common) (k : Nat) : (draw c k).1.pwrStat = c.pwrStat := rfl
@[simp] theorem draw_rstCause (c : Common) (k : Nat) : (draw c k).1.rstCause = c.rstCause := rfl
@[simp] theorem draw_weir (c : Common) (k : Nat) : (draw c k).1.weir = c.weir := rfl
@[simp] theorem draw_dma (c : Common) (k : Nat) : (draw c k).1.dma = c.dma := rfl
@[simp] theorem draw_integ (c : Common) (k : Nat) : (draw c k).1.integ = c.integ := rfl
@[simp] theorem draw_fuses (c : Common) (k : Nat) : (draw c k).1.fuses = c.fuses := rfl
@[simp] theorem draw_testCtrl (c : Common) (k : Nat) : (draw c k).1.testCtrl = c.testCtrl := rfl
@[simp] theorem draw_temp (c : Common) (k : Nat) : (draw c k).1.temp = c.temp := rfl
@[simp] theorem draw_tmax (c : Common) (k : Nat) : (draw c k).1.tmax = c.tmax := rfl
@[simp] theorem draw_hot (c : Common) (k : Nat) : (draw c k).1.hot = c.hot := rfl
@[simp] theorem draw_events (c : Common) (k : Nat) : (draw c k).1.events = c.events := rfl
@[simp] theorem draw_faults (c : Common) (k : Nat) : (draw c k).1.faults = c.faults := rfl
@[simp] theorem draw_lastRead (c : Common) (k : Nat) : (draw c k).1.lastRead = c.lastRead := rfl
@[simp] theorem draw_free (c : Common) (k : Nat) : (draw c k).1.free = c.free + 1 := rfl

/-! ### The field die -/

@[simp] theorem fieldEvent_mer (f : FieldDie) (k : EvKind) (d : List W32) : (fieldEvent f k d).mer = f.mer := rfl
@[simp] theorem fieldEvent_io (f : FieldDie) (k : EvKind) (d : List W32) : (fieldEvent f k d).io = f.io := rfl
@[simp] theorem fieldEvent_bk (f : FieldDie) (k : EvKind) (d : List W32) : (fieldEvent f k d).bk = f.bk := rfl
@[simp] theorem fieldEvent_cg (f : FieldDie) (k : EvKind) (d : List W32) : (fieldEvent f k d).cg = f.cg := rfl
@[simp] theorem fieldEvent_eng (f : FieldDie) (k : EvKind) (d : List W32) : (fieldEvent f k d).eng = f.eng := rfl
@[simp] theorem fieldEvent_silt (f : FieldDie) (k : EvKind) (d : List W32) : (fieldEvent f k d).silt = f.silt := rfl
@[simp] theorem fieldEvent_aud (f : FieldDie) (k : EvKind) (d : List W32) : (fieldEvent f k d).aud = f.aud := rfl
@[simp] theorem fieldEvent_sns (f : FieldDie) (k : EvKind) (d : List W32) : (fieldEvent f k d).sns = f.sns := rfl
@[simp] theorem fieldEvent_pil (f : FieldDie) (k : EvKind) (d : List W32) : (fieldEvent f k d).pil = f.pil := rfl
@[simp] theorem fieldEvent_fb (f : FieldDie) (k : EvKind) (d : List W32) : (fieldEvent f k d).fb = f.fb := rfl
@[simp] theorem fieldEvent_erReq (f : FieldDie) (k : EvKind) (d : List W32) : (fieldEvent f k d).erReq = f.erReq := rfl
@[simp] theorem fieldEvent_erHeld (f : FieldDie) (k : EvKind) (d : List W32) : (fieldEvent f k d).erHeld = f.erHeld := rfl
@[simp] theorem fieldEvent_retired (f : FieldDie) (k : EvKind) (d : List W32) : (fieldEvent f k d).retired = f.retired := rfl
@[simp] theorem fieldEvent_ambig (f : FieldDie) (k : EvKind) (d : List W32) : (fieldEvent f k d).ambig = f.ambig := rfl
@[simp] theorem fieldEvent_macCnt (f : FieldDie) (k : EvKind) (d : List W32) : (fieldEvent f k d).macCnt = f.macCnt := rfl
@[simp] theorem fieldEvent_macPc (f : FieldDie) (k : EvKind) (d : List W32) : (fieldEvent f k d).macPc = f.macPc := rfl
@[simp] theorem fieldEvent_mute (f : FieldDie) (k : EvKind) (d : List W32) : (fieldEvent f k d).mute = f.mute := rfl
@[simp] theorem fieldEvent_muting (f : FieldDie) (k : EvKind) (d : List W32) : (fieldEvent f k d).muting = f.muting := rfl
@[simp] theorem fieldEvent_dups (f : FieldDie) (k : EvKind) (d : List W32) : (fieldEvent f k d).dups = f.dups := rfl
@[simp] theorem fieldEvent_lcHost (f : FieldDie) (k : EvKind) (d : List W32) : (fieldEvent f k d).lcHost = f.lcHost := rfl
@[simp] theorem fieldEvent_chalUsed (f : FieldDie) (k : EvKind) (d : List W32) : (fieldEvent f k d).chalUsed = f.chalUsed := rfl
@[simp] theorem fieldFault_mer (f : FieldDie) (c : Nat) (d : List W32) : (fieldFault f c d).mer = f.mer := rfl
@[simp] theorem fieldFault_io (f : FieldDie) (c : Nat) (d : List W32) : (fieldFault f c d).io = f.io := rfl
@[simp] theorem fieldFault_bk (f : FieldDie) (c : Nat) (d : List W32) : (fieldFault f c d).bk = f.bk := rfl
@[simp] theorem fieldFault_cg (f : FieldDie) (c : Nat) (d : List W32) : (fieldFault f c d).cg = f.cg := rfl
@[simp] theorem fieldFault_eng (f : FieldDie) (c : Nat) (d : List W32) : (fieldFault f c d).eng = f.eng := rfl
@[simp] theorem fieldFault_silt (f : FieldDie) (c : Nat) (d : List W32) : (fieldFault f c d).silt = f.silt := rfl
@[simp] theorem fieldFault_aud (f : FieldDie) (c : Nat) (d : List W32) : (fieldFault f c d).aud = f.aud := rfl
@[simp] theorem fieldFault_sns (f : FieldDie) (c : Nat) (d : List W32) : (fieldFault f c d).sns = f.sns := rfl
@[simp] theorem fieldFault_pil (f : FieldDie) (c : Nat) (d : List W32) : (fieldFault f c d).pil = f.pil := rfl
@[simp] theorem fieldFault_fb (f : FieldDie) (c : Nat) (d : List W32) : (fieldFault f c d).fb = f.fb := rfl
@[simp] theorem fieldFault_erReq (f : FieldDie) (c : Nat) (d : List W32) : (fieldFault f c d).erReq = f.erReq := rfl
@[simp] theorem fieldFault_erHeld (f : FieldDie) (c : Nat) (d : List W32) : (fieldFault f c d).erHeld = f.erHeld := rfl
@[simp] theorem fieldFault_retired (f : FieldDie) (c : Nat) (d : List W32) : (fieldFault f c d).retired = f.retired := rfl
@[simp] theorem fieldFault_ambig (f : FieldDie) (c : Nat) (d : List W32) : (fieldFault f c d).ambig = f.ambig := rfl
@[simp] theorem fieldFault_macCnt (f : FieldDie) (c : Nat) (d : List W32) : (fieldFault f c d).macCnt = f.macCnt := rfl
@[simp] theorem fieldFault_macPc (f : FieldDie) (c : Nat) (d : List W32) : (fieldFault f c d).macPc = f.macPc := rfl
@[simp] theorem fieldFault_mute (f : FieldDie) (c : Nat) (d : List W32) : (fieldFault f c d).mute = f.mute := rfl
@[simp] theorem fieldFault_muting (f : FieldDie) (c : Nat) (d : List W32) : (fieldFault f c d).muting = f.muting := rfl
@[simp] theorem fieldFault_dups (f : FieldDie) (c : Nat) (d : List W32) : (fieldFault f c d).dups = f.dups := rfl
@[simp] theorem fieldFault_lcHost (f : FieldDie) (c : Nat) (d : List W32) : (fieldFault f c d).lcHost = f.lcHost := rfl
@[simp] theorem fieldFault_chalUsed (f : FieldDie) (c : Nat) (d : List W32) : (fieldFault f c d).chalUsed = f.chalUsed := rfl
@[simp] theorem setRead_mer (f : FieldDie) (v : W32) : (setRead f v).mer = f.mer := rfl
@[simp] theorem setRead_io (f : FieldDie) (v : W32) : (setRead f v).io = f.io := rfl
@[simp] theorem setRead_bk (f : FieldDie) (v : W32) : (setRead f v).bk = f.bk := rfl
@[simp] theorem setRead_cg (f : FieldDie) (v : W32) : (setRead f v).cg = f.cg := rfl
@[simp] theorem setRead_eng (f : FieldDie) (v : W32) : (setRead f v).eng = f.eng := rfl
@[simp] theorem setRead_silt (f : FieldDie) (v : W32) : (setRead f v).silt = f.silt := rfl
@[simp] theorem setRead_aud (f : FieldDie) (v : W32) : (setRead f v).aud = f.aud := rfl
@[simp] theorem setRead_sns (f : FieldDie) (v : W32) : (setRead f v).sns = f.sns := rfl
@[simp] theorem setRead_pil (f : FieldDie) (v : W32) : (setRead f v).pil = f.pil := rfl
@[simp] theorem setRead_fb (f : FieldDie) (v : W32) : (setRead f v).fb = f.fb := rfl
@[simp] theorem setRead_erReq (f : FieldDie) (v : W32) : (setRead f v).erReq = f.erReq := rfl
@[simp] theorem setRead_erHeld (f : FieldDie) (v : W32) : (setRead f v).erHeld = f.erHeld := rfl
@[simp] theorem setRead_retired (f : FieldDie) (v : W32) : (setRead f v).retired = f.retired := rfl
@[simp] theorem setRead_ambig (f : FieldDie) (v : W32) : (setRead f v).ambig = f.ambig := rfl
@[simp] theorem setRead_macCnt (f : FieldDie) (v : W32) : (setRead f v).macCnt = f.macCnt := rfl
@[simp] theorem setRead_macPc (f : FieldDie) (v : W32) : (setRead f v).macPc = f.macPc := rfl
@[simp] theorem setRead_mute (f : FieldDie) (v : W32) : (setRead f v).mute = f.mute := rfl
@[simp] theorem setRead_muting (f : FieldDie) (v : W32) : (setRead f v).muting = f.muting := rfl
@[simp] theorem setRead_dups (f : FieldDie) (v : W32) : (setRead f v).dups = f.dups := rfl
@[simp] theorem setRead_lcHost (f : FieldDie) (v : W32) : (setRead f v).lcHost = f.lcHost := rfl
@[simp] theorem setRead_chalUsed (f : FieldDie) (v : W32) : (setRead f v).chalUsed = f.chalUsed := rfl
@[simp] theorem bankFlag_com (f : FieldDie) (i : Nat) : (bankFlag f i).com = f.com := rfl
@[simp] theorem bankFlag_mer (f : FieldDie) (i : Nat) : (bankFlag f i).mer = f.mer := rfl
@[simp] theorem bankFlag_io (f : FieldDie) (i : Nat) : (bankFlag f i).io = f.io := rfl
@[simp] theorem bankFlag_cg (f : FieldDie) (i : Nat) : (bankFlag f i).cg = f.cg := rfl
@[simp] theorem bankFlag_eng (f : FieldDie) (i : Nat) : (bankFlag f i).eng = f.eng := rfl
@[simp] theorem bankFlag_silt (f : FieldDie) (i : Nat) : (bankFlag f i).silt = f.silt := rfl
@[simp] theorem bankFlag_aud (f : FieldDie) (i : Nat) : (bankFlag f i).aud = f.aud := rfl
@[simp] theorem bankFlag_sns (f : FieldDie) (i : Nat) : (bankFlag f i).sns = f.sns := rfl
@[simp] theorem bankFlag_pil (f : FieldDie) (i : Nat) : (bankFlag f i).pil = f.pil := rfl
@[simp] theorem bankFlag_fb (f : FieldDie) (i : Nat) : (bankFlag f i).fb = f.fb := rfl
@[simp] theorem bankFlag_erReq (f : FieldDie) (i : Nat) : (bankFlag f i).erReq = f.erReq := rfl
@[simp] theorem bankFlag_erHeld (f : FieldDie) (i : Nat) : (bankFlag f i).erHeld = f.erHeld := rfl
@[simp] theorem bankFlag_retired (f : FieldDie) (i : Nat) : (bankFlag f i).retired = f.retired := rfl
@[simp] theorem bankFlag_ambig (f : FieldDie) (i : Nat) : (bankFlag f i).ambig = f.ambig := rfl
@[simp] theorem bankFlag_macCnt (f : FieldDie) (i : Nat) : (bankFlag f i).macCnt = f.macCnt := rfl
@[simp] theorem bankFlag_macPc (f : FieldDie) (i : Nat) : (bankFlag f i).macPc = f.macPc := rfl
@[simp] theorem bankFlag_mute (f : FieldDie) (i : Nat) : (bankFlag f i).mute = f.mute := rfl
@[simp] theorem bankFlag_muting (f : FieldDie) (i : Nat) : (bankFlag f i).muting = f.muting := rfl
@[simp] theorem bankFlag_dups (f : FieldDie) (i : Nat) : (bankFlag f i).dups = f.dups := rfl
@[simp] theorem bankFlag_lcHost (f : FieldDie) (i : Nat) : (bankFlag f i).lcHost = f.lcHost := rfl
@[simp] theorem bankFlag_chalUsed (f : FieldDie) (i : Nat) : (bankFlag f i).chalUsed = f.chalUsed := rfl
@[simp] theorem isaFaultAt_com (n k : Nat) (f : FieldDie) : (isaFaultAt n k f).com = f.com := rfl
@[simp] theorem isaFaultAt_mer (n k : Nat) (f : FieldDie) : (isaFaultAt n k f).mer = f.mer := rfl
@[simp] theorem isaFaultAt_io (n k : Nat) (f : FieldDie) : (isaFaultAt n k f).io = f.io := rfl
@[simp] theorem isaFaultAt_bk (n k : Nat) (f : FieldDie) : (isaFaultAt n k f).bk = f.bk := rfl
@[simp] theorem isaFaultAt_cg (n k : Nat) (f : FieldDie) : (isaFaultAt n k f).cg = f.cg := rfl
@[simp] theorem isaFaultAt_silt (n k : Nat) (f : FieldDie) : (isaFaultAt n k f).silt = f.silt := rfl
@[simp] theorem isaFaultAt_aud (n k : Nat) (f : FieldDie) : (isaFaultAt n k f).aud = f.aud := rfl
@[simp] theorem isaFaultAt_sns (n k : Nat) (f : FieldDie) : (isaFaultAt n k f).sns = f.sns := rfl
@[simp] theorem isaFaultAt_pil (n k : Nat) (f : FieldDie) : (isaFaultAt n k f).pil = f.pil := rfl
@[simp] theorem isaFaultAt_fb (n k : Nat) (f : FieldDie) : (isaFaultAt n k f).fb = f.fb := rfl
@[simp] theorem isaFaultAt_erReq (n k : Nat) (f : FieldDie) : (isaFaultAt n k f).erReq = f.erReq := rfl
@[simp] theorem isaFaultAt_erHeld (n k : Nat) (f : FieldDie) : (isaFaultAt n k f).erHeld = f.erHeld := rfl
@[simp] theorem isaFaultAt_retired (n k : Nat) (f : FieldDie) : (isaFaultAt n k f).retired = f.retired := rfl
@[simp] theorem isaFaultAt_ambig (n k : Nat) (f : FieldDie) : (isaFaultAt n k f).ambig = f.ambig := rfl
@[simp] theorem isaFaultAt_macCnt (n k : Nat) (f : FieldDie) : (isaFaultAt n k f).macCnt = f.macCnt := rfl
@[simp] theorem isaFaultAt_macPc (n k : Nat) (f : FieldDie) : (isaFaultAt n k f).macPc = f.macPc := rfl
@[simp] theorem isaFaultAt_mute (n k : Nat) (f : FieldDie) : (isaFaultAt n k f).mute = f.mute := rfl
@[simp] theorem isaFaultAt_muting (n k : Nat) (f : FieldDie) : (isaFaultAt n k f).muting = f.muting := rfl
@[simp] theorem isaFaultAt_dups (n k : Nat) (f : FieldDie) : (isaFaultAt n k f).dups = f.dups := rfl
@[simp] theorem isaFaultAt_lcHost (n k : Nat) (f : FieldDie) : (isaFaultAt n k f).lcHost = f.lcHost := rfl
@[simp] theorem isaFaultAt_chalUsed (n k : Nat) (f : FieldDie) : (isaFaultAt n k f).chalUsed = f.chalUsed := rfl
@[simp] theorem isaFault_com (k : Nat) (f : FieldDie) : (isaFault k f).com = f.com := rfl
@[simp] theorem isaFault_mer (k : Nat) (f : FieldDie) : (isaFault k f).mer = f.mer := rfl
@[simp] theorem isaFault_io (k : Nat) (f : FieldDie) : (isaFault k f).io = f.io := rfl
@[simp] theorem isaFault_bk (k : Nat) (f : FieldDie) : (isaFault k f).bk = f.bk := rfl
@[simp] theorem isaFault_cg (k : Nat) (f : FieldDie) : (isaFault k f).cg = f.cg := rfl
@[simp] theorem isaFault_silt (k : Nat) (f : FieldDie) : (isaFault k f).silt = f.silt := rfl
@[simp] theorem isaFault_aud (k : Nat) (f : FieldDie) : (isaFault k f).aud = f.aud := rfl
@[simp] theorem isaFault_sns (k : Nat) (f : FieldDie) : (isaFault k f).sns = f.sns := rfl
@[simp] theorem isaFault_pil (k : Nat) (f : FieldDie) : (isaFault k f).pil = f.pil := rfl
@[simp] theorem isaFault_fb (k : Nat) (f : FieldDie) : (isaFault k f).fb = f.fb := rfl
@[simp] theorem isaFault_erReq (k : Nat) (f : FieldDie) : (isaFault k f).erReq = f.erReq := rfl
@[simp] theorem isaFault_erHeld (k : Nat) (f : FieldDie) : (isaFault k f).erHeld = f.erHeld := rfl
@[simp] theorem isaFault_retired (k : Nat) (f : FieldDie) : (isaFault k f).retired = f.retired := rfl
@[simp] theorem isaFault_ambig (k : Nat) (f : FieldDie) : (isaFault k f).ambig = f.ambig := rfl
@[simp] theorem isaFault_macCnt (k : Nat) (f : FieldDie) : (isaFault k f).macCnt = f.macCnt := rfl
@[simp] theorem isaFault_macPc (k : Nat) (f : FieldDie) : (isaFault k f).macPc = f.macPc := rfl
@[simp] theorem isaFault_mute (k : Nat) (f : FieldDie) : (isaFault k f).mute = f.mute := rfl
@[simp] theorem isaFault_muting (k : Nat) (f : FieldDie) : (isaFault k f).muting = f.muting := rfl
@[simp] theorem isaFault_dups (k : Nat) (f : FieldDie) : (isaFault k f).dups = f.dups := rfl
@[simp] theorem isaFault_lcHost (k : Nat) (f : FieldDie) : (isaFault k f).lcHost = f.lcHost := rfl
@[simp] theorem isaFault_chalUsed (k : Nat) (f : FieldDie) : (isaFault k f).chalUsed = f.chalUsed := rfl
@[simp] theorem pushFly_com (n : Nat) (w : FlyW) (f : FieldDie) : (pushFly n w f).com = f.com := rfl
@[simp] theorem pushFly_mer (n : Nat) (w : FlyW) (f : FieldDie) : (pushFly n w f).mer = f.mer := rfl
@[simp] theorem pushFly_io (n : Nat) (w : FlyW) (f : FieldDie) : (pushFly n w f).io = f.io := rfl
@[simp] theorem pushFly_bk (n : Nat) (w : FlyW) (f : FieldDie) : (pushFly n w f).bk = f.bk := rfl
@[simp] theorem pushFly_cg (n : Nat) (w : FlyW) (f : FieldDie) : (pushFly n w f).cg = f.cg := rfl
@[simp] theorem pushFly_silt (n : Nat) (w : FlyW) (f : FieldDie) : (pushFly n w f).silt = f.silt := rfl
@[simp] theorem pushFly_aud (n : Nat) (w : FlyW) (f : FieldDie) : (pushFly n w f).aud = f.aud := rfl
@[simp] theorem pushFly_sns (n : Nat) (w : FlyW) (f : FieldDie) : (pushFly n w f).sns = f.sns := rfl
@[simp] theorem pushFly_pil (n : Nat) (w : FlyW) (f : FieldDie) : (pushFly n w f).pil = f.pil := rfl
@[simp] theorem pushFly_fb (n : Nat) (w : FlyW) (f : FieldDie) : (pushFly n w f).fb = f.fb := rfl
@[simp] theorem pushFly_erReq (n : Nat) (w : FlyW) (f : FieldDie) : (pushFly n w f).erReq = f.erReq := rfl
@[simp] theorem pushFly_erHeld (n : Nat) (w : FlyW) (f : FieldDie) : (pushFly n w f).erHeld = f.erHeld := rfl
@[simp] theorem pushFly_retired (n : Nat) (w : FlyW) (f : FieldDie) : (pushFly n w f).retired = f.retired := rfl
@[simp] theorem pushFly_ambig (n : Nat) (w : FlyW) (f : FieldDie) : (pushFly n w f).ambig = f.ambig := rfl
@[simp] theorem pushFly_macCnt (n : Nat) (w : FlyW) (f : FieldDie) : (pushFly n w f).macCnt = f.macCnt := rfl
@[simp] theorem pushFly_macPc (n : Nat) (w : FlyW) (f : FieldDie) : (pushFly n w f).macPc = f.macPc := rfl
@[simp] theorem pushFly_mute (n : Nat) (w : FlyW) (f : FieldDie) : (pushFly n w f).mute = f.mute := rfl
@[simp] theorem pushFly_muting (n : Nat) (w : FlyW) (f : FieldDie) : (pushFly n w f).muting = f.muting := rfl
@[simp] theorem pushFly_dups (n : Nat) (w : FlyW) (f : FieldDie) : (pushFly n w f).dups = f.dups := rfl
@[simp] theorem pushFly_lcHost (n : Nat) (w : FlyW) (f : FieldDie) : (pushFly n w f).lcHost = f.lcHost := rfl
@[simp] theorem pushFly_chalUsed (n : Nat) (w : FlyW) (f : FieldDie) : (pushFly n w f).chalUsed = f.chalUsed := rfl
@[simp] theorem pushReg_com (l k n : Nat) (v : Int) (f : FieldDie) : (pushReg l k n v f).com = f.com := rfl
@[simp] theorem pushReg_mer (l k n : Nat) (v : Int) (f : FieldDie) : (pushReg l k n v f).mer = f.mer := rfl
@[simp] theorem pushReg_io (l k n : Nat) (v : Int) (f : FieldDie) : (pushReg l k n v f).io = f.io := rfl
@[simp] theorem pushReg_bk (l k n : Nat) (v : Int) (f : FieldDie) : (pushReg l k n v f).bk = f.bk := rfl
@[simp] theorem pushReg_cg (l k n : Nat) (v : Int) (f : FieldDie) : (pushReg l k n v f).cg = f.cg := rfl
@[simp] theorem pushReg_silt (l k n : Nat) (v : Int) (f : FieldDie) : (pushReg l k n v f).silt = f.silt := rfl
@[simp] theorem pushReg_aud (l k n : Nat) (v : Int) (f : FieldDie) : (pushReg l k n v f).aud = f.aud := rfl
@[simp] theorem pushReg_sns (l k n : Nat) (v : Int) (f : FieldDie) : (pushReg l k n v f).sns = f.sns := rfl
@[simp] theorem pushReg_pil (l k n : Nat) (v : Int) (f : FieldDie) : (pushReg l k n v f).pil = f.pil := rfl
@[simp] theorem pushReg_fb (l k n : Nat) (v : Int) (f : FieldDie) : (pushReg l k n v f).fb = f.fb := rfl
@[simp] theorem pushReg_erReq (l k n : Nat) (v : Int) (f : FieldDie) : (pushReg l k n v f).erReq = f.erReq := rfl
@[simp] theorem pushReg_erHeld (l k n : Nat) (v : Int) (f : FieldDie) : (pushReg l k n v f).erHeld = f.erHeld := rfl
@[simp] theorem pushReg_retired (l k n : Nat) (v : Int) (f : FieldDie) : (pushReg l k n v f).retired = f.retired := rfl
@[simp] theorem pushReg_ambig (l k n : Nat) (v : Int) (f : FieldDie) : (pushReg l k n v f).ambig = f.ambig := rfl
@[simp] theorem pushReg_macCnt (l k n : Nat) (v : Int) (f : FieldDie) : (pushReg l k n v f).macCnt = f.macCnt := rfl
@[simp] theorem pushReg_macPc (l k n : Nat) (v : Int) (f : FieldDie) : (pushReg l k n v f).macPc = f.macPc := rfl
@[simp] theorem pushReg_mute (l k n : Nat) (v : Int) (f : FieldDie) : (pushReg l k n v f).mute = f.mute := rfl
@[simp] theorem pushReg_muting (l k n : Nat) (v : Int) (f : FieldDie) : (pushReg l k n v f).muting = f.muting := rfl
@[simp] theorem pushReg_dups (l k n : Nat) (v : Int) (f : FieldDie) : (pushReg l k n v f).dups = f.dups := rfl
@[simp] theorem pushReg_lcHost (l k n : Nat) (v : Int) (f : FieldDie) : (pushReg l k n v f).lcHost = f.lcHost := rfl
@[simp] theorem pushReg_chalUsed (l k n : Nat) (v : Int) (f : FieldDie) : (pushReg l k n v f).chalUsed = f.chalUsed := rfl
@[simp] theorem pushBank_com (m b a : Nat) (v : W32) (f : FieldDie) : (pushBank m b a v f).com = f.com := rfl
@[simp] theorem pushBank_mer (m b a : Nat) (v : W32) (f : FieldDie) : (pushBank m b a v f).mer = f.mer := rfl
@[simp] theorem pushBank_io (m b a : Nat) (v : W32) (f : FieldDie) : (pushBank m b a v f).io = f.io := rfl
@[simp] theorem pushBank_bk (m b a : Nat) (v : W32) (f : FieldDie) : (pushBank m b a v f).bk = f.bk := rfl
@[simp] theorem pushBank_cg (m b a : Nat) (v : W32) (f : FieldDie) : (pushBank m b a v f).cg = f.cg := rfl
@[simp] theorem pushBank_silt (m b a : Nat) (v : W32) (f : FieldDie) : (pushBank m b a v f).silt = f.silt := rfl
@[simp] theorem pushBank_aud (m b a : Nat) (v : W32) (f : FieldDie) : (pushBank m b a v f).aud = f.aud := rfl
@[simp] theorem pushBank_sns (m b a : Nat) (v : W32) (f : FieldDie) : (pushBank m b a v f).sns = f.sns := rfl
@[simp] theorem pushBank_pil (m b a : Nat) (v : W32) (f : FieldDie) : (pushBank m b a v f).pil = f.pil := rfl
@[simp] theorem pushBank_fb (m b a : Nat) (v : W32) (f : FieldDie) : (pushBank m b a v f).fb = f.fb := rfl
@[simp] theorem pushBank_erReq (m b a : Nat) (v : W32) (f : FieldDie) : (pushBank m b a v f).erReq = f.erReq := rfl
@[simp] theorem pushBank_erHeld (m b a : Nat) (v : W32) (f : FieldDie) : (pushBank m b a v f).erHeld = f.erHeld := rfl
@[simp] theorem pushBank_retired (m b a : Nat) (v : W32) (f : FieldDie) : (pushBank m b a v f).retired = f.retired := rfl
@[simp] theorem pushBank_ambig (m b a : Nat) (v : W32) (f : FieldDie) : (pushBank m b a v f).ambig = f.ambig := rfl
@[simp] theorem pushBank_macCnt (m b a : Nat) (v : W32) (f : FieldDie) : (pushBank m b a v f).macCnt = f.macCnt := rfl
@[simp] theorem pushBank_macPc (m b a : Nat) (v : W32) (f : FieldDie) : (pushBank m b a v f).macPc = f.macPc := rfl
@[simp] theorem pushBank_mute (m b a : Nat) (v : W32) (f : FieldDie) : (pushBank m b a v f).mute = f.mute := rfl
@[simp] theorem pushBank_muting (m b a : Nat) (v : W32) (f : FieldDie) : (pushBank m b a v f).muting = f.muting := rfl
@[simp] theorem pushBank_dups (m b a : Nat) (v : W32) (f : FieldDie) : (pushBank m b a v f).dups = f.dups := rfl
@[simp] theorem pushBank_lcHost (m b a : Nat) (v : W32) (f : FieldDie) : (pushBank m b a v f).lcHost = f.lcHost := rfl
@[simp] theorem pushBank_chalUsed (m b a : Nat) (v : W32) (f : FieldDie) : (pushBank m b a v f).chalUsed = f.chalUsed := rfl
@[simp] theorem pushFlags_com (l : Nat) (on : Bool) (r : Res) (f : FieldDie) : (pushFlags l on r f).com = f.com := by cases on <;> rfl
@[simp] theorem pushFlags_mer (l : Nat) (on : Bool) (r : Res) (f : FieldDie) : (pushFlags l on r f).mer = f.mer := by cases on <;> rfl
@[simp] theorem pushFlags_io (l : Nat) (on : Bool) (r : Res) (f : FieldDie) : (pushFlags l on r f).io = f.io := by cases on <;> rfl
@[simp] theorem pushFlags_bk (l : Nat) (on : Bool) (r : Res) (f : FieldDie) : (pushFlags l on r f).bk = f.bk := by cases on <;> rfl
@[simp] theorem pushFlags_cg (l : Nat) (on : Bool) (r : Res) (f : FieldDie) : (pushFlags l on r f).cg = f.cg := by cases on <;> rfl
@[simp] theorem pushFlags_silt (l : Nat) (on : Bool) (r : Res) (f : FieldDie) : (pushFlags l on r f).silt = f.silt := by cases on <;> rfl
@[simp] theorem pushFlags_aud (l : Nat) (on : Bool) (r : Res) (f : FieldDie) : (pushFlags l on r f).aud = f.aud := by cases on <;> rfl
@[simp] theorem pushFlags_sns (l : Nat) (on : Bool) (r : Res) (f : FieldDie) : (pushFlags l on r f).sns = f.sns := by cases on <;> rfl
@[simp] theorem pushFlags_pil (l : Nat) (on : Bool) (r : Res) (f : FieldDie) : (pushFlags l on r f).pil = f.pil := by cases on <;> rfl
@[simp] theorem pushFlags_fb (l : Nat) (on : Bool) (r : Res) (f : FieldDie) : (pushFlags l on r f).fb = f.fb := by cases on <;> rfl
@[simp] theorem pushFlags_erReq (l : Nat) (on : Bool) (r : Res) (f : FieldDie) : (pushFlags l on r f).erReq = f.erReq := by cases on <;> rfl
@[simp] theorem pushFlags_erHeld (l : Nat) (on : Bool) (r : Res) (f : FieldDie) : (pushFlags l on r f).erHeld = f.erHeld := by cases on <;> rfl
@[simp] theorem pushFlags_retired (l : Nat) (on : Bool) (r : Res) (f : FieldDie) : (pushFlags l on r f).retired = f.retired := by cases on <;> rfl
@[simp] theorem pushFlags_ambig (l : Nat) (on : Bool) (r : Res) (f : FieldDie) : (pushFlags l on r f).ambig = f.ambig := by cases on <;> rfl
@[simp] theorem pushFlags_macCnt (l : Nat) (on : Bool) (r : Res) (f : FieldDie) : (pushFlags l on r f).macCnt = f.macCnt := by cases on <;> rfl
@[simp] theorem pushFlags_macPc (l : Nat) (on : Bool) (r : Res) (f : FieldDie) : (pushFlags l on r f).macPc = f.macPc := by cases on <;> rfl
@[simp] theorem pushFlags_mute (l : Nat) (on : Bool) (r : Res) (f : FieldDie) : (pushFlags l on r f).mute = f.mute := by cases on <;> rfl
@[simp] theorem pushFlags_muting (l : Nat) (on : Bool) (r : Res) (f : FieldDie) : (pushFlags l on r f).muting = f.muting := by cases on <;> rfl
@[simp] theorem pushFlags_dups (l : Nat) (on : Bool) (r : Res) (f : FieldDie) : (pushFlags l on r f).dups = f.dups := by cases on <;> rfl
@[simp] theorem pushFlags_lcHost (l : Nat) (on : Bool) (r : Res) (f : FieldDie) : (pushFlags l on r f).lcHost = f.lcHost := by cases on <;> rfl
@[simp] theorem pushFlags_chalUsed (l : Nat) (on : Bool) (r : Res) (f : FieldDie) : (pushFlags l on r f).chalUsed = f.chalUsed := by cases on <;> rfl
@[simp] theorem fieldSetBank_com (f : FieldDie) (i : BankId) (b : Bank) : (fieldSetBank f i b).com = f.com := by cases i <;> rfl
@[simp] theorem fieldSetBank_mer (f : FieldDie) (i : BankId) (b : Bank) : (fieldSetBank f i b).mer = f.mer := by cases i <;> rfl
@[simp] theorem fieldSetBank_io (f : FieldDie) (i : BankId) (b : Bank) : (fieldSetBank f i b).io = f.io := by cases i <;> rfl
@[simp] theorem fieldSetBank_cg (f : FieldDie) (i : BankId) (b : Bank) : (fieldSetBank f i b).cg = f.cg := by cases i <;> rfl
@[simp] theorem fieldSetBank_eng (f : FieldDie) (i : BankId) (b : Bank) : (fieldSetBank f i b).eng = f.eng := by cases i <;> rfl
@[simp] theorem fieldSetBank_silt (f : FieldDie) (i : BankId) (b : Bank) : (fieldSetBank f i b).silt = f.silt := by cases i <;> rfl
@[simp] theorem fieldSetBank_aud (f : FieldDie) (i : BankId) (b : Bank) : (fieldSetBank f i b).aud = f.aud := by cases i <;> rfl
@[simp] theorem fieldSetBank_sns (f : FieldDie) (i : BankId) (b : Bank) : (fieldSetBank f i b).sns = f.sns := by cases i <;> rfl
@[simp] theorem fieldSetBank_pil (f : FieldDie) (i : BankId) (b : Bank) : (fieldSetBank f i b).pil = f.pil := by cases i <;> rfl
@[simp] theorem fieldSetBank_fb (f : FieldDie) (i : BankId) (b : Bank) : (fieldSetBank f i b).fb = f.fb := by cases i <;> rfl
@[simp] theorem fieldSetBank_erReq (f : FieldDie) (i : BankId) (b : Bank) : (fieldSetBank f i b).erReq = f.erReq := by cases i <;> rfl
@[simp] theorem fieldSetBank_erHeld (f : FieldDie) (i : BankId) (b : Bank) : (fieldSetBank f i b).erHeld = f.erHeld := by cases i <;> rfl
@[simp] theorem fieldSetBank_retired (f : FieldDie) (i : BankId) (b : Bank) : (fieldSetBank f i b).retired = f.retired := by cases i <;> rfl
@[simp] theorem fieldSetBank_ambig (f : FieldDie) (i : BankId) (b : Bank) : (fieldSetBank f i b).ambig = f.ambig := by cases i <;> rfl
@[simp] theorem fieldSetBank_macCnt (f : FieldDie) (i : BankId) (b : Bank) : (fieldSetBank f i b).macCnt = f.macCnt := by cases i <;> rfl
@[simp] theorem fieldSetBank_macPc (f : FieldDie) (i : BankId) (b : Bank) : (fieldSetBank f i b).macPc = f.macPc := by cases i <;> rfl
@[simp] theorem fieldSetBank_mute (f : FieldDie) (i : BankId) (b : Bank) : (fieldSetBank f i b).mute = f.mute := by cases i <;> rfl
@[simp] theorem fieldSetBank_muting (f : FieldDie) (i : BankId) (b : Bank) : (fieldSetBank f i b).muting = f.muting := by cases i <;> rfl
@[simp] theorem fieldSetBank_dups (f : FieldDie) (i : BankId) (b : Bank) : (fieldSetBank f i b).dups = f.dups := by cases i <;> rfl
@[simp] theorem fieldSetBank_lcHost (f : FieldDie) (i : BankId) (b : Bank) : (fieldSetBank f i b).lcHost = f.lcHost := by cases i <;> rfl
@[simp] theorem fieldSetBank_chalUsed (f : FieldDie) (i : BankId) (b : Bank) : (fieldSetBank f i b).chalUsed = f.chalUsed := by cases i <;> rfl
@[simp] theorem fieldWriteBank_com (f : FieldDie) (i : BankId) (a : Nat) (v : List Byte) : (fieldWriteBank f i a v).com = f.com := by cases i <;> rfl
@[simp] theorem fieldWriteBank_mer (f : FieldDie) (i : BankId) (a : Nat) (v : List Byte) : (fieldWriteBank f i a v).mer = f.mer := by cases i <;> rfl
@[simp] theorem fieldWriteBank_io (f : FieldDie) (i : BankId) (a : Nat) (v : List Byte) : (fieldWriteBank f i a v).io = f.io := by cases i <;> rfl
@[simp] theorem fieldWriteBank_cg (f : FieldDie) (i : BankId) (a : Nat) (v : List Byte) : (fieldWriteBank f i a v).cg = f.cg := by cases i <;> rfl
@[simp] theorem fieldWriteBank_eng (f : FieldDie) (i : BankId) (a : Nat) (v : List Byte) : (fieldWriteBank f i a v).eng = f.eng := by cases i <;> rfl
@[simp] theorem fieldWriteBank_silt (f : FieldDie) (i : BankId) (a : Nat) (v : List Byte) : (fieldWriteBank f i a v).silt = f.silt := by cases i <;> rfl
@[simp] theorem fieldWriteBank_aud (f : FieldDie) (i : BankId) (a : Nat) (v : List Byte) : (fieldWriteBank f i a v).aud = f.aud := by cases i <;> rfl
@[simp] theorem fieldWriteBank_sns (f : FieldDie) (i : BankId) (a : Nat) (v : List Byte) : (fieldWriteBank f i a v).sns = f.sns := by cases i <;> rfl
@[simp] theorem fieldWriteBank_pil (f : FieldDie) (i : BankId) (a : Nat) (v : List Byte) : (fieldWriteBank f i a v).pil = f.pil := by cases i <;> rfl
@[simp] theorem fieldWriteBank_fb (f : FieldDie) (i : BankId) (a : Nat) (v : List Byte) : (fieldWriteBank f i a v).fb = f.fb := by cases i <;> rfl
@[simp] theorem fieldWriteBank_erReq (f : FieldDie) (i : BankId) (a : Nat) (v : List Byte) : (fieldWriteBank f i a v).erReq = f.erReq := by cases i <;> rfl
@[simp] theorem fieldWriteBank_erHeld (f : FieldDie) (i : BankId) (a : Nat) (v : List Byte) : (fieldWriteBank f i a v).erHeld = f.erHeld := by cases i <;> rfl
@[simp] theorem fieldWriteBank_retired (f : FieldDie) (i : BankId) (a : Nat) (v : List Byte) : (fieldWriteBank f i a v).retired = f.retired := by cases i <;> rfl
@[simp] theorem fieldWriteBank_ambig (f : FieldDie) (i : BankId) (a : Nat) (v : List Byte) : (fieldWriteBank f i a v).ambig = f.ambig := by cases i <;> rfl
@[simp] theorem fieldWriteBank_macCnt (f : FieldDie) (i : BankId) (a : Nat) (v : List Byte) : (fieldWriteBank f i a v).macCnt = f.macCnt := by cases i <;> rfl
@[simp] theorem fieldWriteBank_macPc (f : FieldDie) (i : BankId) (a : Nat) (v : List Byte) : (fieldWriteBank f i a v).macPc = f.macPc := by cases i <;> rfl
@[simp] theorem fieldWriteBank_mute (f : FieldDie) (i : BankId) (a : Nat) (v : List Byte) : (fieldWriteBank f i a v).mute = f.mute := by cases i <;> rfl
@[simp] theorem fieldWriteBank_muting (f : FieldDie) (i : BankId) (a : Nat) (v : List Byte) : (fieldWriteBank f i a v).muting = f.muting := by cases i <;> rfl
@[simp] theorem fieldWriteBank_dups (f : FieldDie) (i : BankId) (a : Nat) (v : List Byte) : (fieldWriteBank f i a v).dups = f.dups := by cases i <;> rfl
@[simp] theorem fieldWriteBank_lcHost (f : FieldDie) (i : BankId) (a : Nat) (v : List Byte) : (fieldWriteBank f i a v).lcHost = f.lcHost := by cases i <;> rfl
@[simp] theorem fieldWriteBank_chalUsed (f : FieldDie) (i : BankId) (a : Nat) (v : List Byte) : (fieldWriteBank f i a v).chalUsed = f.chalUsed := by cases i <;> rfl
@[simp] theorem bankPut_com (f : FieldDie) (i : BankId) (w o : Nat) (v : List Byte) : (bankPut f i w o v).com = f.com := by cases i <;> rfl
@[simp] theorem bankPut_mer (f : FieldDie) (i : BankId) (w o : Nat) (v : List Byte) : (bankPut f i w o v).mer = f.mer := by cases i <;> rfl
@[simp] theorem bankPut_io (f : FieldDie) (i : BankId) (w o : Nat) (v : List Byte) : (bankPut f i w o v).io = f.io := by cases i <;> rfl
@[simp] theorem bankPut_cg (f : FieldDie) (i : BankId) (w o : Nat) (v : List Byte) : (bankPut f i w o v).cg = f.cg := by cases i <;> rfl
@[simp] theorem bankPut_eng (f : FieldDie) (i : BankId) (w o : Nat) (v : List Byte) : (bankPut f i w o v).eng = f.eng := by cases i <;> rfl
@[simp] theorem bankPut_silt (f : FieldDie) (i : BankId) (w o : Nat) (v : List Byte) : (bankPut f i w o v).silt = f.silt := by cases i <;> rfl
@[simp] theorem bankPut_aud (f : FieldDie) (i : BankId) (w o : Nat) (v : List Byte) : (bankPut f i w o v).aud = f.aud := by cases i <;> rfl
@[simp] theorem bankPut_sns (f : FieldDie) (i : BankId) (w o : Nat) (v : List Byte) : (bankPut f i w o v).sns = f.sns := by cases i <;> rfl
@[simp] theorem bankPut_pil (f : FieldDie) (i : BankId) (w o : Nat) (v : List Byte) : (bankPut f i w o v).pil = f.pil := by cases i <;> rfl
@[simp] theorem bankPut_fb (f : FieldDie) (i : BankId) (w o : Nat) (v : List Byte) : (bankPut f i w o v).fb = f.fb := by cases i <;> rfl
@[simp] theorem bankPut_erReq (f : FieldDie) (i : BankId) (w o : Nat) (v : List Byte) : (bankPut f i w o v).erReq = f.erReq := by cases i <;> rfl
@[simp] theorem bankPut_erHeld (f : FieldDie) (i : BankId) (w o : Nat) (v : List Byte) : (bankPut f i w o v).erHeld = f.erHeld := by cases i <;> rfl
@[simp] theorem bankPut_retired (f : FieldDie) (i : BankId) (w o : Nat) (v : List Byte) : (bankPut f i w o v).retired = f.retired := by cases i <;> rfl
@[simp] theorem bankPut_ambig (f : FieldDie) (i : BankId) (w o : Nat) (v : List Byte) : (bankPut f i w o v).ambig = f.ambig := by cases i <;> rfl
@[simp] theorem bankPut_macCnt (f : FieldDie) (i : BankId) (w o : Nat) (v : List Byte) : (bankPut f i w o v).macCnt = f.macCnt := by cases i <;> rfl
@[simp] theorem bankPut_macPc (f : FieldDie) (i : BankId) (w o : Nat) (v : List Byte) : (bankPut f i w o v).macPc = f.macPc := by cases i <;> rfl
@[simp] theorem bankPut_mute (f : FieldDie) (i : BankId) (w o : Nat) (v : List Byte) : (bankPut f i w o v).mute = f.mute := by cases i <;> rfl
@[simp] theorem bankPut_muting (f : FieldDie) (i : BankId) (w o : Nat) (v : List Byte) : (bankPut f i w o v).muting = f.muting := by cases i <;> rfl
@[simp] theorem bankPut_dups (f : FieldDie) (i : BankId) (w o : Nat) (v : List Byte) : (bankPut f i w o v).dups = f.dups := by cases i <;> rfl
@[simp] theorem bankPut_lcHost (f : FieldDie) (i : BankId) (w o : Nat) (v : List Byte) : (bankPut f i w o v).lcHost = f.lcHost := by cases i <;> rfl
@[simp] theorem bankPut_chalUsed (f : FieldDie) (i : BankId) (w o : Nat) (v : List Byte) : (bankPut f i w o v).chalUsed = f.chalUsed := by cases i <;> rfl
@[simp] theorem pushFly_eng_regs (n : Nat) (w : FlyW) (f : FieldDie) : (pushFly n w f).eng.regs = f.eng.regs := rfl
@[simp] theorem pushFly_eng_l0 (n : Nat) (w : FlyW) (f : FieldDie) : (pushFly n w f).eng.l0 = f.eng.l0 := rfl
@[simp] theorem pushFly_eng_l1 (n : Nat) (w : FlyW) (f : FieldDie) : (pushFly n w f).eng.l1 = f.eng.l1 := rfl
@[simp] theorem pushFly_eng_repi (n : Nat) (w : FlyW) (f : FieldDie) : (pushFly n w f).eng.repi = f.eng.repi := rfl
@[simp] theorem pushFly_eng_ip (n : Nat) (w : FlyW) (f : FieldDie) : (pushFly n w f).eng.ip = f.eng.ip := rfl
@[simp] theorem pushFly_eng_spanLeft (n : Nat) (w : FlyW) (f : FieldDie) : (pushFly n w f).eng.spanLeft = f.eng.spanLeft := rfl
@[simp] theorem pushFly_eng_spanAct (n : Nat) (w : FlyW) (f : FieldDie) : (pushFly n w f).eng.spanAct = f.eng.spanAct := rfl
@[simp] theorem pushFly_eng_fault (n : Nat) (w : FlyW) (f : FieldDie) : (pushFly n w f).eng.fault = f.eng.fault := rfl
@[simp] theorem pushFly_eng_first (n : Nat) (w : FlyW) (f : FieldDie) : (pushFly n w f).eng.first = f.eng.first := rfl
@[simp] theorem pushFly_eng_evtQ (n : Nat) (w : FlyW) (f : FieldDie) : (pushFly n w f).eng.evtQ = f.eng.evtQ := rfl
@[simp] theorem pushFly_eng_dtAct (n : Nat) (w : FlyW) (f : FieldDie) : (pushFly n w f).eng.dtAct = f.eng.dtAct := rfl
@[simp] theorem pushFly_eng_ulenAct (n : Nat) (w : FlyW) (f : FieldDie) : (pushFly n w f).eng.ulenAct = f.eng.ulenAct := rfl
@[simp] theorem pushFly_eng_fly (n : Nat) (w : FlyW) (f : FieldDie) : (pushFly n w f).eng.fly = f.eng.fly ++ [⟨f.mer.slot + n, f.mer.slot, w⟩] := rfl

/-! ### The host die -/

@[simp] theorem hostFault_com (h : HostDie) (c : Nat) (d : List W32) : (hostFault h c d).com = h.com := rfl
@[simp] theorem hostFault_cw (h : HostDie) (c : Nat) (d : List W32) : (hostFault h c d).cw = h.cw := rfl
@[simp] theorem hostFault_dt (h : HostDie) (c : Nat) (d : List W32) : (hostFault h c d).dt = h.dt := rfl
@[simp] theorem hostFault_leg (h : HostDie) (c : Nat) (d : List W32) : (hostFault h c d).leg = h.leg := rfl
@[simp] theorem hostFault_spp (h : HostDie) (c : Nat) (d : List W32) : (hostFault h c d).spp = h.spp := rfl
@[simp] theorem hostFault_h0 (h : HostDie) (c : Nat) (d : List W32) : (hostFault h c d).h0 = h.h0 := rfl
@[simp] theorem hostFault_h1 (h : HostDie) (c : Nat) (d : List W32) : (hostFault h c d).h1 = h.h1 := rfl
@[simp] theorem hostFault_h2 (h : HostDie) (c : Nat) (d : List W32) : (hostFault h c d).h2 = h.h2 := rfl
@[simp] theorem hostFault_h3 (h : HostDie) (c : Nat) (d : List W32) : (hostFault h c d).h3 = h.h3 := rfl
@[simp] theorem hostFault_n (h : HostDie) (c : Nat) (d : List W32) : (hostFault h c d).n = h.n := rfl
@[simp] theorem hostFault_e (h : HostDie) (c : Nat) (d : List W32) : (hostFault h c d).e = h.e := rfl
@[simp] theorem hostFault_far (h : HostDie) (c : Nat) (d : List W32) : (hostFault h c d).far = h.far := rfl
@[simp] theorem hostFault_farFresh (h : HostDie) (c : Nat) (d : List W32) : (hostFault h c d).farFresh = h.farFresh := rfl
@[simp] theorem hostFault_ethIn (h : HostDie) (c : Nat) (d : List W32) : (hostFault h c d).ethIn = h.ethIn := rfl
@[simp] theorem hostFault_ticks (h : HostDie) (c : Nat) (d : List W32) : (hostFault h c d).ticks = h.ticks := rfl
@[simp] theorem hostFault_coresRun (h : HostDie) (c : Nat) (d : List W32) : (hostFault h c d).coresRun = h.coresRun := rfl
@[simp] theorem hostSetBank_com (h : HostDie) (i : BankId) (b : Bank) : (hostSetBank h i b).com = h.com := by cases i <;> rfl
@[simp] theorem hostSetBank_cw (h : HostDie) (i : BankId) (b : Bank) : (hostSetBank h i b).cw = h.cw := by cases i <;> rfl
@[simp] theorem hostSetBank_dt (h : HostDie) (i : BankId) (b : Bank) : (hostSetBank h i b).dt = h.dt := by cases i <;> rfl
@[simp] theorem hostSetBank_leg (h : HostDie) (i : BankId) (b : Bank) : (hostSetBank h i b).leg = h.leg := by cases i <;> rfl
@[simp] theorem hostSetBank_boot (h : HostDie) (i : BankId) (b : Bank) : (hostSetBank h i b).boot = h.boot := by cases i <;> rfl
@[simp] theorem hostSetBank_spp (h : HostDie) (i : BankId) (b : Bank) : (hostSetBank h i b).spp = h.spp := by cases i <;> rfl
@[simp] theorem hostSetBank_far (h : HostDie) (i : BankId) (b : Bank) : (hostSetBank h i b).far = h.far := by cases i <;> rfl
@[simp] theorem hostSetBank_farFresh (h : HostDie) (i : BankId) (b : Bank) : (hostSetBank h i b).farFresh = h.farFresh := by cases i <;> rfl
@[simp] theorem hostSetBank_ethIn (h : HostDie) (i : BankId) (b : Bank) : (hostSetBank h i b).ethIn = h.ethIn := by cases i <;> rfl
@[simp] theorem hostSetBank_ticks (h : HostDie) (i : BankId) (b : Bank) : (hostSetBank h i b).ticks = h.ticks := by cases i <;> rfl
@[simp] theorem hostSetBank_coresRun (h : HostDie) (i : BankId) (b : Bank) : (hostSetBank h i b).coresRun = h.coresRun := by cases i <;> rfl

/-! ### Which side a command changes -/

theorem onField_host (g : FieldDie → FieldDie) (d : Dies) : (onField g d).host = d.host := by
  unfold onField; split <;> rfl

theorem onHost_field (g : HostDie → HostDie) (d : Dies) : (onHost g d).field = d.field := by
  unfold onHost; split <;> rfl

/-- A field command on a running field side. -/
theorem fieldCmd_runs (g : FieldDie → FieldDie) (s : State) (h : s.dies.field.com.runs = true) :
    fieldCmd g s = .next (s.setField (g s.dies.field)) := by
  simp [fieldCmd, ans, onField, h, State.setField]

/-- A field command while the field side does not run. -/
theorem fieldCmd_held (g : FieldDie → FieldDie) (s : State) (h : s.dies.field.com.runs = false) : fieldCmd g s = .next s := by
  simp [fieldCmd, ans, onField, h]

/-- A host command on a running host side. -/
theorem hostCmd_runs (g : HostDie → HostDie) (s : State) (h : s.dies.host.com.runs = true) :
    hostCmd g s = .next (s.setHost (g s.dies.host)) := by
  simp [hostCmd, ans, onHost, h, State.setHost]

/-- A host command while the host side does not run. -/
theorem hostCmd_held (g : HostDie → HostDie) (s : State) (h : s.dies.host.com.runs = false) : hostCmd g s = .next s := by
  simp [hostCmd, ans, onHost, h]

/-- All that a command of one die's common part can do: it answers, and the other die and the queue keep their value. -/
theorem ans_next (s : State) (g : Dies → Dies) : ans s g = .next { s with dies := g s.dies } := rfl

/-- A change of one die's common part leaves the other die. -/
theorem onCom_other (d e : Side) (g : Common → Common) (ds : Dies) (h : d ≠ e) : comOf e (onCom d g ds) = comOf e ds := by
  cases d <;> cases e <;> first | exact absurd rfl h | (simp only [onCom, onHost, onField, comOf]; split <;> rfl)

/-- It takes effect where that side runs. -/
theorem onCom_runs (d : Side) (g : Common → Common) (ds : Dies) (h : (comOf d ds).runs = true) : comOf d (onCom d g ds) = g (comOf d ds) := by
  cases d <;> simp_all [onCom, onHost, onField, comOf]

end Sys2Proof.Machine
end

