-- ==== Sys2Proof/Laws/Engine.lean ====
section
/-! SUPPORT. What issuing one engine instruction does where nothing else moves the engine: the issue, the end of its slot, the results that
become visible, register reads after register writes. -/

namespace Sys2Proof.Machine

/-! ### Registers -/

/-- Keys that live in the register table: not the counts of the levels nor RPM. -/
def plainKey (k : Nat) : Prop := k ≠ 0x59 ∧ k ≠ 0x5A ∧ k ≠ 0x60

theorem putReg_plain (k m v : Nat) (e : Eng) (h : plainKey k) :
    putReg k m v e = { e with regs := tput 0 e.regs k ((engReg e k ^^^ (engReg e k &&& m)) ||| (v &&& m)) } := by
  obtain ⟨h1, h2, h3⟩ := h
  simp [putReg, h1, h2, h3]

/-- A register that a write does not name keeps its value. -/
theorem engReg_putReg_other (k m v j : Nat) (e : Eng) (h : j ≠ k) : engReg (putReg k m v e) j = engReg e j := by
  unfold putReg
  split
  · rfl
  · split
    · rfl
    · split
      · rfl
      · simp only [engReg]; rw [tget_tput, if_neg h]

/-- A register after a write of some of its bits. -/
theorem engReg_putReg_same (k m v : Nat) (e : Eng) (h : plainKey k) :
    engReg (putReg k m v e) k = (engReg e k ^^^ (engReg e k &&& m)) ||| (v &&& m) := by
  rw [putReg_plain k m v e h]; simp only [engReg]; rw [tget_tput, if_pos rfl]

/-- A data register after a write of all its bits. -/
theorem dW_putReg (n : Nat) (v : Int) (e : Eng) (h : n < 16) : dW (putReg n (2 ^ 32 - 1) (wrapN 32 v) e) n = BitVec.ofInt 32 v := by
  have hp : plainKey n := ⟨by omega, by omega, by omega⟩
  unfold dW
  rw [Nat.mod_eq_of_lt h, engReg_putReg_same n _ _ e hp, ← w32_wrapN]
  apply BitVec.eq_of_toNat_eq
  simp only [w32, BitVec.toNat_ofNat]
  exact masked_mod _ _ 32

/-- An accumulator after a write of all its bits. -/
theorem acI_putReg (a : Nat) (v : Int) (e : Eng) (h : a < 8) :
    acI (putReg (0x30 + a) (2 ^ 72 - 1) (wrapN 72 v) e) a = (BitVec.ofInt 72 v).toInt := by
  have hp : plainKey (0x30 + a) := ⟨by omega, by omega, by omega⟩
  unfold acI
  rw [Nat.mod_eq_of_lt h, engReg_putReg_same _ _ _ e hp, ← sextN_wrapN 72 v (by decide)]
  unfold sextN
  rw [masked_mod _ _ 72]

/-- FL after a write of all its bits. -/
theorem flagsAre_putReg (r : Res) (e : Eng) :
    flagsAre (putReg 0x53 0xF (flagsOf r) e) (decide (r.val = 0)) (decide (r.val < 0)) r.v r.q := by
  have hp : plainKey 0x53 := ⟨by omega, by omega, by omega⟩
  obtain ⟨h0, h1, h2, h3⟩ := flagsOf_bits r
  have hm : ∀ j, j < 4 → (0xF : Nat).testBit j = true := by decide
  refine ⟨?_, ?_, ?_, ?_⟩ <;> rw [engReg_putReg_same _ _ _ e hp, testBit_masked, if_pos (hm _ (by decide))] <;> assumption

theorem putReg_ip (k m v : Nat) (e : Eng) : (putReg k m v e).ip = e.ip := by
  unfold putReg; split <;> (try rfl); split <;> (try rfl); split <;> rfl

/-! ### Issue and the end of a slot -/

/-- One slot goes by before the seam. -/
theorem advance_one (f : FieldDie) (h : f.mer.slot < seamSlot f.mer) : advance 1 f = slotStep f := by
  unfold advance
  rw [if_neg (by omega)]
  split
  · next hf =>
    rw [if_pos (by omega)]
    have he : { f.eng with fly := [] } = f.eng := by rw [← hf]
    simp only [slotStep, hf, applyDue, List.filter_nil]
    rw [he]
  · rfl

/-- The next address. -/
def nextIp (f : FieldDie) : FieldDie := { f with eng := { f.eng with ip := f.eng.ip + 1 } }

/-- An instruction of one slot ends where no repeat runs. -/
theorem endIssue_one (f : FieldDie) (h0 : lvlLive f.eng.l0 = false) (h1 : lvlLive f.eng.l1 = false) (hr : f.eng.repi = none)
    (hs : f.mer.slot < seamSlot f.mer) :
    endIssue 1 f = slotStep (nextIp f) := by
  have h : repStep f.eng = ({ f.eng with ip := f.eng.ip + 1 }, .none) := by
    simp [repStep, hr, levelStep, h0, h1]
  simp only [endIssue, h, follow]
  exact advance_one _ hs

theorem inGhost_quiet (f : FieldDie) (h : engQuiet f) : inGhost f.eng = false := by
  obtain ⟨-, -, -, -, h0, h1, hr, -⟩ := h
  simp only [lvlLive, Bool.or_eq_false_iff] at h0 h1
  simp [inGhost, h0.2, h1.2, hr]

/-- The start of an issue in a quiet engine. -/
theorem atIssue_quiet (c : Bool) (body : FieldDie → FieldDie) (f : FieldDie) (h : engQuiet f) : atIssue c body f = body f := by
  obtain ⟨-, h1, h2, h3, -, -, hr, -⟩ := h
  have h4 : ¬ seamSlot f.mer ≤ f.mer.slot := by omega
  simp [atIssue, engRuns, h1, h2, h4, repiCheck, hr]

/-- An instruction of one slot with a true condition, in a quiet engine: its effect, then the end of its slot. -/
theorem issue_quiet (c : Bool) (cond : BitVec 4) (eff : FieldDie → FieldDie) (f : FieldDie) (h : engQuiet f)
    (hc : condTrue f cond = true) (h0 : (eff f).eng.l0 = f.eng.l0) (h1 : (eff f).eng.l1 = f.eng.l1)
    (hr : (eff f).eng.repi = f.eng.repi) (hm : (eff f).mer = f.mer) :
    issue c 1 cond [] eff f = slotStep (nextIp (eff f)) := by
  have hg := inGhost_quiet f h
  unfold issue
  rw [atIssue_quiet c _ f h]
  obtain ⟨-, -, -, h3, g0, g1, gr, -⟩ := h
  simp only [hg, encFaults, List.foldl_nil, hc, if_true]
  rw [if_neg (by simp)]
  exact endIssue_one _ (by rw [h0]; exact g0) (by rw [h1]; exact g1) (by rw [hr]; exact gr) (by rw [hm]; exact h3)

/-- A format A instruction without bus operands, in a quiet engine. -/
theorem issueR_quiet (i : FmtA) (eff : FieldDie → FieldDie) (f : FieldDie) (h : engQuiet f) (hx : i.xop.toNat / 128 = 0)
    (hy : i.yop.toNat / 128 = 0) (hz : i.zop.toNat / 128 = 0)
    (hc : condTrue f i.cond = true) (h0 : (eff f).eng.l0 = f.eng.l0) (h1 : (eff f).eng.l1 = f.eng.l1)
    (hr : (eff f).eng.repi = f.eng.repi) (hm : (eff f).mer = f.mer) :
    issueR i true eff f = slotStep (nextIp (eff f)) := by
  have he : opsFault (ops3 i.xop i.yop i.zop [] [] []) = [] := by simp [opsFault, ops3, opUse, busOp, hx, hy, hz]
  have hp : ∀ g, opsMods (ops3 i.xop i.yop i.zop [] [] []) g = g := by
    intro g; simp [opsMods, ops3, opUse, busOp, hx, hy, hz, postMods]
  simp only [issueR, issueA, if_true, he, hp]
  exact issue_quiet false i.cond eff f h hc h0 h1 hr hm

/-- The next slot begins where the results `old` are not due in it and the results `new` are. -/
theorem slotStep_split (f : FieldDie) (old new : List Fly) (h : f.eng.fly = old ++ new) (ho : ∀ x ∈ old, f.mer.slot + 1 < x.due)
    (hn : ∀ x ∈ new, x.due ≤ f.mer.slot + 1) :
    slotStep f = applyDue f.eng new [] { f with eng := { f.eng with fly := old }, mer := { f.mer with slot := f.mer.slot + 1 } } := by
  have e1 : old.filter (fun x => decide (x.due ≤ f.mer.slot + 1)) = [] := by
    rw [List.filter_eq_nil_iff]; intro x hx; have := ho x hx; simp; omega
  have e2 : new.filter (fun x => decide (x.due ≤ f.mer.slot + 1)) = new := by
    rw [List.filter_eq_self]; intro x hx; have := hn x hx; simp; omega
  have e3 : old.filter (fun x => decide (f.mer.slot + 1 < x.due)) = old := by
    rw [List.filter_eq_self]; intro x hx; have := ho x hx; simp; omega
  have e4 : new.filter (fun x => decide (f.mer.slot + 1 < x.due)) = [] := by
    rw [List.filter_eq_nil_iff]; intro x hx; have := hn x hx; simp; omega
  simp [slotStep, h, e1, e2, e3, e4, List.filter_append]

/-- One register result that becomes visible. -/
theorem applyDue_one (pre : Eng) (d n k m v : Nat) (f : FieldDie) :
    applyDue pre [⟨d, n, .reg k m v⟩] [] f = { f with eng := putReg k m v f.eng } := rfl

/-- Two register results of different registers that become visible together. -/
theorem applyDue_two (pre : Eng) (d n k m v d' n' k' m' v' : Nat) (f : FieldDie) (h : k ≠ k') :
    applyDue pre [⟨d, n, .reg k m v⟩, ⟨d', n', .reg k' m' v'⟩] [] f = { f with eng := putReg k' m' v' (putReg k m v f.eng) } := by
  simp [applyDue, flyKeys, applyFly, Ne.symm h]

/-- The state after an instruction of one slot that writes registers with latency 1. -/
def regNext (f : FieldDie) (ws : List (Nat × Nat × Nat)) : FieldDie :=
  { f with eng := ws.foldl (fun e w => putReg w.1 w.2.1 w.2.2 e) { f.eng with ip := f.eng.ip + 1 },
           mer := { f.mer with slot := f.mer.slot + 1 } }

/-- A result with latency 1 and the flags with it, where the register is not FL. -/
theorem slotStep_result (f : FieldDie) (k n : Nat) (v : Int) (on : Bool) (r : Res) (h : engQuiet f) (hk : k ≠ 0x53) :
    slotStep (nextIp (pushFlags 1 on r (pushReg 1 k n v f))) =
    regNext f ((k, 2 ^ n - 1, wrapN n v) :: (if on then [(0x53, 0xF, flagsOf r)] else [])) := by
  obtain ⟨-, -, -, -, -, -, -, hf⟩ := h
  cases on
  · exact (slotStep_split (nextIp (pushFlags 1 false r (pushReg 1 k n v f))) f.eng.fly
      [⟨f.mer.slot + 1, f.mer.slot, .reg k (2 ^ n - 1) (wrapN n v)⟩] rfl hf (by simp [nextIp, pushFlags, pushReg])).trans rfl
  · refine (slotStep_split (nextIp (pushFlags 1 true r (pushReg 1 k n v f))) f.eng.fly [⟨f.mer.slot + 1, f.mer.slot, .reg k (2 ^ n - 1) (wrapN n v)⟩,
      ⟨f.mer.slot + 1, f.mer.slot, .reg 0x53 0xF (flagsOf r)⟩] (by simp [nextIp, pushFlags, pushReg]) hf
      (by simp [nextIp, pushFlags, pushReg])).trans ?_
    exact (applyDue_two _ _ _ _ _ _ _ _ _ _ _ _ hk).trans rfl

/-- The flags alone. -/
theorem slotStep_flags (f : FieldDie) (r : Res) (h : engQuiet f) :
    slotStep (nextIp (pushFlags 1 true r f)) = regNext f [(0x53, 0xF, flagsOf r)] := by
  obtain ⟨-, -, -, -, -, -, -, hf⟩ := h
  exact (slotStep_split (nextIp (pushFlags 1 true r f)) f.eng.fly [⟨f.mer.slot + 1, f.mer.slot, .reg 0x53 0xF (flagsOf r)⟩] rfl hf
    (by simp [nextIp, pushFlags])).trans rfl

end Sys2Proof.Machine
end

