-- ==== Sys2Proof/Laws/Memory.lean ====
section
/-! SUPPORT. Every operation that writes a bank or the Silt store keeps it in its canonical form, and what a written bank reads. -/

namespace Sys2Proof.Machine

/-- A property that a step of a fold keeps holds after the fold. -/
theorem foldl_keeps {α β : Type} (p : α → Prop) (f : α → β → α) (h : ∀ a b, p a → p (f a b)) (l : List β) (a : α) (ha : p a) :
    p (l.foldl f a) := by
  induction l generalizing a with
  | nil => exact ha
  | cons x l ih => exact ih _ (h _ _ ha)

theorem memWf_bankWrite (id : BankId) (b : Bank) (a : Nat) (v : List Byte) (h : memWf b.mem = true) : memWf (bankWrite id b a v).mem = true := by
  unfold bankWrite
  refine memWf_wrBytes _ _ _ (foldl_keeps (fun b : Bank => memWf b.mem = true) _ ?_ _ _ h)
  intro b c hb
  dsimp only
  split
  · exact hb
  · split
    · exact hb
    · exact foldl_keeps (fun m : Mem => memWf m = true) _ (fun m k hm => memWf_wr8 m k 0 hm) _ _ hb

theorem memWf_hostBank (d : Dies) (id : BankId) (h : Memory.wf d = true) : memWf (hostBank d.host id).mem = true := by
  simp only [Memory.wf, allBanks, List.all_cons, List.all_nil, Bool.and_true, Bool.and_eq_true] at h
  cases id <;> first | exact memWf_nil | simp only [hostBank, h]

theorem memWf_fieldBank (d : Dies) (id : BankId) (h : Memory.wf d = true) : memWf (fieldBank d.field id).mem = true := by
  simp only [Memory.wf, allBanks, List.all_cons, List.all_nil, Bool.and_true, Bool.and_eq_true] at h
  cases id <;> first | exact memWf_nil | simp only [fieldBank, h]

/-- A bank replaced by one in canonical form. -/
theorem wf_hostSetBank (d : Dies) (id : BankId) (b : Bank) (hb : memWf b.mem = true) (h : Memory.wf d = true) :
    Memory.wf { d with host := hostSetBank d.host id b } = true := by
  simp only [Memory.wf, allBanks, List.all_cons, List.all_nil, Bool.and_true, Bool.and_eq_true] at h ⊢
  cases id <;> simp only [hostSetBank, h, hb, and_self]

theorem wf_fieldSetBank (d : Dies) (id : BankId) (b : Bank) (hb : memWf b.mem = true) (h : Memory.wf d = true) :
    Memory.wf { d with field := fieldSetBank d.field id b } = true := by
  simp only [Memory.wf, allBanks, List.all_cons, List.all_nil, Bool.and_true, Bool.and_eq_true] at h ⊢
  cases id <;> simp only [fieldSetBank, h, hb, and_self]

/-- A write of bytes to a host bank, and one to a field bank. -/
theorem wf_hostWriteBank (d : Dies) (id : BankId) (a : Nat) (v : List Byte) (h : Memory.wf d = true) :
    Memory.wf { d with host := hostWriteBank d.host id a v } = true :=
  wf_hostSetBank d id _ (memWf_bankWrite id _ a v (memWf_hostBank d id h)) h

theorem wf_fieldWriteBank (d : Dies) (id : BankId) (a : Nat) (v : List Byte) (h : Memory.wf d = true) :
    Memory.wf { d with field := fieldWriteBank d.field id a v } = true :=
  wf_fieldSetBank d id _ (memWf_bankWrite id _ a v (memWf_fieldBank d id h)) h

/-- A write on the host bus. -/
theorem wf_hostBusWr (d : Dies) (a : Nat) (v : List Byte) (h : Memory.wf d = true) : Memory.wf { d with host := (hostBusWr d.host a v).1 } = true := by
  unfold hostBusWr
  split
  · exact h
  · exact wf_hostWriteBank d _ _ v h

/-- What an aborted march leaves. -/
theorem memWf_marchCut (id : BankId) (b : Bank) (e p : Nat) (h : memWf b.mem = true) : memWf (marchCut id b e p).mem = true := by
  unfold marchCut
  refine foldl_keeps (fun m : Mem => memWf m = true) _ (fun m k hm => ?_) _ _ h
  refine foldl_keeps (fun m : Mem => memWf m = true) _ (fun m j hj => ?_) _ _ hm
  dsimp only
  split
  · exact hj
  · exact memWf_wr8 m j _ hj

/-- Bytes written to the Silt store. -/
theorem memWf_dramPut (s : Silt) (a : Nat) (v : List Byte) (h : memWf s.dram = true) : memWf (dramPut s a v).dram = true := by
  unfold dramPut
  exact foldl_keeps (fun p : Mem × Nat => memWf p.1 = true) _ (fun p x hp => memWf_wr8 p.1 _ x hp) _ _ h

/-- A bank without a codeword in error takes the bytes written and changes nothing else. -/
theorem bankWrite_clean (id : BankId) (b : Bank) (a : Nat) (v : List Byte) (h : b.err = []) : bankWrite id b a v = { b with mem := wrBytes b.mem a v } := by
  have hb : ∀ l : List Nat, l.foldl (fun (b : Bank) c =>
      let st := tget 0 b.err c
      if st = 0 then b
      else
        let bs := cwBytes (layoutOf id) c
        let whole := bs.all (fun k => a ≤ k && k < a + v.length)
        let b := { b with err := tput 0 b.err c 0, wb := b.wb.filter (· ≠ c) }
        if st = 1 ∨ whole then b
        else { b with mem := bs.foldl (fun m k => wr8 m k 0) b.mem, cnt := ctrAdd b.cnt 2 1 }) b = b := by
    intro l
    induction l with
    | nil => rfl
    | cons c l ih => rw [List.foldl_cons]; simpa only [h, tget, if_true] using ih
  unfold bankWrite
  rw [hb]

/-- A bank written reads the bytes written where they went, and elsewhere what it read. -/
theorem rd8_bankWrite (id : BankId) (b : Bank) (a j : Nat) (v : List Byte) (h : b.err = []) :
    rd8 (bankWrite id b a v).mem j = rd8 (wrBytes b.mem a v) j := by rw [bankWrite_clean id b a v h]

/-- A host bank read after another was set, and after itself was. -/
theorem hostBank_set_other (h : HostDie) (i j : BankId) (b : Bank) (hij : i ≠ j) : hostBank (hostSetBank h i b) j = hostBank h j := by
  cases i <;> cases j <;> first | rfl | exact absurd rfl hij

theorem fieldBank_set_other (f : FieldDie) (i j : BankId) (b : Bank) (hij : i ≠ j) : fieldBank (fieldSetBank f i b) j = fieldBank f j := by
  cases i <;> cases j <;> first | rfl | exact absurd rfl hij

end Sys2Proof.Machine
end

