-- ==== Sys2Proof/Laws/Results.lean ====
section
/-! SUPPORT. What a data operation or an accumulator operation of the engine leaves, from its exact value: one lemma for each shape. -/

namespace Sys2Proof.Machine

theorem toInt_ofInt_fits (n : Nat) (x : Int) (hn : 0 < n) (h : fitsN n x = true) : (BitVec.ofInt n x).toInt = x := by
  obtain ⟨h1, h2⟩ := (fitsN_iff n x).1 h
  exact BitVec.toInt_ofInt_eq_self hn h1 h2

theorem tooBig_eq (n : Nat) (x : Int) : tooBig n x = !fitsN n x := by
  have := fitsN_iff n x
  unfold tooBig
  cases h : fitsN n x
  · simp only [h, Bool.false_eq_true, false_iff, not_and] at this
    simp; omega
  · simp only [h, true_iff] at this
    simp; omega

/-- The value of a result is that of the fitted bits. -/
theorem fitRes_val (n : Nat) (sat : Bool) (x : Int) (hn : 0 < n) : (fitRes n sat x).val = (fitted n sat x).toInt := by
  have hp : (0 : Int) < 2 ^ (n - 1) := Int.pow_pos (by decide)
  have hi := fitsN_iff n x
  unfold fitRes
  cases h : fitsN n x
  · simp only [h, Bool.false_eq_true, false_iff, not_and] at hi
    cases sat
    · simp [fitted, sextN_wrapN n x hn]
    · simp only [Bool.false_eq_true, if_false, if_true, fitted, satN, clampI]
      have hlo : fitsN n (-(2 : Int) ^ (n - 1)) = true := (fitsN_iff _ _).2 (by omega)
      have hhi : fitsN n ((2 : Int) ^ (n - 1) - 1) = true := (fitsN_iff _ _).2 (by omega)
      split
      · rw [toInt_ofInt_fits n _ hn hlo]
      · next h2 =>
        have h3 : (2 : Int) ^ (n - 1) ≤ x := by omega
        rw [if_pos (by omega), if_pos h3, toInt_ofInt_fits n _ hn hhi]
  · simp only [h, true_iff] at hi
    have e : fitted n sat x = BitVec.ofInt n x := by
      cases sat
      · simp [fitted]
      · simp only [fitted, if_true]; rw [if_neg (by omega), if_neg (by omega)]
    simp only [if_true, e, toInt_ofInt_fits n x hn h]

theorem fitRes_v (n : Nat) (sat : Bool) (x : Int) : (fitRes n sat x).v = tooBig n x := by
  rw [tooBig_eq]; unfold fitRes
  cases fitsN n x <;> cases sat <;> rfl

theorem fitRes_q (n : Nat) (sat : Bool) (x : Int) : (fitRes n sat x).q = (sat && tooBig n x) := by
  rw [tooBig_eq]; unfold fitRes
  cases fitsN n x <;> cases sat <;> rfl

theorem ofInt_toInt (n : Nat) (v : BitVec n) : BitVec.ofInt n v.toInt = v := by simp

/-- A value that fits is its own result. -/
theorem plain_eq_fit (n : Nat) (sat : Bool) (x : Int) (h : fitsN n x = true) : plainRes x = fitRes n sat x := by
  simp [plainRes, fitRes, h]

/-- Signed words fit. -/
theorem fitsN_toInt (v : W32) : fitsN 32 v.toInt = true := by
  have h1 := BitVec.le_toInt v
  have h2 := @BitVec.toInt_lt 32 v
  exact (fitsN_iff _ _).2 ⟨h1, h2⟩

theorem toInt_zero_iff (n : Nat) (v : BitVec n) : (v.toInt = 0) ↔ v = 0 := by
  constructor
  · intro h; have := ofInt_toInt n v; rw [h] at this; rw [← this]; simp
  · rintro rfl; simp

theorem toInt_neg_iff (n : Nat) (v : BitVec n) : decide (v.toInt < 0) = v.msb := by
  rw [BitVec.msb_eq_toInt]

/-- The registers that the state after one slot differs in. -/
theorem regNext_engReg (f : FieldDie) (ws : List (Nat × Nat × Nat)) (k : Nat) (h : ∀ w ∈ ws, k ≠ w.1) :
    engReg (regNext f ws).eng k = engReg f.eng k := by
  have key : ∀ (l : List (Nat × Nat × Nat)) (e : Eng), (∀ w ∈ l, k ≠ w.1) →
      engReg (l.foldl (fun e w => putReg w.1 w.2.1 w.2.2 e) e) k = engReg e k := by
    intro l
    induction l with
    | nil => intros; rfl
    | cons w l ih =>
      intro e hl
      rw [List.foldl_cons, ih _ (fun x hx => hl x (List.mem_cons_of_mem _ hx))]
      exact engReg_putReg_other _ _ _ _ _ (hl w (List.mem_cons_self ..))
  exact key ws _ h

/-- Plain registers alone are written. -/
theorem regNext_frame (f : FieldDie) (ws : List (Nat × Nat × Nat)) (h : ∀ w ∈ ws, plainKey w.1) :
    regNext f ws = { f with eng := { f.eng with regs := (regNext f ws).eng.regs, ip := f.eng.ip + 1 },
                            mer := { f.mer with slot := f.mer.slot + 1 } } := by
  have key : ∀ (l : List (Nat × Nat × Nat)) (e : Eng), (∀ w ∈ l, plainKey w.1) →
      l.foldl (fun e w => putReg w.1 w.2.1 w.2.2 e) e =
        { e with regs := (l.foldl (fun e w => putReg w.1 w.2.1 w.2.2 e) e).regs } := by
    intro l
    induction l with
    | nil => intros; rfl
    | cons w l ih =>
      intro e hl
      rw [List.foldl_cons]
      have h1 := ih (putReg w.1 w.2.1 w.2.2 e) (fun x hx => hl x (List.mem_cons_of_mem _ hx))
      rw [h1]
      simp only [putReg_plain _ _ _ e (hl w (List.mem_cons_self ..))]
  simp only [regNext]
  rw [key ws _ h]

/-- The frame of a state after one slot. -/
theorem oneSlot_regNext (s : State) (ws : List (Nat × Nat × Nat)) (ks : List Nat) (h : ∀ w ∈ ws, plainKey w.1)
    (hk : ∀ w ∈ ws, w.1 ∈ ks) : oneSlot s (s.setField (regNext s.dies.field ws)) ks := by
  refine ⟨?_, fun k hk' => ?_⟩
  · exact congrArg s.setField (regNext_frame _ ws h).symm
  · exact regNext_engReg _ _ _ (fun w hw he => hk' (he ▸ hk w hw))

/-- A data operation from its exact value. -/
theorem dataResult_regNext (s : State) (on sat : Bool) (n : Nat) (x : Int) (hn : n < 16) :
    dataResult s (s.setField (regNext s.dies.field ((n, 2 ^ 32 - 1, wrapN 32 (fitRes 32 sat x).val) ::
      (if on then [(0x53, 0xF, flagsOf (fitRes 32 sat x))] else [])))) on sat n x := by
  have hv := fitRes_val 32 sat x (by decide)
  have hd : ∀ e, dW (putReg n (2 ^ 32 - 1) (wrapN 32 (fitRes 32 sat x).val) e) n = fitted 32 sat x := by
    intro e; rw [dW_putReg n _ e hn, hv, ofInt_toInt]
  refine ⟨?_, ?_, ?_⟩
  · cases on
    · exact hd _
    · show dW (putReg 0x53 _ _ (putReg n _ _ _)) n = _
      rw [← hd { s.dies.field.eng with ip := s.dies.field.eng.ip + 1 }]
      simp only [dW, Nat.mod_eq_of_lt hn]
      rw [engReg_putReg_other _ _ _ _ _ (by omega)]
  · rintro rfl
    have h := flagsAre_putReg (fitRes 32 sat x) (putReg n (2 ^ 32 - 1) (wrapN 32 (fitRes 32 sat x).val)
      { s.dies.field.eng with ip := s.dies.field.eng.ip + 1 })
    have e1 : decide ((fitRes 32 sat x).val = 0) = decide (fitted 32 sat x = 0) := by rw [hv]; simp [toInt_zero_iff]
    have e2 : decide ((fitRes 32 sat x).val < 0) = (fitted 32 sat x).msb := by rw [hv]; exact toInt_neg_iff _ _
    rw [fitRes_v, fitRes_q, e1, e2] at h
    exact h
  · apply oneSlot_regNext
    · intro w hw
      cases on <;> simp at hw
      · subst hw; exact ⟨by show n ≠ _; omega, by show n ≠ _; omega, by show n ≠ _; omega⟩
      · rcases hw with rfl | rfl
        · exact ⟨by show n ≠ _; omega, by show n ≠ _; omega, by show n ≠ _; omega⟩
        · exact ⟨by show (0x53 : Nat) ≠ _; decide, by show (0x53 : Nat) ≠ _; decide, by show (0x53 : Nat) ≠ _; decide⟩
    · intro w hw
      cases on <;> simp at hw
      · subst hw; simp [withFl]
      · rcases hw with rfl | rfl <;> simp [withFl]

/-- An accumulator operation from its exact value. -/
theorem accResult_regNext (s : State) (on sat : Bool) (a : Nat) (x : Int) (ha : a < 8) :
    accResult s (s.setField (regNext s.dies.field ((0x30 + a, 2 ^ 72 - 1, wrapN 72 (fitRes 72 sat x).val) ::
      (if on then [(0x53, 0xF, flagsOf (fitRes 72 sat x))] else [])))) on sat a x := by
  have hv := fitRes_val 72 sat x (by decide)
  have hd : ∀ e, acI (putReg (0x30 + a) (2 ^ 72 - 1) (wrapN 72 (fitRes 72 sat x).val) e) a = (fitted 72 sat x).toInt := by
    intro e; rw [acI_putReg a _ e ha, hv, ofInt_toInt]
  refine ⟨?_, ?_, ?_⟩
  · cases on
    · exact hd _
    · show acI (putReg 0x53 _ _ (putReg (0x30 + a) _ _ _)) a = _
      rw [← hd { s.dies.field.eng with ip := s.dies.field.eng.ip + 1 }]
      simp only [acI, Nat.mod_eq_of_lt ha]
      rw [engReg_putReg_other _ _ _ _ _ (by omega)]
  · rintro rfl
    have h := flagsAre_putReg (fitRes 72 sat x) (putReg (0x30 + a) (2 ^ 72 - 1) (wrapN 72 (fitRes 72 sat x).val)
      { s.dies.field.eng with ip := s.dies.field.eng.ip + 1 })
    have e1 : decide ((fitRes 72 sat x).val = 0) = decide (fitted 72 sat x = 0) := by rw [hv]; simp [toInt_zero_iff]
    have e2 : decide ((fitRes 72 sat x).val < 0) = (fitted 72 sat x).msb := by rw [hv]; exact toInt_neg_iff _ _
    rw [fitRes_v, fitRes_q, e1, e2] at h
    exact h
  · apply oneSlot_regNext
    · intro w hw
      cases on <;> simp at hw
      · subst hw; exact ⟨by show 0x30 + a ≠ _; omega, by show 0x30 + a ≠ _; omega, by show 0x30 + a ≠ _; omega⟩
      · rcases hw with rfl | rfl
        · exact ⟨by show 0x30 + a ≠ _; omega, by show 0x30 + a ≠ _; omega, by show 0x30 + a ≠ _; omega⟩
        · exact ⟨by show (0x53 : Nat) ≠ _; decide, by show (0x53 : Nat) ≠ _; decide, by show (0x53 : Nat) ≠ _; decide⟩
    · intro w hw
      cases on <;> simp at hw
      · subst hw; simp [withFl]
      · rcases hw with rfl | rfl <;> simp [withFl]

end Sys2Proof.Machine
end

