-- ==== Sys2Proof/Laws/Weir.lean ====
section
/-! SUPPORT. Receptions across the Weir: what an accepted message does to the bridge before its own effect. -/

namespace Sys2Proof.Machine

/-- A bridge replaced by itself changes nothing. -/
theorem weirSet_same (d : Side) (s : State) : weirSet d (comOf d s.dies).weir s = s := by cases d <;> rfl

/-- The dies after a change of the bridge of a side that runs. -/
theorem onCom_weir (d : Side) (w : Weir) (s : State) (h : (comOf d s.dies).runs = true) :
    onCom d (fun c => { c with weir := w }) s.dies = (weirSet d w s).dies := by
  cases d <;> simp_all [onCom, onHost, onField, comOf, weirSet, State.setHost, State.setField]

/-- The sides still run once a bridge has been changed. -/
theorem weirSet_runs (d e : Side) (w : Weir) (s : State) : (comOf e (weirSet d w s).dies).runs = (comOf e s.dies).runs := by
  cases d <;> cases e <;> rfl

/-- An accepted message of a credited class: accounted, then its effect. -/
theorem rxCom_credited (d : Side) (k : WClass) (type : Nat) (m : WRx) (ok : Bool) (act : Dies → Dies) (s : State)
    (h : accepted d type m ok s) (hk : wClassOf type = some k) : rxCom d type m ok act s.dies = act (took d k s).dies := by
  obtain ⟨h1, h2, h3⟩ := h
  unfold rxCom
  simp only [h1, h2, Bool.and_self, if_true, wReceive, h3, hk]
  rw [onCom_weir d _ s h1]
  rfl

/-- An accepted message of no class: its effect alone. -/
theorem rxCom_free (d : Side) (type : Nat) (m : WRx) (ok : Bool) (act : Dies → Dies) (s : State)
    (h : accepted d type m ok s) (hk : wClassOf type = none) : rxCom d type m ok act s.dies = act s.dies := by
  obtain ⟨h1, h2, h3⟩ := h
  unfold rxCom
  simp only [h1, h2, Bool.and_self, if_true, wReceive, h3, hk]
  rw [onCom_weir d _ s h1, weirSet_same]

/-- The field side's reception of a credited message. -/
theorem rxField_credited (k : WClass) (type : Nat) (m : WRx) (ok : Bool) (act : FieldDie → FieldDie) (s : State)
    (h : accepted .field type m ok s) (hk : wClassOf type = some k) :
    rxField type m ok .field act s.dies = { (took .field k s).dies with field := act (took .field k s).dies.field } := by
  unfold rxField
  rw [rxCom_credited .field k type m ok _ s h hk]
  have r : (took .field k s).dies.field.com.runs = true := h.1
  simp only [if_true, onField, r]

/-- The field side's reception of a message of no class. -/
theorem rxField_free (type : Nat) (m : WRx) (ok : Bool) (act : FieldDie → FieldDie) (s : State)
    (h : accepted .field type m ok s) (hk : wClassOf type = none) :
    rxField type m ok .field act s.dies = { s.dies with field := act s.dies.field } := by
  unfold rxField
  rw [rxCom_free .field type m ok _ s h hk]
  simp only [if_true, onField]
  rw [if_pos (by simpa [comOf] using h.1)]

/-- The host side's reception of a credited message. -/
theorem rxHost_credited (k : WClass) (type : Nat) (m : WRx) (ok : Bool) (act : HostDie → HostDie) (s : State)
    (h : accepted .host type m ok s) (hk : wClassOf type = some k) :
    rxHost type m ok .host act s.dies = { (took .host k s).dies with host := act (took .host k s).dies.host } := by
  unfold rxHost
  rw [rxCom_credited .host k type m ok _ s h hk]
  have r : (took .host k s).dies.host.com.runs = true := h.1
  simp only [if_true, onHost, r]

/-- What `took` leaves: everything but the bridge of its side. -/
theorem took_field (k : WClass) (s : State) :
    took .field k s = s.setField { s.dies.field with com := { s.dies.field.com with weir := (took .field k s).dies.field.com.weir } } := rfl

@[simp] theorem took_pending (d : Side) (k : WClass) (s : State) : (took d k s).pending = s.pending := by cases d <;> rfl

theorem took_host (k : WClass) (s : State) :
    took .host k s = s.setHost { s.dies.host with com := { s.dies.host.com with weir := (took .host k s).dies.host.com.weir } } := rfl

end Sys2Proof.Machine
end

