-- ==== Sys2Proof/Tests/Slice0.lean ====
section
/-! SUPPORT. Tests of single steps, of decoding and of well-formedness; for each statement with hypotheses, a state and operands that meet them. -/

namespace Sys2Proof.Tests

open Sys2Proof Sys2Proof.Machine

/-! ### States of the tests -/

/-- The block after reset with another field die, or another host die. -/
def fieldIs (g : FieldDie → FieldDie) : State := State.reset.setField (g State.reset.dies.field)
def hostIs (g : HostDie → HostDie) : State := State.reset.setHost (g State.reset.dies.host)

/-- A pass runs, the engine in slot `n`. -/
def passAt (n : Nat) : Mer := { mer0 with running := true, slot := n }

/-- The block in slot `n` of a pass with registers of the engine by code. -/
def inPass (n : Nat) (regs : Tbl Nat) : State := fieldIs (fun f => { f with mer := passAt n, eng := { eng0 with regs := regs } })

/-- Format A operands: the fields F, SAT, ACD, RA, RB, SUB, SHIFT. -/
def fa (f sat : BitVec 1) (acd : BitVec 3) (ra rb : BitVec 4) (sub : BitVec 5) (shift : BitVec 4) : FmtA :=
  ⟨0, f, sat, 0, 0, acd, ra, rb, 0, 0, 0, sub, shift, 0⟩

/-- Format A operands with bus operands X, Y, Z. -/
def fx (x y z : BitVec 9) (sub : BitVec 5) : FmtA := ⟨0, 1, 1, 0, 0, 1, 2, 3, x, y, z, sub, 0, 0⟩

/-- Format B operands: register code and immediate. -/
def fb (reg : BitVec 7) (imm : W32) : FmtB := ⟨0, reg, 0, 0, imm⟩

/-- Format C operands: BLEN, CACHE, SPAN, CHAN, COUNT, BUDGET. -/
def fc (blen : BitVec 8) (cache span chan : BitVec 1) (count : BitVec 16) (budget : BitVec 12) : FmtC :=
  ⟨0, blen, cache, span, chan, 0, 0, 0, count, budget, 0⟩

/-- A message of a type as it arrives, with the right length and CRC. -/
def msg (type : Nat) (payload : List W32) : WRx :=
  { (⟨BitVec.ofNat 12 payload.length, 0, 0, payload, 0, false⟩ : WRx) with
    crc := wCrc type ⟨BitVec.ofNat 12 payload.length, 0, 0, payload, 0, false⟩ }

/-- Whether such a message is accepted: it has its CRC, so only the later rows of R19 can drop it. -/
def takes (d : Side) (t : Nat) (p : List W32) (ok : Bool) (s : State) : Bool :=
  let n := (BitVec.ofNat 12 p.length).toNat
  (comOf d s.dies).runs && (wEnabled (comOf d s.dies).weir && (decide (t < 14) && (decide (n ≤ wMaxLen t) && (decide (n = p.length) &&
    (wDirOk d t && match wClassOf t with
      | none => true
      | some k => decide ((comOf d s.dies).weir.held.get k < wBuffers k) && ok)))))

theorem accepted_msg (d : Side) (t : Nat) (p : List W32) (ok : Bool) (s : State) : accepted d t (msg t p) ok s ↔ takes d t p ok s = true := by
  have hc : ¬((msg t p).viol = true ∨ (msg t p).crc ≠ wCrc t (msg t p)) := fun h => h.elim (fun h => Bool.noConfusion h) (fun h => h rfl)
  have hl : (msg t p).len = BitVec.ofNat 12 p.length := rfl
  have hp : (msg t p).payload = p := rfl
  unfold accepted takes wDrop
  rw [if_neg hc, hl, hp]
  simp only [Bool.and_eq_true, decide_eq_true_eq]
  refine and_congr_right fun _ => and_congr_right fun _ => ?_
  by_cases h1 : 14 ≤ t
  · rw [if_pos h1]; exact iff_of_false (by simp) (fun h => absurd h.1 (by omega))
  by_cases h2 : wMaxLen t < (BitVec.ofNat 12 p.length).toNat ∨ (BitVec.ofNat 12 p.length).toNat ≠ p.length
  · rw [if_neg h1, if_pos h2]
    refine iff_of_false (by simp) ?_
    rintro ⟨-, h3, h4, -⟩
    rcases h2 with h2 | h2
    · omega
    · exact h2 h4
  rw [if_neg h1, if_neg h2]
  have h3 : t < 14 ∧ (BitVec.ofNat 12 p.length).toNat ≤ wMaxLen t ∧ (BitVec.ofNat 12 p.length).toNat = p.length := by
    refine ⟨by omega, by omega, by omega⟩
  cases hd : wDirOk d t
  · simp
  · rw [if_neg (by simp)]
    rw [and_iff_right h3.1, and_iff_right h3.2.1, and_iff_right h3.2.2, and_iff_right rfl]
    cases wClassOf t with
    | none => simp
    | some k =>
      show (if wBuffers k ≤ (comOf d s.dies).weir.held.get k then some 3 else if ok = true then none else some 2) = none ↔ _
      by_cases h4 : wBuffers k ≤ (comOf d s.dies).weir.held.get k
      · rw [if_pos h4]; simp; omega
      · rw [if_neg h4]; cases ok <;> simp; omega

/-- The bridge of the host side in a state with another Weir. -/
def hostWeir (g : Weir → Weir) : State := hostIs (fun h => { h with com := { h.com with weir := g h.com.weir } })

/-! ### The hypotheses of the engine's statements are met -/

theorem witness_DataOperations :
    (wbits 0x0440000000000240 54 6 = 0x11 ∧ 8 < wbits 0x0440000000000240 6 5) ∧ engQuiet (inPass 100 [(2, 5), (3, 7)]).dies.field ∧
      noOperands (fa 1 1 1 2 3 0 4) ∧ condTrue (inPass 100 [(2, 5), (3, 7)]).dies.field 0 = true := by
  simp only [engQuiet, noOperands]; decide

/-- NORM of 0 counts 71 and 31 bits, of 4000_0000h none. -/
theorem witness_NormConvertClamp :
    let f := (inPass 100 [(3, 0x40000000)]).dies.field
    let ac := BitVec.ofInt 72 (acI f.eng 1)
    engQuiet f ∧ noOperands (fa 1 1 1 2 3 0 0) ∧ condTrue f 0 = true ∧ (∀ k, k < 71 → ac.getLsbD (70 - k) = ac.msb) ∧
      (∀ k, k < 31 → (dW f.eng 2).getLsbD (30 - k) = (dW f.eng 2).msb) ∧ (dW f.eng 3).getLsbD 30 ≠ (dW f.eng 3).msb := by
  simp only [engQuiet, noOperands]; decide

theorem witness_FloatConversions :
    let f := (inPass 100 [(1, 0x7F7FFFFF), (2, 0xFF800000), (3, 0x7F800001)]).dies.field
    let w (k : Nat) : Nat := (dW f.eng k).toNat
    engQuiet f ∧ noOperands (fa 1 1 1 2 3 0 0) ∧ condTrue f 0 = true ∧ w 1 / 2 ^ 23 % 256 = 254 ∧
      (w 2 / 2 ^ 23 % 256 = 255 ∧ w 2 % 2 ^ 23 = 0) ∧ (w 3 / 2 ^ 23 % 256 = 255 ∧ w 3 % 2 ^ 23 ≠ 0) ∧ (dW f.eng 0).toInt = 0 := by
  simp only [engQuiet, noOperands]; decide

theorem witness_AccumulatorOperations :
    (wbits 0x0400000000000280 54 6 = 0x10 ∧ 0x0A ≤ wbits 0x0400000000000280 6 5) ∧ engQuiet (inPass 0 []).dies.field ∧
      noOperands (fa 1 1 1 2 3 3 15) ∧ (fa 1 1 1 2 3 3 15).sub.toNat < 4 ∧ condTrue (inPass 0 []).dies.field 0 = true := by
  simp only [engQuiet, noOperands]; decide

/-- The last slot in which a product still becomes visible before the seam. -/
theorem witness_ProductsVisibleAfterThreeSlots :
    let s := inPass 25581 [(2, 5)]
    engQuiet s.dies.field ∧ s.dies.field.eng.fly = [] ∧ s.dies.field.mer.slot + 2 < seamSlot s.dies.field.mer ∧ noOperands (fa 1 1 1 2 3 1 0) ∧
      (fa 1 1 1 2 3 1 0).sub.toNat < 2 ∧ condTrue s.dies.field 0 = true := by
  simp only [engQuiet, noOperands]; decide

/-- X and Y operands of one pointer with modes 1; a Z operand beyond the windows; the pair of TAPC; TAP's write one word up. -/
theorem witness_MultipliesFromBuses :
    let f := (inPass 100 [(0x28, 0x1000), (0x29, 0x2001), (0x2A, 0x8000)]).dies.field
    let i := fx 0x82 0x82 0 1
    let z := fx 0 0 0xA1 0
    let c := fx 0x180 0x190 0 0
    engQuiet f ∧ cleanField f ∧ condTrue f 0 = true ∧ i.sub.toNat < 2 ∧ liveRead 0 (busOp i.xop) ∧ liveRead 1 (busOp i.yop) ∧ (busOp i.zop).acc = 0 ∧
      opAddr f.eng 0 (busOp i.xop) (modAdd f.eng true 0 (opOffset f.eng (busOp i.xop)) 1) % 2 ≠ opWordAt f.eng 0 (busOp i.xop) % 2 ∧
      liveRead 2 (busOp z.zop) ∧ noWindow f (busOp z.zop) ∧ opWordAt f.eng 2 (busOp z.zop) = 0x28000 ∧
      (busOp c.xop).acc = 3 ∧ (busOp c.xop).mode ≠ 7 ∧ (busOp c.xop).special = false ∧ (busOp c.yop).acc = 3 ∧ (busOp c.yop).special = false ∧ c.sub = 0 ∧
      opAddr f.eng 0 (busOp c.xop) (modAdd f.eng false 0 (opOffset f.eng (busOp c.xop)) 1) % 2 ≠ opWordAt f.eng 0 (busOp c.xop) % 2 ∧
      opAddr f.eng 1 (busOp c.yop) (modAdd f.eng false 1 (opOffset f.eng (busOp c.yop)) 1) % 2 ≠ opWordAt f.eng 1 (busOp c.yop) % 2 := by
  simp only [engQuiet, cleanField, liveRead, noWindow]; decide

theorem witness_Extractions :
    let f := (inPass 100 [(0x31, 5)]).dies.field
    let i := fx 0x102 0 0x100 1
    engQuiet f ∧ i.sub.toNat < 2 ∧ i.ofmt ≠ 3 ∧ condTrue f 0 = true ∧ noOperands (fa 1 1 1 2 3 0 15) ∧ ([0, 2] : List Nat) ⊆ [0, 1, 2] ∧ [0, 2].Nodup ∧
      [0, 2].Pairwise (· < ·) ∧ ∀ b, b < 3 → if b ∈ [0, 2] then liveWrite b (busOp (if b = 0 then i.xop else if b = 1 then i.yop else i.zop))
        else (busOp (if b = 0 then i.xop else if b = 1 then i.yop else i.zop)).acc = 0 := by
  simp only [engQuiet, noOperands, liveWrite]; decide

/-- MOVR from D3 to AX0, and as a data operation into D15; OPI on a data register, on MY and on the read-only code 55h. -/
theorem witness_RegisterMoves :
    let f := (inPass 100 [(3, 9)]).dies.field
    let m : FmtM := ⟨0, 3 * 2 ^ 31 + 0x10 * 2 ^ 22⟩
    let d : FmtM := ⟨0, 2 ^ 53 + 3 * 2 ^ 31 + 15 * 2 ^ 22⟩
    let fl : FmtM := ⟨0, 2 ^ 53 + 0x55 * 2 ^ 31 + 0x53 * 2 ^ 22⟩
    let ro : FmtM := ⟨0, 2 ^ 53 + 3 * 2 ^ 31 + 0x55 * 2 ^ 22⟩
    engQuiet f ∧ condTrue f 0 = true ∧
      (movBits m 53 53 = 0 ∧ movBits m 30 29 = 0 ∧ movBits m 21 20 = 0 ∧ movBits m 19 18 = 0 ∧ movBits m 10 6 = 0 ∧ codeWritable (movBits m 28 22) = true ∧
        codeRead f (movBits m 37 31) = some 9 ∧ codeTarget f.eng (movBits m 28 22) 9 = some [(0x10, 0x1FFFF, 9)] ∧ codeLat (movBits m 28 22) = 2) ∧
      (movBits d 53 53 = 1 ∧ movBits d 28 22 < 16 ∧ movBits d 30 29 = 0 ∧ movBits d 21 20 = 0 ∧ movBits d 19 18 = 0 ∧ movBits d 10 6 = 0 ∧
        codeRead f (movBits d 37 31) = some 9) ∧
      codeWritable (fb 0x55 1).reg.toNat = false ∧ codeWritable (fb 0x6B 1).reg.toNat = true ∧ codeRead f 0x6B = some 0 ∧ codeLat 0x6B = 1 ∧
      codeTarget f.eng 0x6B 1 = some [(0x6A, 0xFFFFFFFF * 2 ^ 32, 1 * 2 ^ 32)] ∧ movBits fl 53 53 = 1 ∧ movBits fl 28 22 = 0x53 ∧ movBits fl 30 29 = 0 ∧
      movBits fl 21 20 = 0 ∧ movBits fl 19 18 = 0 ∧ movBits fl 10 6 = 0 ∧ codeRead f (movBits fl 37 31) = none ∧
      movBits ro 53 53 = 1 ∧ codeWritable (movBits ro 28 22) = false ∧ movBits ro 30 29 = 0 ∧ movBits ro 21 20 = 0 ∧ movBits ro 19 18 = 0 ∧ movBits ro 10 6 = 0 := by
  simp only [engQuiet]; decide

theorem witness_ImmediateAccesses :
    let f := (inPass 100 []).dies.field
    engQuiet f ∧ cleanField f ∧ condTrue f 0 = true ∧ (fb 15 0x3FFFF).iop = 0 ∧ (fb 15 0x3FFFF).rsv = 0 ∧ (fb 15 0x3FFFF).imm.toNat < 2 ^ 18 ∧
      (fb 15 0x3FFFF).reg.toNat < 16 ∧ 0x28000 ≤ (fb 15 0x3FFFF).imm.toNat ∧ codeRead f 0x6D = some 0 ∧ 0x10 ≤ (fb 0x17 0x1FFFF).reg.toNat ∧
      (fb 0x17 0x1FFFF).reg.toNat < 0x18 ∧ (fb 0x17 0x1FFFF).imm.toNat < 2 ^ 17 := by
  simp only [engQuiet, cleanField]; decide

theorem witness_StoredWordIsReadBack :
    let s := inPass 25582 [(2, 5)]
    engQuiet s.dies.field ∧ s.dies.field.eng.fly = [] ∧ s.dies.field.mer.slot + 1 < seamSlot s.dies.field.mer ∧ cleanField s.dies.field ∧
      condTrue s.dies.field 0 = true ∧ (fb 2 512).iop = 0 ∧ (fb 2 512).rsv = 0 ∧ 512 ≤ (fb 2 512).imm.toNat ∧ (fb 2 512).imm.toNat < 2 ^ 17 ∧
      codeRead s.dies.field (fb 2 512).reg.toNat = some 5 := by
  simp only [engQuiet, cleanField]; decide

/-- One operand on each bus alone, a move from X to Z, and one from Y to X. -/
theorem witness_BusMovesAndAtomics :
    let f := (inPass 100 [(0x28, 0x1000)]).dies.field
    let op (i : FmtA) (b : Nat) : BusOp := busOp (if b = 0 then i.xop else if b = 1 then i.yop else i.zop)
    let m := fx 0x82 0 0x100 8
    let n := fx 0x100 0x80 0 1
    engQuiet f ∧ cleanField f ∧ condTrue f 0 = true ∧
      (∀ b, b < 3 → liveRead b (op (if b = 0 then fx 0x80 0 0 0 else if b = 1 then fx 0 0x80 0 1 else fx 0 0 0x80 2) b) ∧
        liveWrite b (op (if b = 0 then fx 0x100 0 0 0 else if b = 1 then fx 0 0x100 0 0 else fx 0 0 0x100 0) b)) ∧
      noWindow f (op (fx 0 0 0x80 2) 2) ∧
      (m.sub.toNat = 0 + 4 * 2 ∧ liveRead 0 (op m 0) ∧ liveWrite 2 (op m 2) ∧ (op m (3 - 0 - 2)).acc = 0) ∧
      (n.sub.toNat = 1 + 4 * 0 ∧ liveRead 1 (op n 1) ∧ liveWrite 0 (op n 0) ∧ (op n (3 - 1 - 0)).acc = 0) := by
  simp only [engQuiet, cleanField, liveRead, liveWrite, noWindow]; decide

/-- A plain repeat, one with count 0, a cached one of 16 instructions, a SPAN one whose budget is its body, a channel one that just fits the pass. -/
theorem witness_RepeatsBegin :
    let f := (inPass 25578 []).dies.field
    let ok (i : FmtC) : Prop := condTrue f i.cond = true ∧ i.csrc = 0 ∧ i.creg = 0 ∧ i.rsv = 0
    let plain := fc 255 0 0 0 65535 0
    let none' := fc 255 0 0 0 0 0
    let cached := fc 9 1 0 0 1 0
    let span := fc 15 0 1 0 1 16
    let chan := fc 0 0 0 1 1 0
    engQuiet f ∧ f.eng.fly = [] ∧ cleanField f ∧ ok plain ∧ ok none' ∧ ok cached ∧ ok span ∧ ok chan ∧ ok (fc 0 0 0 0 1 0) ∧
      0 < plain.count.toNat ∧ none'.count.toNat = 0 ∧ cached.blen.toNat + 1 ≤ 16 ∧ f.mer.slot + (cached.blen.toNat + 1 + 1) / 2 < seamSlot f.mer ∧
      isFmtC (progWord f (f.eng.ip + 1)) = false ∧ span.blen.toNat + 1 ≤ span.budget.toNat ∧ f.eng.spanAct = false ∧ f.mer.slot + 6 ≤ seamSlot f.mer := by
  simp only [engQuiet, cleanField]; decide

theorem witness_RepeatsRunTheirCount :
    let at' (n r : Nat) : State := fieldIs (fun f => { f with
      mer := passAt 100, eng := { eng0 with ip := 7, l0 := { level0 with act := true, start := 5, stop := n, rpc := r } } })
    let ok (s : State) : Prop :=
      let f := s.dies.field
      f.com.runs = true ∧ f.mer.running = true ∧ f.mer.seamDone = false ∧ f.mer.slot < seamSlot f.mer ∧ f.eng.fly = [] ∧ f.eng.repi = none ∧
        lvlLive f.eng.l1 = false ∧ f.eng.l0.act = true ∧ f.eng.l0.ghost = false ∧ f.eng.l0.chan = false ∧ f.eng.l0.span = false
    let atEnd (s : State) : Prop := s.dies.field.eng.l0.stop = s.dies.field.eng.ip
    (ok (at' 7 2) ∧ atEnd (at' 7 2) ∧ 1 < (at' 7 2).dies.field.eng.l0.rpc) ∧ (ok (at' 7 1) ∧ atEnd (at' 7 1) ∧ (at' 7 1).dies.field.eng.l0.rpc ≤ 1) ∧
      ok (at' 8 1) ∧ ¬ atEnd (at' 8 1) := by
  decide

theorem witness_ContextsLoadAndStore :
    let f := (inPass 25578 [(0x52, 0x1FFF7)]).dies.field
    engQuiet f ∧ f.eng.fly = [] ∧ f.mer.slot + 5 < seamSlot f.mer ∧ cleanField f ∧ condTrue f 0 = true ∧ ctlUnused (fc 0 0 0 0 0 0) false false = [] ∧
      512 ≤ engReg f.eng 0x52 ∧ engReg f.eng 0x52 + 9 ≤ 2 ^ 17 := by
  simp only [engQuiet, cleanField]; decide

theorem witness_ControlRows :
    let f := (inPass 100 []).dies.field
    engQuiet f ∧ condTrue f 0 = true ∧ ctlUnused (fc 0 0 0 0 0 0) false false = [] ∧ ctlUnused (fc 0 0 0 0 9 0) true false = [] ∧
      ctlUnused (fc 0 0 0 0 9 7) true true = [] ∧ f.eng.fly = [] ∧ f.mer.slot + max 1 9 ≤ seamSlot f.mer ∧ f.eng.evtQ.length < 16 ∧
      bit f.silt.cap.ctl 3 = false ∧ 16 ≤ ({ f.eng with evtQ := List.replicate 16 (1, 2) } : Eng).evtQ.length := by
  simp only [engQuiet]; decide

/-- One control word that adds RA and RB into the register of UIMM's last select. -/
theorem witness_UserInstructionAdds :
    let f := (fieldIs (fun f => { f with mer := passAt 100, eng := { eng0 with regs := [(2, 5), (3, 7)], dtAct := [(1, 0xC2200000), (2, 0x28)] } })).dies.field
    let w := ctlWord f.eng.dtAct 0 0
    engQuiet f ∧ condTrue f 0 = true ∧ ulenOf f.eng.ulenAct 0 = 1 ∧ ctlOk w = true ∧ nfld w 1 0 = 0 ∧ nfld w 8 7 = 0 ∧ nfld w 15 14 = 0 ∧
      nfld w 23 21 = 0 ∧ nfld w 38 36 = 0 ∧ nfld w 56 53 = 1 ∧ nfld w 61 57 = 1 ∧ nfld w 66 62 = 3 ∧ nfld w 71 67 = 5 := by
  simp only [engQuiet]; decide

/-- Condition 1 asks for Z, which is 0. -/
theorem witness_FalseConditionChangesNothing :
    let f := (inPass 100 []).dies.field
    engQuiet f ∧ condTrue f 1 = false ∧ noOperands (fa 1 1 1 2 3 0 4) ∧ (fa 1 1 1 2 3 0 4).sub = 0 ∧ (fb 15 0x1FFFF).reg.toNat < 16 ∧
      (fb 15 0x1FFFF).imm.toNat < 2 ^ 17 ∧ ctlUnused (fc 0 0 0 0 0 0) false false = [] := by
  simp only [engQuiet, noOperands]; decide

theorem witness_UnusedOperandsAndOverruns :
    let f := (inPass 25584 []).dies.field
    (engQuiet (inPass 100 []).dies.field ∧ ¬ noOperands (fx 0x80 0 0 0)) ∧
      f.com.runs = true ∧ f.mer.running = true ∧ f.mer.seamDone = false ∧ seamSlot f.mer ≤ f.mer.slot := by
  simp only [engQuiet, noOperands]; decide

theorem witness_EventQueueAndDecodeTable :
    let f := (fieldIs (fun f => { f with eng := { eng0 with evtQ := [(7, 3), (8, 4)], evtOvf := true } })).dies.field
    f.com.runs = true ∧ f.eng.evtQ = (7, 3) :: [(8, 4)] ∧ (bit (2 : W32) 1 = true ∧ bit (2 : W32) 0 = false ∧ bit (2 : W32) 2 = false ∧ bit (2 : W32) 3 = false) ∧
      f.mer.running = false ∧ (inPass 100 []).dies.field.mer.running = true ∧ engQuiet (inPass 100 []).dies.field ∧
      ctlUnused (fc 0 0 0 0 9 0) true false = [] := by
  simp only [engQuiet]; decide

/-- A product, a repeat and a user instruction are commands with words of their own. -/
theorem witness_EngineWordsRoundTrip :
    (encodeMeridian (.mac (fx 0x82 0 0x100 1))).isSome = true ∧ (encodeMeridian (.rpt (fc 3 0 0 0 9 0))).isSome = true ∧
      (encodeMeridian (.userInstruction ⟨0, 1, 0, 9, 2, 0, 0, 0, 0⟩)).isSome = true := by decide
/-! ### Power, the Weir, messages -/

theorem witness_PowerAndReleaseOfEachSide :
    let h := (hostIs (fun h => { h with com := { h.com with por := true } })).dies.host
    let f := (fieldIs (fun f => { f with com := { f.com with por := true } })).dies.field
    (h.com.supply = true ∧ h.com.por = true ∧ lcOf h.com.fuses < 4 ∧ h.com.fuses.wiped = false ∧ h.boot.repairs = []) ∧
      (f.com.supply = true ∧ f.com.por = true) ∧ State.reset.dies.host.com.runs = true ∧ State.reset.dies.field.com.runs = true := by decide

theorem witness_KeyedResets :
    let h := State.reset.dies.host
    let f := State.reset.dies.field
    h.com.runs = true ∧ f.com.runs = true ∧ (fld 0xA5C30001 31 16 = 0xA5C3 ∧ bit 0xA5C30001 0 = true ∧ bit 0xA5C30001 1 = false) ∧
      (bit 0xA5C30002 0 = false ∧ bit 0xA5C30002 1 = true ∧ fld 0xA5C30002 31 16 = 0xA5C3) ∧ fld 0x5AC30003 31 16 ≠ 0xA5C3 ∧
      (∀ n, (dmaQ h.com.dma n).en = false ∧ (dmaQ h.com.dma n).pidx = (dmaQ h.com.dma n).didx) ∧
      (∀ n, (dmaQ f.com.dma n).en = false ∧ (dmaQ f.com.dma n).pidx = (dmaQ f.com.dma n).didx) ∧
      (lcHost h < 4 ∧ lcFieldIn f ≠ 4 ∧ h.com.fuses.wiped = false ∧ h.boot.repairs = [] ∧ (sourceOrder h).head? ≠ some 2) :=
  ⟨by decide, by decide, by decide, by decide, by decide, fun _ => ⟨rfl, rfl⟩, fun _ => ⟨rfl, rfl⟩, by decide⟩

theorem witness_EngineReset :
    let held (c : W32) (k : Option Mark) : FieldDie :=
      (fieldIs (fun f => { f with erHeld := true, mer := { mer0 with ctrl := c, mark := k } })).dies.field
    (fld 0xA5C30002 31 16 = 0xA5C3 ∧ bit 0xA5C30002 1 = true) ∧ (inPass 100 []).dies.field.mer.running = true ∧
      State.reset.dies.field.mer.running = false ∧
      (fieldIs (fun f => { f with erReq := true, mer := { mer0 with seamDone := true } })).dies.field.erReq = true ∧
      (bit (held 0x128 none).mer.ctrl 0 = false) ∧ (bit (held 0x12B none).mer.ctrl 0 = true ∧ fld (held 0x12B none).mer.ctrl 2 1 ≠ 0) ∧
      (bit (held 0x129 none).mer.ctrl 0 = true ∧ fld (held 0x129 none).mer.ctrl 2 1 = 0 ∧ markHeld (held 0x129 none).mer = false ∧
        markHeld (held 0x129 (some ⟨0, 5, [], 4, 1⟩)).mer = true) := by decide

/-- Both bridges enabled and in bring-up; a credited and an uncredited message that can start; the last buffer; a class that a RESYNC has stopped. -/
theorem witness_WeirSends :
    let up := hostWeir (fun w => { w with linkUp := true, queue := [⟨3, 0, 0, [1, 2]⟩], held := ⟨0, 1, 0, 0⟩, stopped := [.i] })
    let w := up.dies.host.com.weir
    let both := { up with dies := { up.dies with
      host := { up.dies.host with com := { up.dies.host.com with weir := { weir0 with bringUp := true } } },
      field := { up.dies.field with com := { up.dies.field.com with weir := { weir0 with bringUp := true } } } } }
    up.dies.host.com.runs = true ∧ bothReady State.reset.dies = true ∧
      (bothReady both.dies = true ∧ both.dies.host.com.weir.bringUp = true ∧ both.dies.field.com.weir.bringUp = true) ∧
      (wEnabled w = true ∧ w.linkUp = true ∧ w.bringUp = false ∧ wNext w = some ⟨3, 0, 0, [1, 2]⟩) ∧
      wNext { w with queue := [⟨12, 0, 0, [0, 0, 0]⟩] } = some ⟨12, 0, 0, [0, 0, 0]⟩ ∧ 0 < w.held.get .c ∧
      (bit 0x805 0 = true ∧ bit 0x805 2 = true ∧ fld 0x805 11 8 = fld w.ctrl 11 8 ∧ 4 ≤ fld 0x805 11 8 ∧ fld 0x805 11 8 ≤ 12) ∧
      (bit (0 : W32) 0 = false ∧ bit (0 : W32) 2 = false) ∧ (WClass.i ∈ w.stopped ∧ WClass.i ∉ w.acked) := by decide

/-- AUDITs that find 1 and 32,767 messages lost, a RESYNC and a RESYNC_ACK of class S, a lane failed, the spare waited for. -/
theorem witness_WeirReceives :
    let s := hostWeir (fun w => { w with linkUp := true, rxLaneOk := 31, rxSpareFor := 4, syncing := [.s], spareWait := some 3 })
    let w := s.dies.host.com.weir
    let lost (m : WRx) (k : WClass) : Nat := ((countsOf (wAt m.payload 1) (wAt m.payload 2)).get k + 65536 - w.acct.get k) % 65536
    let a := msg 12 [0, 0x00010000, 0]
    let b := msg 12 [0, 0, 0x7FFF0000]
    s.dies.host.com.runs = true ∧ wEnabled w = true ∧
      (wDrop w .host 13 (msg 13 [0, 0x00020000, 0]) true = none ∧ fld (wAt (msg 13 [0, 0x00020000, 0]).payload 2) 3 1 = 0 ∧ w.acked = []) ∧
      (wDrop weir0 .host 12 a true = none ∧ fld (wAt a.payload 0) 1 0 = 0 ∧ weir0.syncing = [] ∧ lost a .c = 1 ∧ lost a .s = 0 ∧ lost a .m = 0 ∧ lost a .i = 0) ∧
      (wDrop weir0 .host 12 b true = none ∧ lost b .i = 32767 ∧ lost b .s = 0 ∧ lost b .c = 0 ∧ lost b .m = 0) ∧
      (wDrop w .host 12 (msg 12 [1, 0, 0]) true = none ∧ fld (wAt (msg 12 [1, 0, 0]).payload 0) 1 0 = 1 ∧ WClass.s ∉ w.stopped) ∧
      (wDrop w .host 12 (msg 12 [2, 9, 0]) true = none ∧ fld (wAt (msg 12 [2, 9, 0]).payload 0) 1 0 = 2 ∧
        wClassAt (fld (wAt (msg 12 [2, 9, 0]).payload 0) 5 4) = .s ∧ WClass.s ∈ w.syncing) ∧
      (w.rxLaneOk = 31 ∧ w.rxSpareFor = 4 ∧ bit s.dies.field.com.weir.ctrl 1 = true ∧ s.dies.field.com.weir.txSpareUsed = false) ∧
      w.spareWait = some 3 := by decide +kernel

/-- Every message type of the field side's statement is accepted; quarters 0 and 1 of the block that the ROM waits for. -/
theorem witness_FieldTakesMessages :
    let s := inPass 100 []
    let r := fieldIs (fun f => { f with fb := { f.fb with ident := some 0x77, next := 5 } })
    let stream := msg 0 ([w32 1, 1] ++ List.replicate 128 9)
    let block := msg 9 ([w32 (0x77 * 65536 + 5), 0] ++ List.replicate 256 1)
    (accepted .field 0 stream (streamForm s.dies.field.mer stream) s ∧ s.dies.field.mer.running = true) ∧ accepted .field 8 (msg 8 [1, 0, 0, 0, 0, 4]) true s ∧
      accepted .field 7 (msg 7 [1, 2]) true s ∧ (accepted .host 7 (msg 7 [1, 2]) true s ∧ ∀ x ∈ s.dies.host.leg.subs, x.idx ≠ 0x300) ∧
      (accepted .field 9 block true r ∧ r.dies.field.fb.inRom = true ∧ lcFieldIn r.dies.field ≠ 4 ∧ romTests r.dies.field.com = false ∧ r.dies.field.fb.ident = some (fld (wAt block.payload 0) 31 16) ∧
        fld (wAt block.payload 0) 15 0 = r.dies.field.fb.next ∧ fld (wAt block.payload 1) 1 0 = r.dies.field.fb.quarter ∧ r.dies.field.fb.quarter < 3) ∧
      (accepted .field 9 (msg 9 [w32 (0x77 * 65536 + 5), 1]) true r ∧ fld 1 1 0 ≠ r.dies.field.fb.quarter ∧ r.dies.field.fb.missing = false) ∧
      (s.dies.field.com.runs = true ∧ s.dies.field.fb.inRom = true ∧ lcFieldIn s.dies.field ≠ 4 ∧ romTests s.dies.field.com = false ∧ s.dies.field.fb.ident = none ∧ ({ weir0 with linkUp := true } : Weir).linkUp = true) := by
  simp only [accepted_msg]; decide +kernel
theorem witness_FieldServesRequests :
    let req (ws : List W32) : WRx := msg 2 (0xF0010002 :: ws)
    let s := State.reset
    let f := s.dies.field
    let known : State := fieldIs (fun f => { f with dups := [⟨0xF001, [(2, [1, 2, 3])]⟩] })
    let later : State := fieldIs (fun f => { f with dups := [⟨0xF001, [(0x8001, [1])]⟩] })
    let rec' : List W32 := [0x91004100 + 0x0E, 18, 0x01000007, 0x00090000, 0, 0x0000C92C, 0x3B690000]
    let rb := unpackWords 0x0E 18 ((req rec').payload.drop 3)
    let ready : State := fieldIs (fun f => { f with cg := { f.cg with desc := [(255, 0x1FF00)], masks := [(7, 0x80000000)] } })
    let go := msg 5 [0xF0010002, 0, 0, 0xC1, 0]
    let it : Integ := f.com.integ
    (∀ n, (dmaQ f.com.dma n).en = false ∧ (dmaQ f.com.dma n).pidx = (dmaQ f.com.dma n).didx) ∧
    wAt (req [1]).payload 0 = w32 (0xF001 * 65536 + 2) ∧ newAsker f 0xF001 ∧ accepted .field 2 (req [0x40000204, 4, 9]) true s ∧
      accepted .field 2 (req [0x40000203, 2, 9]) true s ∧
      (fdupOuts known.dies.field 0xF001 = some [(2, [1, 2, 3])] ∧ [(2, ([1, 2, 3] : List W32))].find? (fun e => decide (e.1 = 2)) = some (2, [1, 2, 3]) ∧
        accepted .field 2 (req [0x40000204, 4, 9]) true known) ∧
      (fdupOuts later.dies.field 0xF001 = some [(0x8001, [1])] ∧ [(0x8001, ([1] : List W32))].find? (fun e => decide (e.1 = 2)) = none ∧
        (0x8001 + 65536 - 2) % 65536 = 32767) ∧
      (accepted .field 2 (req [0x80401003, 2, 0xA5C3]) true s ∧ lcFieldIn f ≠ 4) ∧
      (accepted .field 2 (req rec') true s ∧ rb.length = 18 ∧ crc32 (rb.take 14) = w32 (beAt rb 14 4) ∧ 1 ≤ beAt rb 0 1 ∧ beAt rb 0 1 ≤ 10 ∧
        beAt rb 4 2 + 1 < sparesOf (beAt rb 0 1) ∧ ([] : List (Nat × Nat)).contains (beAt rb 0 1, beAt rb 4 2) = false ∧
        it.remap.contains (⟨beAt rb 0 1, beAt rb 2 2⟩, beAt rb 4 2) = false ∧ (∀ e ∈ it.remap, e.1 ≠ ⟨beAt rb 0 1, beAt rb 2 2⟩) ∧
        ledUsed f.com (beAt rb 0 1) ≤ beAt rb 4 2) ∧
      accepted .field 3 (msg 3 [0xF0010002, 0x40000204]) true s ∧
      (accepted .field 5 go true ready ∧ newAsker ready.dies.field 0xF001 ∧ fld (wAt go.payload 4) 15 2 = 0 ∧
        bundleFree ready.dies.field (cgMask ready.dies.field.cg 0) 0 ∧ bit (wAt go.payload 3) 0 = true ∧ fld (wAt go.payload 3) 7 4 = 12) := by
  refine ⟨fun _ => ⟨rfl, rfl⟩, ?_⟩
  simp only [newAsker, bundleFree, accepted_msg]; decide +kernel

/-- A write forwarded, a fault record of the field side not yet read, a field image of one block in the running image, the MEASURE of a field side of the same lifecycle. -/
theorem witness_HostTakesMessages :
    let s := State.reset
    let ret := msg 1 ([5, 1] ++ List.replicate 32 0)
    let asked : State := hostIs (fun h => { h with leg := { h.leg with fwd := [⟨0xF001, 2, 2, 0, .chain, 0x4000, 2, .write, 0, false⟩] } })
    let stage1 : State := hostIs (fun h => { h with
      com := { h.com with weir := { weir0 with farPresent := true } },
      boot := { h.boot with inRom := false, source := 1, man := List.replicate 31 0 ++ [1, 3, 0, 0, 0, 0, 0, 0, 0, 1, 0, 0, 0] } })
    let told : State := { stage1 with dies := { stage1.dies with
      field := { stage1.dies.field with com := { stage1.dies.field.com with faults := [(0x107, [1, 2, 3])] } } } }
    let img (c : W32) : WRx := msg 10 [0xFFFF, c, 0, 0]
    let meas := msg 11 (2 :: List.replicate 12 7)
    accepted .host 1 ret (streamRetOk ret s.dies.host) s ∧
      (accepted .host 4 (msg 4 [0xF0010002, 0x40000200, 0]) true asked ∧ (asked.dies.host.leg.fwd.find? (fun v => decide (v.rid = 0xF001) &&
        decide (v.rseq = 2))).map (·.kind) = some .write) ∧
      accepted .host 6 (msg 6 [1]) true s ∧
      (accepted .host 6 (msg 6 [1]) true told ∧ told.dies.host.boot.inRom = false ∧ told.dies.host.coresRun = true ∧
        told.dies.field.com.faults = (0x107, [1, 2, 3]) :: [] ∧ told.dies.host.boot.faultsIn = 0) ∧ (accepted .host 10 (img 4) true s ∧ 4 ≤ fld (wAt (img 4).payload 1) 7 0) ∧
      (accepted .host 10 (img 0) true stage1 ∧ fld (wAt (img 0).payload 1) 7 0 = 0 ∧ stage1.dies.host.boot.inRom = false ∧ stage1.dies.host.coresRun = true ∧
        stage1.dies.host.boot.repairsF = [] ∧ (fieldBlock stage1.dies.host 0).isSome = true ∧ stage1.dies.host.com.weir.farPresent = true) ∧
      (accepted .host 11 meas true s ∧ s.dies.host.boot.inRom = true) ∧
      (accepted .host 11 meas true stage1 ∧ fld (wAt meas.payload 0) 3 0 = 2 ∧ tget 0 stage1.dies.host.boot.msCnt 2 = 0 ∧
        lcOf stage1.dies.host.com.fuses = fld (wAt meas.payload 0) 14 12 ∧ stage1.dies.host.boot.runDig = [] ∧
        stage1.dies.host.leg.restoring = false) := by
  simp only [accepted_msg]; decide +kernel

/-! ### Passes -/

/-- Ticks at ±64 slots, strays beyond, a pass that has not seen its tick. -/
theorem witness_TicksAreClassified :
    let m := (fieldIs (fun f => { f with mer := { passAt 100 with phased := true } })).dies.field.mer
    State.reset.dies.field.com.runs = true ∧ m.running = true ∧ m.srcUse = 0 ∧ m.phased = true ∧ m.tickCur = none ∧ m.tickNext = none ∧ m.strayNow = none ∧
      ((-64 : Int) ≤ 64 ∧ (-65 : Int) < -64 ∧ (64 : Int) < 65) ∧ ∀ r ∈ m.tickCur, r.missing = false := by decide

/-- RUN 1 with each family and tick source, RUN 0, a swap for each row of R69, a CANCEL, a first pass at the tick that a mark names. -/
theorem witness_RunsAndSwapsAreAsked :
    let m := (inPass 100 []).dies.field.mer
    let off := (fieldIs (fun f => { f with mer := { mer0 with ctrl := 0x101 } })).dies.field
    let late := { m with pcnt := 9 }
    let good := { m with plen0 := 25584, plen1 := 25584 }
    let first := fieldIs (fun f => { f with
      aud := { f.aud with osc := { f.aud.osc with pllLock := true } }, com := { f.com with weir := { weir0 with tickLock := true } }, mer := { mer0 with pend := .chain false true, mark := some ⟨0, 5, [], 0, 1⟩ } })
    (bit 0x501 0 = true ∧ fld 0x501 4 3 ≤ 1 ∧ fld 0x503 2 1 ≤ 1 ∧ fld 0x501 11 8 ≤ 5 ∧ mer0.running = false ∧ bit mer0.ctrl 0 = false ∧
        State.reset.dies.field.erHeld = false) ∧
      (bit 0x401 0 = true ∧ off.mer.running = false ∧ fld 0x401 11 8 ≤ 5 ∧
        (decide (fld 0x401 11 8 % 2 = 1) == !bit off.aud.osc.ctl 12 && off.aud.osc.pllLock) = false) ∧
      (bit (0 : W32) 0 = false ∧ m.running = true) ∧ (bit (1 : W32) 0 = true ∧ bit (1 : W32) 1 = false) ∧
      ((shadowLen m ≠ passLen (rateOf m) - 16) ∧ shadowLen good = passLen (rateOf good) - 16 ∧ isLate good 0 = false ∧
        isLate { late with plen0 := 25584, plen1 := 25584 } 8 = true) ∧
      (bit (2 : W32) 0 = false ∧ bit (2 : W32) 1 = true ∧ ({ m with swap := some ⟨3, none⟩ } : Mer).swap = some ⟨3, none⟩) ∧
      (let n := first.dies.field.mer
       n.pend = .chain false true ∧ n.running = false ∧ first.dies.field.erHeld = false ∧ first.dies.field.com.weir.tickLock = true ∧ n.phased = false ∧
        n.ran = false ∧ familyOk first.dies.field = true ∧ markAt n n.tix = some ⟨0, 5, [], 0, 1⟩) := by decide

/-- A seam with no swap, with one that is due and one that is not; wraps that go on, stop, count, and start on the local tick. -/
theorem witness_SeamsAndWraps :
    let at' (m : Mer) : FieldDie := (fieldIs (fun f => { f with mer := m })).dies.field
    let m := { passAt 25584 with srcUse := 1, pcnt := 7 }
    let swapped (n : Nat) : Mer := { m with swap := some ⟨n, some 5⟩ }
    let frame : FieldDie := { at' m with io := { ioFrames0 with frames := [⟨8, false, List.replicate 128 3⟩] } }
    let wrap (m : Mer) : Mer := { m with seamDone := true }
    let locked : FieldDie := { at' { mer0 with ran := true, pend := .local } with aud := { audio0 with osc := { audio0.osc with pllLock := true } } }
    (m.running = true ∧ m.seamDone = false ∧ m.srcUse ≠ 0 ∧ m.realignWait = false ∧ (at' m).muting = false ∧ (at' m).mute = 0 ∧
        m.swap = none ∧ muteWanted State.reset.dies.host = false ∧ (at' m).eng.fly = [] ∧ ∀ i, i < 128 → tget 0 (at' m).io.inBack i = 0) ∧
      (frame.io.frames.find? (fun c => decide (c.pass = 8))).map (·.words.length) = some 128 ∧
      ((at' m).io.frames.find? (fun c => decide (c.pass = 8)) = none ∧ fld ({ m with ctrl := 0x100 } : Mer).ctrl 4 3 = 0) ∧
      m.swap = none ∧ ((swapped 7).swap = some ⟨7, some 5⟩ ∧ 7 < m.pcnt + 1 ∧ m.pcnt + 1 ≤ 8 ∧ (swapped 8).swap = some ⟨8, some 5⟩) ∧
      ((wrap m).running = true ∧ (wrap m).seamDone = true ∧ (at' (wrap m)).erReq = false ∧ (wrap m).stopReq = false) ∧
      ({ wrap m with stopReq := true, ctrl := 0x128 } : Mer).stopReq = true ∧ bit ({ wrap m with stopReq := true, ctrl := 0x128 } : Mer).ctrl 0 = false ∧
      (({ mer0 with ran := true } : Mer).running = false ∧ mer0.pend = .none ∧ mer0.seamDone = false) ∧
      (({ mer0 with seamDone := true } : Mer).running = false ∧ ({ mer0 with seamDone := true } : Mer).pend = .none) ∧
      (locked.mer.pend = .local ∧ locked.mer.seamDone = false ∧ locked.mer.ran = true ∧ familyOk locked = true ∧ locked.erHeld = false) ∧
      ({ m with overran := true } : Mer).overran = true ∧ (({ m with slot := 25583 } : Mer).overran = false ∧ 25583 < merN m - 16) := by decide +kernel

/-! ### Banks and commits -/

/-- Plain cells at the edges of each bank, an alias, the gap's first byte, a word of a group, a marked word, codewords that wait for a write-back. -/
theorem witness_BankAccesses :
    let f := State.reset.dies.field
    let g := (fieldIs (fun f => { f with cg := { f.cg with desc := [(3, 0x10000)] }, bk := { f.bk with xMark := 2 ^ 31, z := { bank0 with wb := [6] } } })).dies.field
    let late := (inPass 25584 []).dies.field
    let h := (hostIs (fun h => { h with e := { bank0 with wb := [2] } })).dies.host
    f.com.runs = true ∧ f.eng.fly = [] ∧ (plainCell f .f 0x3FFFC ∧ fieldTarget 0x3FFFC = some (.plain, .f, 0x3FFFC)) ∧
      (plainCell f .x 0x800 ∧ fieldTarget 0x10100800 = some (.plain, .x, 0x800)) ∧ (plainCell f .y 0x40000 ∧ fieldTarget 0x11240000 = some (.add, .y, 0x40000)) ∧
      (plainCell f .z 0x7FFFC ∧ fieldTarget 0x1237FFFC = some (.swap, .z, 0x7FFFC)) ∧ (fieldBank f .x).err = [] ∧ (bankWaits f .f = false ∧ bankWaits f .x = false ∧ bankWaits f .y = false ∧ bankWaits f .z = false) ∧
      (bankWaits late .x = true ∧ bankWaits late .y = true ∧ bankWaits late .p0 = true) ∧ fieldGap 0x40000 = true ∧
      (groupOf g.cg 0 = some 3 ∧ gliding g.cg 3 = false ∧ g.eng.fly = [] ∧ g.bk.y.err = []) ∧ (xMarked g.bk 0x1FFFF = true ∧ g.bk.x.err = []) ∧
      (6 ∈ (fieldBank g .z).wb) ∧ (State.reset.dies.host.com.runs = true ∧ 2 ∈ (hostBank h .e).wb) := by
  simp only [plainCell]; decide

theorem witness_CommitRequests :
    let f := State.reset.dies.field
    let g := (fieldIs (fun f => { f with mer := passAt 25584, cg := { f.cg with
      desc := [(9, 0x1FF00)], masks := [(0, 0x200)], pending := [⟨5, false, 0, 7, 1, .register⟩], glide := [(1, 0x30001)] } })).dies.field
    let now := (fieldIs (fun f => { f with cg := { f.cg with desc := [(9, 0x1FF00)], masks := [(0, 0x200)] } })).dies.field
    f.com.runs = true ∧ (255 < fld 0x1FF01 7 0 + fld 0x1FF01 15 8) ∧ cgPending g.cg 0 = true ∧ gliding g.cg 1 = true ∧
      (fld 0x1FF00 7 0 + fld 0x1FF00 15 8 ≤ 255 ∧ cgPending f.cg 255 = false ∧ gliding f.cg 255 = false ∧ cgEn (cgDesc f.cg 255) = false ∧ bit 0x1FF00 16 = true) ∧
      (cgEn (cgDesc now.cg 9) = true ∧ bit (0xFF00 : W32) 16 = false ∧ cgPending now.cg 9 = false) ∧
      (bit 0xC011 0 = true ∧ bit 0xC011 1 = false ∧ bit 0xC011 4 = true ∧ fld 0xC011 15 12 ≤ 12 ∧ bundleFree now (cgMask now.cg (fld 0xC011 9 8)) 0) ∧
      (g.cg.pending.length < 8 ∧ cgMask g.cg 0 ≠ 0 ∧ isLate g.mer 0 = true ∧
        ∀ k ∈ maskGroups (cgMask g.cg 0), cgEn (cgDesc g.cg k) = true ∧ cgPending g.cg k = false ∧ gliding g.cg k = false) ∧
      (bit 0x70002 0 = false ∧ bit 0x70002 1 = true ∧ g.cg.pending.any (fun b => decide (b.tag = fld 0x70002 31 16) && !isLate g.mer b.pass) = true) ∧
      (bit 0x4000002 1 = true ∧ fld 0x4000002 26 16 = 1024 ∧ f.mer.running = false ∧ g.mer.running = true) := by
  simp only [bundleFree]; decide +kernel

theorem witness_BundlesTakeEffect :
    let b (p : Nat) : Bundle := ⟨p, false, 0, 7, 2 ^ 9, .register⟩
    let f (p : Nat) : FieldDie := (fieldIs (fun f => { f with
      mer := { passAt 25584 with srcUse := 1, pcnt := 5 }, cg := { f.cg with desc := [(9, 0x10000)], pending := [b p] }, bk := { f.bk with dirty := [(0, true)] } })).dies.field
    (f 5).com.runs = true ∧ (f 5).mer.running = true ∧ (f 5).mer.seamDone = false ∧ (f 5).mer.srcUse ≠ 0 ∧ (f 5).mer.realignWait = false ∧
      (f 5).mer.swap = none ∧ (f 5).eng.fly = [] ∧ (f 5).cg.pending = [b 5] ∧ (f 5).cg.glide = [] ∧ (b 5).pass ≤ (f 5).mer.pcnt ∧ (b 5).glide = false ∧
      (f 6).mer.pcnt < (b 6).pass ∧ (f 5).bk.dirty.filter (fun e => decide (e.1 = 0)) = [(0, true)] := by decide
/-! ### Silt -/

/-- Both ends of the window, a codeword in error, EN while passes run and while none does. -/
theorem witness_SiltStoreAccesses :
    let f := (fieldIs (fun f => { f with silt := { silt0 with ready := true, err := [] } })).dies.field
    let g := (fieldIs (fun f => { f with mer := passAt 9, silt := { silt0 with ready := true, err := [(0x7FFFFFF, 1)] } })).dies.field
    f.com.runs = true ∧ (f.silt.ready = true ∧ f.silt.err = []) ∧ silt0.ready = false ∧
      ((4 : Nat) ∈ [1, 2, 4] ∧ 0x2FFFFFFC % 4 = 0 ∧ 0x20000000 ≤ 0x2FFFFFFC ∧ 0x2FFFFFFC < 0x30000000) ∧
      (0x7FFFFFF < 2 ^ 27 ∧ g.silt.ready = true ∧ tget 0 g.silt.err 0x7FFFFFF = 1 ∧ tget 0 g.silt.err 0 = 0) ∧ g.mer.running = true ∧
      f.mer.running = false ∧ (silt0.active = false ∧ bit (1 : W32) 0 = true) ∧ (({ silt0 with active := true } : Silt).active = true ∧ bit (0 : W32) 0 = false) := by decide

/-- A line free to enable at the greatest length, an enabled one, bad lengths; taps free, enabled, linked, and linked to a gliding group. -/
theorem witness_LinesAndTaps :
    let f := (fieldIs (fun f => { f with
      cg := { f.cg with glide := [(3, 0x30001)] },
      silt := { silt0 with
        ready := true, lines := [(0, { line0 with len := 0x4000000 }), (1, { line0 with len := 17 }), (1023, { line0 with len := 16, base := 0x10000000, en := true })],
        taps := [(1, { tap0 with cfg := 0x11 }), (2, { tap0 with cfg := 0x1000000 }), (4, { tap0 with cfg := 0x1030000 })] } })).dies.field
    let q := f.silt
    f.com.runs = true ∧ ((tget line0 q.lines 0).en = false ∧ bit (1 : W32) 0 = true ∧ lineOk q 0 = true) ∧ (tget line0 q.lines 1023).en = true ∧
      ((tget line0 q.lines 1).en = false ∧ fld (tget line0 q.lines 1).len 26 0 % 16 ≠ 0) ∧ bit (0 : W32) 0 = false ∧
      (q.ready = true ∧ bit (tget tap0 q.taps 2047).cfg 0 = false ∧ (tget tap0 q.taps 2047).staged = none ∧ bit (tget tap0 q.taps 2047).cfg 24 = false ∧
        fld 0x1FFFFF5 2 1 ≠ 3 ∧ bit (tget tap0 q.taps 2046).cfg 0 = false) ∧
      (bit (tget tap0 q.taps 1).cfg 0 = true ∧ fld (0x21 : W32) 13 4 ≠ fld (tget tap0 q.taps 1).cfg 13 4) ∧
      (bit (tget tap0 q.taps 2).cfg 24 = true ∧ gliding f.cg (fld (tget tap0 q.taps 2).cfg 23 16) = false) ∧
      (bit (tget tap0 q.taps 4).cfg 24 = true ∧ gliding f.cg (fld (tget tap0 q.taps 4).cfg 23 16) = true) := by decide

theorem witness_CaptureAndPlayback :
    let q (c : Capture) : Silt := { silt0 with ready := true, cap := c, pbMaskHi := 0x80000000, clips := [(63, { clip0 with len := 16 })] }
    let on : Capture := { capture0 with frames := 16, ctl := 0x101, armed := true }
    let off : Capture := { capture0 with frames := 0x4000000, ctl := 0x100 }
    State.reset.dies.field.com.runs = true ∧
      (fld 0x103 14 8 = fld on.ctl 14 8 ∧ bit 0x103 0 = true ∧ bit 0x103 1 = true ∧ bit 0x103 2 = false ∧ bit on.ctl 0 = true ∧ capOk (q on) on = true) ∧
      (bit 0x105 0 = true ∧ bit 0x105 1 = false ∧ bit 0x105 2 = true ∧ on.armed = true ∧ on.triggered = false ∧ on.trigWait = none) ∧
      (bit 0x101 0 = true ∧ bit 0x101 1 = false ∧ bit 0x101 2 = false ∧ bit off.ctl 0 = false ∧ off.armed = false ∧ fld 0x101 14 8 = fld off.ctl 14 8 ∧
        capOk (q off) off = true) ∧
      (bit 0x100 0 = false ∧ bit 0x100 1 = false ∧ bit 0x100 2 = false ∧ fld 0x100 14 8 = fld on.ctl 14 8) ∧
      (({ on with left := some 0 } : Capture).armed = true ∧ ({ on with left := some 0 } : Capture).left = some 0) ∧
      (bit (1 : W32) 0 = true ∧ bit (1 : W32) 1 = !true) ∧ (bit (2 : W32) 0 = false ∧ bit (2 : W32) 1 = !false) ∧ (q on).pbPend.length < 4 ∧
      (q on).pbMaskLo.toNat + 2 ^ 32 * (q on).pbMaskHi.toNat ≠ 0 ∧ ∀ k, k < 64 → ((q on).pbMaskLo.toNat + 2 ^ 32 * (q on).pbMaskHi.toNat).testBit k = true →
        clipOk (q on) k = true ∧ ∀ r ∈ (q on).pbPend, r.mask.testBit k = false := by decide

/-! ### Audio ports, sounding chain, pilot DACs -/

/-- A port of group 1 with a running clock, and its group's reference. -/
def slavePort : SapPort := { sapPort0 with cfg := 0x1025C, used := 0x1025C, en := true, cur := some 0x1025C }

/-- The audio block with port 23 in group 1, whose clock drives the group. -/
def slaveAudio (p : SapPort) (q : SapGroup) : Audio :=
  { audio0 with ports := [(23, p)], groups := [(1, { q with ref := 23, refUsed := 23 })], osc := { osc0 with pllLock := true } }

theorem witness_AudioSettings :
    let f := State.reset.dies.field
    let r := (inPass 9 []).dies.field
    let a := slaveAudio slavePort sapGroup0
    let c : RsmpCh := { rsmpCh0 with en := true, src := 46, srcUsed := 46 }
    f.com.runs = true ∧ (saBad 3 = true ∧ saBad 0x25C = false) ∧ ((tget sapPort0 f.aud.ports 23).link = false ∧ r.mer.running = true ∧ f.mer.running = false) ∧
      (bit (1 : W32) 0 = true ∧ (tget sapPort0 f.aud.ports 23).en = false) ∧
      (bit (0 : W32) 0 = false ∧ slavePort.en = true ∧ slavePort.enWait = false ∧ slavePort.lost = false ∧ saGroup slavePort.used ≠ 0) ∧
      (bit (0x32 : W32) 12 = bit osc0.ctl 12 ∧ fld (0x32 : W32) 1 0 ≠ 3) ∧ bit (0x1030 : W32) 12 ≠ bit osc0.ctl 12 ∧
      ((0xFFF0BDBF : W32).toInt < -1000000 ∧ (1000000 : W32).toInt ≤ 1000000 ∧ -1000000 ≤ (0xFFF0BDC0 : W32).toInt) ∧
      (fld osc0.ctl 1 0 = 0 ∧ ({ osc0 with slewing := true } : Osc).slewing = true) ∧ osc0.pllLock = false ∧
      (fld ({ osc0 with ctl := 0x32 } : Osc).ctl 1 0 = 2 ∧ osc0.hold = false) ∧
      (rsmpRuns c = true ∧ c.lock = false ∧ c.fade = .silent ∧ tget sapPort0 a.ports (c.srcUsed / 2) = slavePort ∧ sapRuns slavePort = true ∧
        saDir slavePort.used = false ∧ saGroup slavePort.used ≠ 0 ∧ slavePort.lost = false ∧ rsmpRange { f with aud := a } c = false) := by decide

theorem witness_AudioFrames :
    let q (fill ofill : Nat) : SapGroup := { sapGroup0 with fill := fill, ofill := ofill }
    let main : SapPort := { sapPort0 with en := true, prev := some 0x25C }
    State.reset.dies.field.com.runs = true ∧ 23 < 24 ∧
      (saGroup main.used = 0 ∧ (slaveAudio main sapGroup0).osc.pllLock = true ∧ main.prev = some 0x25C ∧ saDir 0x25C = false ∧ main.badL = false ∧ main.badR = false) ∧
      (saGroup slavePort.used ≠ 0 ∧ sapRuns slavePort = true ∧ slavePort.lost = false ∧ slavePort.stopWait = false ∧ slavePort.cur = some 0x1025C ∧
        saDir 0x1025C = false ∧ slavePort.badL = false ∧ slavePort.badR = false ∧ saM 0x1025C / 2 = 32) ∧ slavePort.fade = .full ∧
      (({ slavePort with lost := true, fade := .silent } : SapPort).lost = true ∧ sapRuns { slavePort with lost := true, fade := .silent } = true) ∧
      (groupActive (slaveAudio slavePort (q 63 1)) 1 = true ∧ (q 63 1).fill ≠ 64 ∧ (q 63 1).ofill ≠ 0 ∧ groupPorts (slaveAudio slavePort (q 63 1)) 1 false = [23]) ∧
      (groupActive (slaveAudio slavePort (q 64 0)) 1 = true ∧ (q 64 0).fill = 64 ∧ (q 64 0).ofill = 0) ∧ (2 : Nat) ≤ 2 := by decide

theorem witness_SenseChannels :
    let on : SnsCh := { snsCh0 with en := true, cfg := 3, used := 3 }
    let f := (fieldIs (fun f => { f with
      aud := { audio0 with osc := { osc0 with pllLock := true } }, cg := { f.cg with glide := [(3, 0x30001)] },
      sns := { sense0 with smclk := 1, ch := [(30, { snsCh0 with link := true, cgrp := 3 }), (31, on)] } })).dies.field
    let r := (inPass 9 []).dies.field
    f.com.runs = true ∧ (snsCh0.link = false ∧ r.mer.running = true) ∧ ((tget snsCh0 f.sns.ch 30).link = true ∧ gliding f.cg 3 = true) ∧
      (bit (1 : W32) 0 = true ∧ snsCh0.en = false) ∧ (bit (0 : W32) 0 = false ∧ ({ on with enWait := true } : SnsCh).enWait = true) ∧
      ((∀ e ∈ f.sns.ch, e.2.stopWait = false) ∧ (0 ^^^ f.sns.smclk) &&& 0xA = 0) ∧ ((List.replicate 64 true).length = 64 ∧ snsRuns on = true ∧ smclkOn f 31 = true ∧ fld on.used 1 0 = 3 ∧
        on.stopWait = false ∧ on.fadeFrom = none ∧ on.fadeI = 0) ∧ snsRuns snsCh0 = false ∧ on.stuck = false ∧
      ({ on with stuck := true } : SnsCh).stuck = true ∧ (7 < 8 ∧ 31 < 32 ∧ bit r.sns.firCtl 0 = false) := by decide

theorem witness_PilotDacs :
    let on : Pdac := { pdac0 with ctl := 0x41 }
    let sine : Pdac := { pdac0 with ctl := 0x43 }
    let p : Pilot := { pilot0 with syncMask := 0x80, syncLo := 5 }
    State.reset.dies.field.com.runs = true ∧ (bit on.ctl 0 = true ∧ on.spanSeq = 0 ∧ pilot0.supplyLow = false ∧ fld on.ctl 2 1 = 0) ∧ bit pdac0.ctl 0 = false ∧
      (bit (0x40 : W32) 0 = false ∧ fld (0x40 : W32) 5 4 ≠ 3 ∧ fld (0x40 : W32) 5 4 = on.spanUsed) ∧
      (bit (0x41 : W32) 0 = true ∧ fld (0x41 : W32) 5 4 = fld sine.ctl 5 4 ∧ fld sine.ctl 5 4 = sine.spanUsed ∧ fld (0x41 : W32) 2 1 = 0 ∧ fld sine.ctl 2 1 ≠ 0 ∧
        bit (0x41 : W32) 6 = bit sine.ctl 6) ∧
      (bit (0x61 : W32) 0 = true ∧ fld (0x61 : W32) 2 1 = fld on.ctl 2 1 ∧ fld (0x61 : W32) 5 4 ≠ 3 ∧ fld (0x61 : W32) 5 4 ≠ on.spanUsed) ∧
      ({ on with spanSeq := 1 } : Pdac).spanSeq = 1 ∧ (({ on with spanSeq := 2 } : Pdac).spanSeq = 2 ∧ bit on.ctl 0 = true) ∧
      ({ on with holding := true } : Pdac).holding = true ∧ (true && false) = false ∧ ({ pilot0 with supplyLow := true } : Pilot).supplyLow = true ∧
      (15 < 16 ∧ ({ osc0 with pllLock := true } : Osc).pllLock = true ∧ pilot0.pend = []) ∧
      (bit (1 : W32) 0 = true ∧ p.pend.length < 2 ∧ p.syncMask.toNat % 256 ≠ 0 ∧ ∀ r ∈ p.pend, (r.mask &&& p.syncMask.toNat) % 256 = 0) := by decide

/-! ### Causeway -/

/-- A frame of a class with its header CRC and a right FCS, as it comes from system 0. -/
def frame (cls flags seq : Nat) (body : List Byte) : CwRx :=
  let h := bytesBE 1 (16 + cls) ++ bytesBE 1 flags ++ bytesBE 2 1 ++ bytesBE 2 7 ++ bytesBE 2 body.length ++ bytesBE 4 seq ++ [0, 0]
  ⟨BitVec.ofNat 48 cwMac, 1, 0x88B5, h ++ bytesBE 2 (hcrc h), body, 0, 0, 0, false⟩

/-- A node with links up on CA (upstream) and CB (downstream). -/
def node (g : Cw → Cw) : State := hostIs (fun h => { h with cw := g { h.cw with
  ports := [(0, { cwPort0 0 with link := true }), (1, { cwPort0 1 with link := true })] } })

theorem witness_CausewayLinks :
    let c := State.reset.dies.host.cw
    let d := (node (fun c => { c with route := [(9, toPort 1)] })).dies.host.cw
    let e := (node (fun c => { c with isHead := true, mdioBusy := true })).dies.host.cw
    State.reset.dies.host.com.runs = true ∧ (portEn c 2 = true ∧ (cwPort c 2).link = false ∧ fld (cwPort c 2).pctl 1 0 = 2 ∧ c.discSeen = false ∧ isPlain c 2 = false ∧ c.onStandby = false) ∧
      ((cwPort d 1).link = true ∧ (cwPort d 1).role = 1 ∧ isPlain d 1 = false ∧ routedTo d (toPort 1) ≠ [] ∧ d.isHead = false ∧ upPort d = some 0) ∧
      (fld 0x16 1 0 ≠ 3 ∧ bit 0x16 2 = true ∧ bit c.ctrl 0 = true ∧ bit 0x12 2 = false) ∧
      (fld 0x88B50000 5 4 ≠ 3 ∧ fld 0x88B50000 5 4 = fld c.ctrl 5 4 ∧ bit 0x88B50000 0 = false ∧ bit 0x88B50000 2 = false ∧ bit 0x88B50000 3 = false) ∧
      (bit 0x88B50005 0 = true ∧ bit 0x88B50005 2 = true ∧ bit 0x88B50005 3 = false) ∧
      (bit 0x88B50009 0 = true ∧ bit 0x88B50009 2 = false ∧ bit 0x88B50009 3 = true ∧ e.isHead = true) ∧ c.mdioBusy = false ∧ e.mdioBusy = true := by decide

/-- Frames at the edges of their windows, a frame held for the Weir, a node that sends U frames, a head with a merged frame due. -/
theorem witness_CausewayStreams :
    let d := (node (fun c => { c with state := 3, lastS := some 4, noaddr := false, slead := 1, ulag := 1, held := [⟨5, false, []⟩] })).dies.host
    let e := (node (fun c => { c with
      isHead := true, slead := 1, ulag := 1, stream := 0xF0200, formedS := some 9, merged := [⟨2 ^ 32 - 5, false, []⟩] })).dies.host
    let s : CwRx := { frame 0 0 5 [0, 0, 0, 1] with dev := 1000 }
    let u : CwRx := { frame 1 0 5 [0, 0, 0, 1] with dev := -320 }
    (cwGood d 0 0 s ∧ (cwPort d.cw 0).role = 0 ∧ -1000 ≤ s.dev ∧ s.dev ≤ 1000 ∧ d.cw.state ≠ 0 ∧ d.cw.lastS = some 4 ∧ hSeq s.hdr = nextSeq d 4 ∧
        d.cw.slotMap.pend = none) ∧ d.cw.isHead = false ∧
      (d.cw.held = ⟨5, false, []⟩ :: [] ∧ (hostWeir (fun w => { w with farPresent := true })).dies.host.com.weir.farPresent = true) ∧
      (cwGood d 1 1 u ∧ -320 ≤ u.dev ∧ u.dev ≤ 320) ∧
      (d.cw.slead ≠ 0 ∧ d.cw.ulag ≠ 0 ∧ d.cw.noaddr = false ∧ upPort d.cw = some 0 ∧ d.cw.pend = [] ∧ d.cw.retMap.pend = none) ∧
      (e.cw.isHead = true ∧ e.cw.slead ≠ 0 ∧ e.cw.ulag ≠ 0 ∧ e.cw.srcMap.pend = none ∧ e.cw.formedS = some 9 ∧
        loopMin e ≤ cwLoop e.cw ∧
        (e.cw.merged.find? (fun g => decide ((g.seq + cwLoop e.cw * periodAt e (nextSeq e 9)) % 2 ^ 32 = nextSeq e 9))).isSome = true) := by
  unfold cwGood; decide +kernel

theorem witness_CausewayGaps :
    let h := (node (fun c => { c with state := 3, route := [(7, toPort 1)], learn := [(0x0200_0000_0009, 1)] })).dies.host
    let p := cwPort h.cw 1
    let v := frame 3 0x60 5 [1, 2, 3]
    let e := frame 6 0x60 5 (bytesBE 6 0x0200_0000_0009 ++ bytesBE 6 0x0200_0000_0008 ++ [8, 0])
    (p.link = true ∧ isPlain h.cw 1 = false ∧ nextTx { p with txq := [cwE 8 [1]] } = some (cwE 8 [1]) ∧ (cwE 8 [1]).done = 0 ∧ (cwE 8 [1]).frag = 0 ∧
        gapNeed (cwE 8 [1]).payload.length = gapNeed 2 ∧ (cwE 8 [1]).cls ≠ 2 ∧ p.ackDue = false ∧ portSends h.cw 1 (cwE 8 [1]).cls = true ∧
        ∀ t ∈ ({ p with txq := [cwE 8 [1]] } : CwPort).txq, portSends h.cw 1 t.cls = true) ∧
      (nextTx p = none ∧ portSends h.cw 1 4 = true ∧ portSends h.cw 1 3 = true ∧ portSends h.cw 1 6 = true ∧ ({ p with rel := 3 } : CwPort).rel ≠ p.relSent) ∧
      (cwGood h 0 3 v ∧ cwWhole v ∧ (cwPort h.cw 0).reasm = none ∧ (cwBody v).length ≤ 1024 ∧ hDmode v.hdr = 0 ∧ h.cw.state ≠ 0 ∧ h.cw.noaddr = true ∧
        (cwPort h.cw 0).role = 0 ∧ routePort h.cw (hDst v.hdr) = some 1) ∧
      (cwGood h 0 6 e ∧ cwWhole e ∧ (cwBody e).length ≤ 2000 ∧ forwards h.cw = true ∧ (beAt (cwBody e) 0 1).testBit 0 = false ∧ beAt (cwBody e) 0 6 ≠ myMac h 3 ∧
        beAt (cwBody e) 0 6 ≠ beAt (cwBody e) 6 6 ∧
        h.cw.learn.find? (fun l => decide (l.1 = beAt (cwBody e) 0 6)) = some (beAt (cwBody e) 0 6, 1) ∧ h.cw.learn.length < 1024 ∧ p.link = true) := by
  unfold cwGood cwWhole
  refine ⟨?_, ?_, ?_, ?_⟩ <;> decide +kernel

theorem witness_CausewayEnumeration :
    let h := (node (fun c => { c with heldAddr := [9], toReport := true, awaiting := true, state := 2, joins := [(3, 0), (1, 5)] })).dies.host
    let k (a : Option (List Byte)) (n : Nat) : HostDie := (node (fun c => { c with
      state := 2, joins := [(1, 5)], ports := (1, { cwPort0 1 with link := true, assign := a, counted := n }) :: c.ports })).dies.host
    let rep : List Byte := [0, 0] ++ List.replicate 19 0
    let g := (node (fun c => { c with isHead := true, heldAddr := [9] })).dies.host
    let c0 := (hostIs (fun h => { h with cw := cw0 true })).dies.host.cw
    let z (n : Nat) : List Byte := List.replicate n 0
    cwMsg h 0 5 1 (z 33) (frame 5 0 0 (1 :: z 33)) ∧ ((cwPort h.cw 0).role = 0 ∧ h.cw.isHead = false ∧ (z 33).length = 33 ∧ beAt (z 33) 27 2 < 4095) ∧
      (cwMsg h 1 5 1 (z 33) (frame 5 0 0 (1 :: z 33)) ∧ (cwPort h.cw 1).role = 1) ∧ g.cw.isHead = true ∧
      (bit c0.ctrl 8 = true ∧ bit c0.ctrl 0 = true ∧ c0.isHead = false ∧ c0.state = 0) ∧
      (cwMsg (k none 0) 1 5 2 rep (frame 5 0 0 (2 :: rep)) ∧ (cwPort (k none 0).cw 1).role = 1 ∧ rep.length = 21 ∧ (beAt rep 20 1).testBit 0 = false ∧
        (k none 0).cw.isHead = false ∧ (k none 0).cw.toReport = false ∧ beAt rep 0 2 = (k none 0).cw.enumNo ∧ (beAt rep 20 1).testBit 1 = false ∧
        (cwPort (k none 0).cw 1).counted = 0 ∧ forwards (k none 0).cw = true ∧ upPort (k none 0).cw = some 0) ∧
      (cwMsg (k (some [7]) 1) 1 5 2 rep (frame 5 0 0 (2 :: rep)) ∧ (cwPort (k (some [7]) 1).cw 1).counted ≠ 0 ∧ (cwPort (k (some [7]) 1).cw 1).assign = some [7]) ∧
      (cwMsg (k none 0) 1 5 2 (1 :: z 20) (frame 5 0 0 (2 :: 1 :: z 20)) ∧ beAt (1 :: z 20) 0 2 ≠ (k none 0).cw.enumNo) ∧
      (upPort h.cw = some 0 ∧ h.cw.toReport = true ∧ h.cw.awaiting = true) ∧
      (cwMsg h 0 5 3 [0, 0, 0, 1, 0x0F, 0xFF, 0, 1] (frame 5 0 0 [3, 0, 0, 0, 1, 0x0F, 0xFF, 0, 1]) ∧ beAt [0, 0, 0, 1, 0x0F, 0xFF, 0, 1] 0 2 = h.cw.enumNo ∧
        runsAt (([0, 0, 0, 1, 0x0F, 0xFF, 0, 1] : List Byte).drop 4) = (4095, 1) :: [] ∧ h.cw.joins = (3, 0) :: [(1, 5)]) ∧
      (cwMsg (k none 0) 0 5 3 [0, 0, 0, 1, 0x0F, 0xFF, 0, 1] (frame 5 0 0 [3, 0, 0, 0, 1, 0x0F, 0xFF, 0, 1]) ∧ (k none 0).cw.joins = (1, 5) :: [] ∧
        (cwPort (k none 0).cw 1).link = true ∧ isPlain (k none 0).cw 1 = false) ∧
      (forwards h.cw = true ∧ cwMsg h 1 5 8 [1, 0, 9, 0, 1] (frame 5 0 0 [8, 1, 0, 9, 0, 1]) ∧ cwMsg g 1 5 8 [1, 0, 9, 0, 1] (frame 5 0 0 [8, 1, 0, 9, 0, 1])) ∧
      ((9 : BitVec 12).toNat ∈ g.cw.heldAddr) ∧ ({ h.cw with state := 0 } : Cw).overflow = false ∧ (h.cw.stDepth = none ∧ h.cw.state = 2) := by
  unfold cwMsg cwGood
  refine ⟨?_, ?_, ?_, ?_, ?_, ?_, ?_, ?_, ?_, ?_, ?_, ?_, ?_, ?_, ?_⟩ <;> decide +kernel

/-- GRANT, REVOKE, RELOCATE and ROUTE in time and late; token lists that agree and differ; audits that find 127 and 128 lost. -/
theorem witness_CausewayTokens :
    let h := (node (fun c => { c with sentU := some 5, noaddr := false, addr := 3, state := 3 })).dies.host
    let g := (node (fun c => { c with isHead := true, state := 3, tokens := (List.range 64).map (fun k => (k, 1)) })).dies.host
    let r := (node (fun c => { c with sentU := some 5, noaddr := false, addr := 3, state := 3, relocs := [(0, 9)] })).dies.host
    let n := (node (fun c => { c with state := 3, tokens := (List.range 64).map (fun k => (k, 1)) })).dies.host
    let late (at' : Nat) : Bool := match h.cw.sentU with | some m => serialGe 32 m at' | none => false
    let gr (k : Byte) : List Byte := [1, 0xFF, 0, 7, 0, 0, 0, k]
    let rl : List Byte := [0, 0, 0, 0, 0, 9, 0, 1, 0, 7, 0, 1, 0, 1, 0, 4]
    (cwMsg h 0 5 4 (gr 6) (frame 5 0 0 (4 :: gr 6)) ∧ (cwPort h.cw 0).role = 0 ∧ beAt (gr 6) 0 2 = 511 ∧ late (beAt (gr 6) 4 4) = false ∧
        cwMsg h 0 5 4 (gr 5) (frame 5 0 0 (4 :: gr 5)) ∧ late (beAt (gr 5) 4 4) = true) ∧
      (cwMsg h 0 5 5 [0, 1, 0, 0, 0, 6] (frame 5 0 0 [5, 0, 1, 0, 0, 0, 6]) ∧ late (beAt [0, 1, 0, 0, 0, 6] 2 4) = false) ∧
      (cwMsg h 1 5 6 rl (frame 5 0 0 (6 :: rl)) ∧ (cwPort h.cw 1).role = 1 ∧ late (beAt rl 2 4) = false ∧ h.cw.isHead = false ∧ upPort h.cw = some 0 ∧
        standbyPeer h.cw 1 = false ∧ forwards h.cw = true ∧ standbyPeer g.cw 1 = false ∧ forwards g.cw = true ∧ cwMsg g 1 5 6 rl (frame 5 0 0 (6 :: rl)) ∧ g.cw.isHead = true) ∧
      (cwMsg h 0 5 7 rl (frame 5 0 0 (7 :: rl)) ∧ h.cw.pend = [] ∧ h.cw.addr ∉ runAddrs (relocRuns rl) ∧ h.cw.relocs.contains (beAt rl 0 2, beAt rl 2 4) = false ∧
        cwMsg r 0 5 7 rl (frame 5 0 0 (7 :: rl)) ∧ r.cw.relocs.contains (beAt rl 0 2, beAt rl 2 4) = true ∧ r.cw.sentU = h.cw.sentU ∧ forwards r.cw = true) ∧
      (∀ j, j < 64 → tget 0 h.cw.tokens j = 0) ∧ (∀ j, j < 64 → tget 0 n.cw.tokens j ≠ 0) ∧ (n.cw.pend = [] ∧ forwards n.cw = true ∧ tokenMoved n.cw 0 63 = false) ∧
      (cwGood h 0 4 (frame 4 0 0 []) ∧ cwBody (frame 4 0 0 []) = []) ∧ ((127 + 256 - (cwPort h.cw 0).acct) % 256 = 127 ∧ (cwPort h.cw 0).syncing = false ∧ (128 + 256 - (cwPort h.cw 0).acct) % 256 = 128) := by
  unfold cwMsg cwGood
  refine ⟨?_, ?_, ?_, ?_, ?_, ?_, ?_, ?_, ?_, ?_⟩ <;> decide +kernel

theorem cwBody_frame (cls flags seq : Nat) (b : List Byte) (h : b.length ≤ hLen (frame cls flags seq b).hdr) : cwBody (frame cls flags seq b) = b :=
  List.take_of_length_le h

/-- The frames of class A, whose operation codes the manual does not give, arrive as such. -/
theorem witness_CausewayTokens_classA :
    let h := (node id).dies.host
    let z (n : Nat) : List Byte := List.replicate n 0
    cwMsg h 0 4 (Config.aOp 0) (z 134) (frame 4 0 0 (Config.aOp 0 :: z 134)) ∧ cwMsg h 1 4 (Config.aOp 1) (z 2) (frame 4 0 0 (Config.aOp 1 :: z 2)) ∧
      cwMsg h 1 4 (Config.aOp 2) [127] (frame 4 0 0 [Config.aOp 2, 127]) ∧ cwMsg h 1 4 (Config.aOp 3) [] (frame 4 0 0 [Config.aOp 3]) ∧
      cwMsg h 1 4 (Config.aOp 4) [9] (frame 4 0 0 [Config.aOp 4, 9]) ∧ cwMsg h 1 4 (Config.aOp 5) [] (frame 4 0 0 [Config.aOp 5]) := by
  unfold cwMsg cwGood
  refine ⟨⟨?_, cwBody_frame _ _ _ _ ?_⟩, ⟨?_, cwBody_frame _ _ _ _ ?_⟩, ⟨?_, cwBody_frame _ _ _ _ ?_⟩, ⟨?_, cwBody_frame _ _ _ _ ?_⟩,
    ⟨?_, cwBody_frame _ _ _ _ ?_⟩, ⟨?_, cwBody_frame _ _ _ _ ?_⟩⟩ <;> decide +kernel

/-! ### Datum and Legend -/

theorem witness_TimeTransfer :
    let h := (node id).dies.host
    let q : DtPort := { dtPort0 with exNo := 7, open' := true, calN := 256, lost := 31 }
    let z (n : Nat) : List Byte := List.replicate n 0
    let d : Datum := { datum0 with anchored := true, anchorR := 1, tick := 1 }
    let b : List Byte := [2, 0, 7] ++ z 35 ++ bytesBE 8 1 ++ timeBytes (tickTime d.anchorM d.anchorT d.anchorR 1).toNat ++ [3] ++ z 8 ++ [255, 0]
    let u := (hostIs (fun h => { h with cw := { h.cw with ports := [(0, { cwPort0 0 with link := true, role := 2 })] } })).dies.host
    (portUp h.cw 0 = true ∧ (cwPort h.cw 0).role = 0 ∧ h.cw.isHead = false ∧ dtPort0.lost < 32 ∧ 31 ≤ q.lost) ∧
      (cwGood h 1 2 (frame 2 0 0 [1, 0, 7]) ∧ (cwPort h.cw 1).role = 1 ∧ beAt (cwBody (frame 2 0 0 [1, 0, 7])) 0 1 = 1) ∧
      (cwGood h 0 2 (frame 2 0 0 (2 :: 0 :: 7 :: z 66)) ∧ (cwBody (frame 2 0 0 (2 :: 0 :: 7 :: z 66))).length = 69 ∧
        beAt (cwBody (frame 2 0 0 (2 :: 0 :: 7 :: z 66))) 0 1 = 2 ∧ q.open' = true ∧ q.exNo = beAt (cwBody (frame 2 0 0 (2 :: 0 :: 7 :: z 66))) 1 2) ∧
      (b.length = 69 ∧ beAt b 0 1 = 2 ∧ beAt b 1 2 = 7 ∧ beAt b 67 1 = 255 ∧ d.anchored = true ∧ beAt b 58 1 ≠ d.anchorR ∧ 0 < beAt b 38 8 ∧ beAt b 38 8 ≤ d.tick ∧
        timeOf (slice b 46 12) = (tickTime d.anchorM d.anchorT d.anchorR (beAt b 38 8)).toNat ∧ d.ratePend ≠ some (beAt b 38 8 - 1, beAt b 58 1)) ∧
      (cwGood u 0 2 (frame 2 0 0 b) ∧ (cwPort u.cw 0).role = 2) ∧
      ((cwPort h.cw 0).link = true ∧ q.calDone = false ∧ 256 ≤ q.calN) ∧
      (({ datum0 with holdover := true } : Datum).holdover = true ∧ ({ datum0 with holdover := true } : Datum).cls ≤ 4) := by
  unfold cwGood
  refine ⟨?_, ?_, ?_, ?_, ?_, ?_, ?_⟩ <;> decide +kernel

/-- A tick before and after a pending rate change, a source of each kind at the head. -/
theorem witness_TicksAndSource :
    let d : Datum := { datum0 with ratePend := some (5, 3), ctrl := 0x012C0A01 }
    let h := (node (fun c => { c with isHead := true })).dies.host
    (∀ n c, d.ratePend = some (n, c) → (5 : W64).toNat ≤ n) ∧ (d.holdover = false ∧ ({ d with holdover := true } : Datum).holdover = true ∧ d.ratePend = some (5, 3) ∧ 5 < (6 : W64).toNat) ∧
      ((hostWeir (fun w => { w with farPresent := true })).dies.host.com.weir.farPresent = true ∧ d.cls ≤ 4) ∧ bit (0x301 : W32) 0 = true ∧
      (bit (0x80000001 : W32) 31 = true ∧ h.cw.isHead = true) ∧
      (fld d.ctrl 2 0 = 1 ∧ fld ({ d with ctrl := 2 } : Datum).ctrl 2 0 = 2 ∧ fld ({ d with ctrl := 3 } : Datum).ctrl 2 0 = 3) := by
  refine ⟨?_, ?_⟩
  · intro n c h
    cases h
    decide
  · decide

/-- The host side served by its cores. -/
def served (l : Legend) (c : Cw → Cw) : State := hostIs (fun h => { h with leg := l, cw := c h.cw, boot := { h.boot with inRom := false } })

/-- A request of MAINTENANCE with a body; one whose row names the entry, with an argument of a type. -/
def ask (body : List Byte) : LegReq := ⟨0, 0xF001, 2, 2, 0, BitVec.ofNat 16 body.length, body, false, false, .chain, none⟩
def askAct (typ : Nat) (d : List Byte) : LegReq :=
  ⟨0, 0xF001, 2, 2, 0, BitVec.ofNat 16 (6 + d.length), bytesBE 1 typ ++ bytesBE 2 d.length ++ d, false, false, .chain, none⟩

/-- The node in session with the tool at endpoint 9 of its gateway. -/
def tooled (l : Legend) (c : Cw → Cw) : HostDie := (served { l with sessions := [(0, some ⟨0, 2, 9, 0⟩)] } c).dies.host

theorem serving_served (l : Legend) (c : Cw → Cw) : serving (served l c).dies.host := ⟨rfl, rfl, rfl⟩

theorem fresh_empty (l : Legend) (c : Cw → Cw) (q : LegReq) (h1 : l.fwd = [] ∧ l.saving = none ∧ l.quoting = none ∧ l.dups = []) (h2 : q.epoch = 0) :
    fresh (served l c).dies.host q := by
  obtain ⟨a, b, d, e⟩ := h1
  have hl : (served l c).dies.host.leg = l := rfl
  refine ⟨?_, ?_, Or.inl h2⟩
  · simp [inFlight, hl, a, b, d]
  · simp [dupCase, dupOuts, hl, e]

/-- The name of an entry in a body; the node has the readable entry, on the field side or not. -/
def entryName (idx sub : Nat) : List Byte := bytesBE 2 idx ++ bytesBE 1 sub
def readableEntry (h : HostDie) (idx sub : Nat) (field : Bool) : Bool :=
  match entryOf State.reset.dies.field idx sub with
  | .row r => decide (accOk r .read = true) && (decide (r.rr ≤ 3) && (!stateBad h r idx sub && (r.field == field && decide (r.size ≤ 256))))
  | _ => false

/-- A request of the chain and one of the tool in session; the tool's requests to another node, without and with a session. -/
theorem witness_LegendRequests :
    let h := (served legend0 id).dies.host
    let q := ask (entryName 0 8)
    let tq : LegReq := { q with rid := 0, via := .tool 9 }
    let t (ds : List DupReq) : HostDie := (gate (tooled { legend0 with dups := ds } id) tq).1
    let k := tooled legend0 (fun c => { c with noaddr := false, addr := 5, ports := [(0, { cwPort0 0 with link := true })] })
    let busy : HostDie := (served { legend0 with fwd := [⟨0xF001, 2, 2, 0, .chain, 0, 1, .act, 0, false⟩] } id).dies.host
    let m : LegMsg := ⟨129, 0, 0, 2, 2, 0, 0, 0, []⟩
    (serving h ∧ serving k ∧ gate h q = (h, q) ∧ fresh h q ∧ framed q 3) ∧
      (sessionOf h 9 tq.rid.toNat = none ∧ (1 : Nat) ≠ 0 ∧ sessionOf k 9 tq.rid.toNat = some (0, ⟨0, 2, 9, 0⟩) ∧ 7 ≠ k.cw.addr ∧ ownPort k.cw 7 = some 0 ∧
        (cwPort k.cw 0).link = true ∧ portSends k.cw 0 3 = true ∧ k.cw.noaddr = false) ∧
      ({ q with blen := 4 } : LegReq).blen.toNat ≠ q.body.length ∧ (service State.reset.dies.field 1 q (ctxOf q true) q.body).isSome = true ∧
      (inFlight busy 0xF001 2 = true ∧ inFlight h 0xF001 2 = false) ∧ localAsker (gate (tooled legend0 id) tq).2 ∧
      (inFlight (t []) 0 2 = false ∧ dupOuts (t [⟨0, [(2, .answered m)]⟩]) 0 = some [(2, .answered m)] ∧ m.rid = 0 ∧
        dupOuts (t [⟨0, [(0x8001, .abandoned)]⟩]) 0 = some ((0x8001, .abandoned) :: []) ∧ (0x8001 + 65536 - 2) % 65536 = 32767 ∧
        64 ≤ (t ((List.range 64).map (fun k => ⟨k + 1, []⟩))).leg.dups.length ∧ dupOuts (t ((List.range 64).map (fun k => ⟨k + 1, []⟩))) 0 = none ∧
        dupCase (t []) 0 2 = .serve ∧ (5 : W32) ≠ 0 ∧ 5 ≠ (t []).leg.epoch) ∧
      (readableEntry h 0 8 false = true ∧ (hostValue State.reset.dies.field (legCount h 0) 0 8).length ≤ 256) ∧
      readableEntry (hostIs (fun h => { h with com := { h.com with weir := { weir0 with farPresent := true } } })).dies.host 0x4000 2 true = true ∧
      (utf8Ok [0xC3, 0xA9] = true ∧ framed (ask (entryName 0 8 ++ [0x0D] ++ bytesBE 4 0 ++ bytesBE 2 2 ++ [0xC3, 0xA9])) 12) ∧
      (h.cw.slotMap.pend = none ∧ 0x81FF % 1024 < slotCount h ∧ h.cw.tookS = none) := by
  refine ⟨⟨serving_served _ _, ⟨rfl, rfl, rfl⟩, rfl, fresh_empty _ _ _ ⟨rfl, rfl, rfl, rfl⟩ rfl, ⟨rfl, by decide, by decide⟩⟩, by decide, by decide, ?_, by decide,
    ⟨9, by decide, by decide⟩, by decide, ⟨?_, ?_⟩, ?_, ⟨by decide, ⟨rfl, by decide, by decide⟩⟩, ⟨rfl, ?_, rfl⟩⟩ <;>
  decide +kernel

/-- The node with the Legend server `l`, the Causeway part that `c` gives, and the boot part and fuses that `b` and `f` give, served by its cores. -/
def owned (l : Legend) (c : Cw → Cw) (b : Boot → Boot) (f : Fuses) : HostDie :=
  let h := (served l c).dies.host
  { h with boot := b h.boot, com := { h.com with fuses := f } }

/-- A right proof opens a session, for a hash whose result has its 48 bytes; in BLANK, MAINTENANCE opens one without; fifteen sessions, a challenge not
issued, and a request of a session to close it. -/
theorem witness_LegendSessionsAndNode :
    let ch := List.replicate 16 (0x5A : Byte)
    let key := List.replicate 32 (0x11 : Byte)
    let mac := Config.hmac384 key (ch ++ bytesBE 1 0 ++ bytesBE 8 0)
    let d : List Byte := 0 :: ch ++ mac
    let e : List Byte := 2 :: ch ++ List.replicate 48 0
    let via (q : LegReq) : LegReq := { q with via := .tool 9 }
    let l : Legend := { legend0 with keys := [(1, some key)], chal := [⟨ch⟩] }
    let h := owned l (fun c => { c with state := 4, isHead := true }) id fuses0
    let full := owned { l with sessions := (List.range 15).map (fun i => (i, some ⟨4096 * i, 0, 1, 0⟩)) } (fun c => { c with state := 4 }) id fuses0
    let tq : LegReq := { askAct 0x0E [] with rid := 0, via := .tool 9 }
    let v := (gate (tooled legend0 id) tq).1
    let proof (w : HostDie) (d : List Byte) : Prop := match tget none w.leg.keys (beAt d 0 1 + 1) with
      | some y => slice d 17 48 = Config.hmac384 y (slice d 1 16 ++ bytesBE 1 (beAt d 0 1) ++ bytesBE 8 w.com.fuses.udn.toNat)
      | none => False
    (serving h ∧ gate h (ask []) = (h, ask []) ∧ fresh h (ask []) ∧ serving (tooled legend0 id) ∧ fresh v tq) ∧
      (gate h (via (askAct 0x0E e)) = (h, { via (askAct 0x0E e) with role := 0xFF }) ∧ (gate full (via (askAct 0x0E e))).1 = full ∧ h.leg.lockout = false ∧ h.cw.state = 4) ∧
      (mac.length = 48 → d.length = 65 ∧ beAt d 0 1 = 0 ∧ h.leg.chal.any (fun c => decide (c.bytes = slice d 1 16)) = true ∧ proof h d) ∧
      (e.length = 65 ∧ beAt e 0 1 = 2 ∧ h.leg.chal.any (fun c => decide (c.bytes = slice e 1 16)) = true ∧ lcHost h ≤ 1 ∧ (askAct 0x0E e).late = false ∧
        tget none h.leg.sessions 0 = none) ∧
      ((∀ j, j < 15 → tget none full.leg.sessions j ≠ none) ∧ full.leg.chal = h.leg.chal) ∧ legend0.chal.any (fun c => decide (c.bytes = slice e 1 16)) = false ∧
      (framed (askAct 0x0E []) 6 ∧ (askAct 0x0E []).body = bytesBE 1 0x0E ++ bytesBE 2 0 ++ []) ∧
      ((gate (tooled legend0 id) tq).2.rid.toNat % 4096 = ownAddr v.cw ∧ (tget none v.leg.sessions 0).isSome = true ∧ roleRank (gate (tooled legend0 id) tq).2.role.toNat = 3) ∧
      h.leg.saving = none ∧ (configState State.reset.dies.field h = true ∧ h.cw.isHead = true ∧ v.cw.isHead = false) ∧
      (h.cw.slotMap.pend = none ∧ h.cw.slotMap.sh.any (fun e => e.2.testBit 15 && decide (slotCount h ≤ e.2 % 1024)) = false ∧
        twice h.cw.retMap.sh 32 = false ∧ h.cw.tookS = none ∧ h.cw.sentU = none ∧ h.cw.formedS = none) := by
  intro ch key mac d e via l h full tq v proof
  refine ⟨⟨⟨rfl, rfl, rfl⟩, rfl, ⟨by decide, by decide, Or.inl rfl⟩, ⟨rfl, rfl, rfl⟩, ⟨by decide, by decide, Or.inl rfl⟩⟩, ⟨rfl, by decide +kernel, rfl, rfl⟩, ?_, by decide, by decide,
    by decide, ⟨⟨rfl, by decide, by decide⟩, rfl⟩, by decide, rfl, by decide, by decide⟩
  intro hm
  refine ⟨?_, rfl, by decide, ?_⟩
  · show (0 :: ch ++ mac).length = 65
    rw [List.length_append, hm]; rfl
  · show (mac.take 48) = mac
    exact List.take_of_length_le (by omega)

/-- A subscription of the name, a watch of the counter of discarded requests that has reached its threshold, a request passed on, a node behind a gap. -/
theorem witness_LegendLater :
    let f := State.reset.dies.field
    let w : Fwd := ⟨0xF001, 2, 2, 0, .chain, 0x0010, 3, .act, 0, false⟩
    let x : Sub := ⟨3, 0, .tool 9, 0, 8, 100, true, none, 7⟩
    let h := owned { legend0 with
      subs := [x], sessions := [(0, some ⟨0, 0, 9, 0⟩)], fwd := [w], saving := some w, quoting := some w, watches := [(2, [0x92, 0, 1, 1, 0, 0, 0, 0])] } id id fuses0
    let n := (node (fun c => { c with addr := 5, noaddr := false })).dies.host
    h.com.runs = true ∧ (h.leg.subs.find? (fun y => decide (y.id = 3)) = some x ∧ (∃ ep, x.via = .tool ep ∧ ep ≠ 0) ∧ (tget none h.leg.sessions (x.rid / 4096)).isSome = true ∧
        ¬(x.onChg = true ∧ x.last = some [])) ∧ readableEntry h 0 8 false = true ∧
      (∃ w ∈ h.leg.fwd, w.rid = (0xF001 : BitVec 16).toNat ∧ w.rseq = (2 : BitVec 16).toNat) ∧ h.leg.saving = some w ∧ h.leg.quoting = some w ∧
      ((watchRec h 2).2.2.1 = true ∧ bit h.leg.fired 2 = false ∧ (ofBytesBE (tget [] h.leg.extra (entKey 0x9000 0x21))).testBit 2 = false ∧
        watchHigh f h 2 = true ∧ watchVal f h 2 = some 0 ∧ (watchRec h 0).2.2.1 = false ∧ (watchRec h 1).2.2.1 = false) ∧
      (n.cw.isHead = false ∧ n.cw.noaddr = false ∧ n.leg.profEp ≠ some n.leg.epoch ∧ n.coresRun = true ∧ upPort n.cw = some 0) := by
  intro f w x h n
  refine ⟨rfl, ⟨rfl, ⟨9, rfl, by decide⟩, by decide, by decide⟩, by decide +kernel, ⟨w, by decide, rfl, rfl⟩, rfl, rfl, by decide +kernel, by decide⟩

/-- A token of a kind with an argument byte for the node of UDN 0, with a challenge of zeros and further bytes `x`. -/
def token (kind arg : Byte) (x : List Byte) : List Byte := [kind, arg, 0, 0] ++ List.replicate 24 0 ++ fixLen 196 x

/-- The key that signs such a token, as fuses that name it in slot 0 hold it. -/
def signer (t : List Byte) : List Byte := Config.ecExpand (slice t 76 49)
def trusting (t : List Byte) (lc : Nat) (p : Nat) : Fuses :=
  { (if lc = 0 then fuses0 else lcBlow fuses0 lc) with programmed := p, digests := [(0, Config.sha384 (signer t))] }

/-- Where the signature checks, the token of each kind is accepted. -/
theorem token_ok (kind arg : Byte) (x : List Byte) (lc p : Nat) (hp : p.testBit 0 = true)
    (hs : Config.ecdsaOk (signer (token kind arg x)) (slice (token kind arg x) 128 96) ((token kind arg x).take 128) = true) :
    tokenOk (owned legend0 id (fun b => { b with chal := some ⟨List.replicate 16 0⟩ }) (trusting (token kind arg x) lc p)) false (token kind arg x) = true := by
  have hl : (fixLen 196 x).length = 196 := by simp [fixLen]; omega
  have h1 : (token kind arg x).length = 224 := by simp [token, hl]
  have h2 : beAt (token kind arg x) 4 8 = 0 := rfl
  have h3 : beAt (token kind arg x) 2 1 = 0 := rfl
  have h4 : slice (token kind arg x) 12 16 = List.replicate 16 0 := rfl
  have h5 : (trusting (token kind arg x) lc p).udn = 0 := by unfold trusting; split <;> rfl
  have h6 : (trusting (token kind arg x) lc p).revoked = 0 := by unfold trusting; split <;> rfl
  have h7 : (trusting (token kind arg x) lc p).programmed = p := rfl
  have h8 : tget [] (trusting (token kind arg x) lc p).digests 0 = Config.sha384 (signer (token kind arg x)) := rfl
  have h9 : slotLive (trusting (token kind arg x) lc p) 0 = true := by simp only [slotLive, h6, h7, hp]; rfl
  have ha : (owned legend0 id (fun b => { b with chal := some ⟨List.replicate 16 0⟩ }) (trusting (token kind arg x) lc p)).com.fuses = trusting (token kind arg x) lc p := rfl
  have hb : (owned legend0 id (fun b => { b with chal := some ⟨List.replicate 16 0⟩ }) (trusting (token kind arg x) lc p)).boot.chal = some ⟨List.replicate 16 0⟩ := rfl
  unfold tokenOk tokenBase
  rw [ha, hb, h1, h2, h3, h4, h5, h8, h9]
  have hs' := hs
  unfold signer at hs' ⊢
  simp only [hs']
  simp

/-- The field die's own part of the judgement of such a token. -/
theorem token_base (kind arg : Byte) (x : List Byte) (lc p : Nat) (hp : p.testBit 0 = true)
    (hs : Config.ecdsaOk (signer (token kind arg x)) (slice (token kind arg x) 128 96) ((token kind arg x).take 128) = true) :
    tokenBase (trusting (token kind arg x) lc p) (token kind arg x) = true := by
  have h := token_ok kind arg x lc p hp hs
  unfold tokenOk at h
  simp only [Bool.and_eq_true] at h
  exact h.1.1

/-- The live slots are those programmed; none is revoked. -/
theorem live_trusting (t : List Byte) (lc p : Nat) : liveSlots (trusting t lc p) = (List.range 4).filter (fun k => p.testBit k) := by
  have h6 : (trusting t lc p).revoked = 0 := by unfold trusting; split <;> rfl
  have h7 : (trusting t lc p).programmed = p := rfl
  refine List.filter_congr fun k hk => ?_
  have : k < 4 := List.mem_range.mp hk
  simp [slotLive, h6, h7, this]

/-- A token for another node. -/
def strayToken : List Byte := [5, 1, 0, 0] ++ List.replicate 24 1 ++ fixLen 196 []

theorem stray_base (f : Fuses) (h : f.udn = 0) : tokenBase f strayToken = false := by
  have h1 : decide (beAt strayToken 4 8 = (0 : W64).toNat) = false := by decide
  unfold tokenBase
  rw [h]
  simp only [h1, Bool.and_false, Bool.false_and]

theorem witness_TrustActions :
    let t (k : Byte) : List Byte := token k 1 []
    let ok (k : Byte) : Prop := Config.ecdsaOk (signer (t k)) (slice (t k) 128 96) ((t k).take 128) = true
    let h (k : Byte) (lc p : Nat) : HostDie := owned legend0 id (fun b => { b with chal := some ⟨List.replicate 16 0⟩ }) (trusting (t k) lc p)
    let good (k : Byte) (lc p : Nat) : Prop := tokenOk (h k lc p) false (t k) = true ∧ beAt (t k) 0 1 = k.toNat
    let bad : List Byte := strayToken
    let f : FieldDie := (fieldIs (fun f => { f with com := { f.com with fuses := trusting (t 1) 2 3, weir := { weir0 with farPresent := true } } })).dies.field
    (∀ k, ok k → good k 2 3) ∧ (∀ k, (t k).length = 224) ∧ (∀ k, beAt (t k) 1 1 = 1) ∧
      (serving (h 1 2 3) ∧ gate (h 1 2 3) (askAct 0x0E (t 1)) = (h 1 2 3, askAct 0x0E (t 1))) ∧ fresh (h 1 2 3) (askAct 0x0E (t 1)) ∧
      (lcHost (h 1 0 1) = 0 ∧ lcHost (h 1 1 1) = 1 ∧ lcHost (h 2 2 3) = 2 ∧ liveSlots (trusting (t 1) 1 1) ≠ [] ∧ liveSlots (trusting (t 1) 1 0) = []) ∧
      (tokenOk (h 1 2 3) false [] = false ∧ bad.length = 224 ∧ tokenOk (h 5 2 3) false bad = false) ∧
      ((f.com.runs = true ∧ f.com.weir.farPresent = true ∧ lcFieldIn f ≠ 4) ∧ (h 1 2 3).boot.chal.isSome = true ∧
        (ok 1 → (tokenBase f.com.fuses (t 1) && chalOk (List.replicate 16 0) f.chalUsed false (t 1)) = true) ∧ beAt bad 0 1 = 5 ∧
        (tokenBase f.com.fuses bad && chalOk (List.replicate 16 0) f.chalUsed false bad) = false) ∧
      ((0 :: List.replicate 48 0 : List Byte).length = 49 ∧ fuses0.programmed.testBit 0 = false ∧ (trusting (t 4) 2 1).programmed.testBit 1 = false) ∧
      (beAt (t 5) 2 1 ≠ 1 ∧ slotLive (trusting (t 5) 2 3) 1 = true ∧ liveSlots (trusting (t 5) 2 3) ≠ [1] ∧ liveSlots (trusting (token 5 0 []) 2 1) = [0] ∧ beAt (token 5 0 []) 1 1 = 0) ∧
      (∀ k p, (h k 3 p).boot.quoteBusy = false ∧ lcHost (h k 3 p) = 3) := by
  intro t ok h good bad f
  refine ⟨fun k hk => ⟨token_ok k 1 [] 2 3 rfl hk, ?_⟩, fun _ => rfl, fun _ => rfl, ⟨⟨rfl, rfl, rfl⟩, rfl⟩, ⟨rfl, rfl, Or.inl rfl⟩, ⟨rfl, rfl, rfl, ?_, ?_⟩,
    ⟨rfl, rfl, ?_⟩, ⟨⟨rfl, rfl, by decide⟩, rfl, fun hk => ?_, rfl, ?_⟩, ⟨rfl, rfl, ?_⟩, ⟨by decide, ?_, ?_, ?_, rfl⟩, fun _ _ => ⟨rfl, ?_⟩⟩
  · show ofBytesBE [k] = k.toNat
    simp [ofBytesBE, ofBytesLE]
  · rw [live_trusting]; decide
  · rw [live_trusting]; decide
  · show (tokenBase (trusting (t 5) 2 3) strayToken && _ && _) = false
    rw [stray_base _ rfl]; rfl
  · show (tokenBase (trusting (t 1) 2 3) (t 1) && _) = true
    rw [token_base 1 1 [] 2 3 rfl hk]; decide
  · show (tokenBase (trusting (t 1) 2 3) strayToken && _) = false
    rw [stray_base _ rfl]; rfl
  · show Nat.testBit 1 1 = false; decide
  · show (decide (1 < 4) && Nat.testBit 3 1 && !Nat.testBit 0 1) = true; decide
  · rw [live_trusting]; decide
  · rw [live_trusting]; decide
  · show max (lcOf (lcBlow fuses0 3)) 0 = 3; decide

/-- A source with others left, an image that the ROM chose, registers of each kind, an update in each state. -/
theorem witness_BootAndUpdate :
    let h := State.reset.dies.host
    let n := (node id).dies.host
    let b := boot0
    (h.com.runs = true ∧ h.boot.inRom = true ∧ h.boot.sources = 1 :: [2, 3] ∧ ({ b with sources := [2] } : Boot).sources = 2 :: []) ∧ portUp n.cw 0 = true ∧
      (∀ push, let g : HostDie := { h with boot := { b with sources := [3], xfer := { xfer0 with state := 3 }, push := push } }
        g.boot.inRom = true ∧ g.coresRun = true ∧ romTests g.com = false ∧ (hostAuth g (pushBlock g.boot) = true → ∃ c, chooseImage g = some c ∧ c.verified = true)) ∧
      (bit 0x103 8 = true ∧ fld 0x103 2 0 ≠ 0 ∧ bit 0x100 8 = true ∧ fld 0x100 2 0 = 0 ∧ bit ({ b with ksCtrl := 1 } : Boot).ksCtrl 0 = true ∧ bit (0 : W32) 8 = false) ∧
      (bit 0x80010000 31 = true ∧ bit ({ b with ksCtrl := 4 } : Boot).ksCtrl 2 = true ∧ bit b.ksCtrl 2 = false ∧ b.svn.toNat < ({ b with ksVer := 1 } : Boot).ksVer.toNat ∧
        b.ksVer.toNat ≤ b.svn.toNat) ∧
      (gated (served legend0 id).dies.host (askAct 4 (bytesBE 4 25165824)) ∧ fresh (served legend0 id).dies.host (askAct 4 (bytesBE 4 25165824))) ∧ framed (askAct 4 (bytesBE 4 25165824)) 10 ∧
      ({ b with xfer := { xfer0 with state := 3 } } : Boot).xfer.state = 3 := by
  refine ⟨⟨rfl, rfl, rfl, rfl⟩, by decide, ?_, by decide, by decide, ⟨⟨rfl, rfl⟩, fresh_empty _ _ _ ⟨rfl, rfl, rfl, rfl⟩ rfl⟩, ⟨rfl, by decide, by decide⟩, rfl⟩
  intro push g
  refine ⟨rfl, rfl, rfl, fun hg => ⟨⟨4, true, pushBlock g.boot⟩, ?_, rfl⟩⟩
  show (if pushWhole g && hostAuth g (pushBlock g.boot) then some (⟨4, true, pushBlock g.boot⟩ : Choice) else none) = _
  rw [hg]; rfl

/-! ### DMA, serial ports, integrity, registers, held dies -/

/-- The host side with one DMA queue and other serial ports. -/
def hostDmaIs (n : Nat) (q : DmaQ) (g : SppBlk → SppBlk) : State :=
  hostIs (fun h => { h with com := { h.com with dma := { dma0 with qs := [(n, q)] } }, spp := g h.spp })

/-- A descriptor: its words 0 to 6. -/
def desc (op len src dst opnd arg fmt : W32) : DmaCur := ⟨[op, len, src, dst, opnd, arg, fmt], 0, 0, [], 0⟩

/-- A queue with one descriptor posted; one that copies or fills 16 bytes; one that ends at once. -/
theorem witness_DmaQueues :
    let q : DmaQ := { dmaQ0 with base := 0x08001000, en := true, pidx := 1 }
    let s := hostDmaIs 3 q id
    let run (c : DmaCur) : DmaQ := { q with cidx := 1, cur := some c }
    let copy := desc 1 16 0x08000000 0x08000010 0 0 0
    let t := hostDmaIs 3 (run copy) id
    let z (n : Nat) : List Byte := List.replicate n 0
    ((comOf .host s.dies).runs = true ∧ 3 < queuesOf .host ∧ 15 < queuesOf .field) ∧
      (bit 0x605 0 = true ∧ bit 0x605 9 = true ∧ bit 0x605 10 = true ∧ bit 0x205 10 = false ∧ bit 0x204 0 = false) ∧
      (q.pidx < 65536 ∧ q.didx < 65536 ∧ q.cidx < 65536 ∧ (q.cidx + 65536 - q.didx) % 65536 = b2n q.cur.isSome ∧
        (q.pidx + 65536 - q.didx) % 65536 = 1 ∧ 1 ≤ 2 ^ (q.size + 2)) ∧
      ({ q with cidx := 1, pidx := 0 } : DmaQ).cidx ≠ 0 ∧
      dmaGranted (dmaOf .host s) (queuesOf .host) = some 3 ∧ busReads .host s 0x08001000 28 (z 28) ∧ dmaBadop (wordsOfBytes (z 28)) false = false ∧
      (dmaGranted (dmaOf .host t) (queuesOf .host) = some 3 ∧ fld (wAt copy.words 0) 7 0 = 1 ∧ copy.read = copy.done ∧ copy.done % 16 = 0 ∧
        copy.done + 16 ≤ fld (wAt copy.words 1) 23 0 ∧ (wAt copy.words 2).toNat % 16 = 0 ∧ (wAt copy.words 3).toNat % 16 = 0 ∧ (z 16).length = 16 ∧
        busReads .host t 0x08000000 16 (z 16) ∧ busTakes .host t 0x08000010 (z 16) = true) ∧
      (fld (wAt (desc 2 0 0 0 0 0 0).words 0) 7 0 = 2 ∧ fld (wAt (desc 2 0 0 0 0 0 0).words 1) 23 0 = 0 ∧ fld (wAt (desc 0 0 0 0 0 0 0).words 0) 7 0 = 0) := by
  refine ⟨?_, ?_, ?_, ?_, ?_, rfl, ?_, ⟨?_, ?_, ?_, ?_, ?_, ?_, ?_, ?_, rfl, ?_⟩, ?_⟩ <;> decide +kernel

/-- A port of each kind: unbound, bound to a queue that waits with an SPP entry, XIP with a line, the slave before an operation. -/
theorem witness_SerialPorts :
    let b := sppBlk0
    let c : DmaCur := desc 3 16 0x08000000 0x08000010 0x000B0000 0 0x00A20000
    let s := hostDmaIs 3 { dmaQ0 with en := true, pidx := 1, cidx := 1, cur := some c }
      (fun b => { b with p0 := { b.p0 with ctl := 0x14030001 }, p1 := { b.p1 with ctl := 0x143F0003 } })
    let h := s.dies.host
    let x (p : Spp) : HostDie := (hostDmaIs 0 dmaQ0 (fun b => { b with p0 := p, xipMode := 0x80000000, lines := [(5, List.replicate 64 7)] })).dies.host
    let r := (served legend0 id).dies.host
    let post : SppBlk := { b with sstat := 1, op := .regWrite, reqP := 1, reqC := 1 }
    (h.com.runs = true ∧ bit (0x143F0000 : W32) 0 = false ∧ 4 ≤ fld 0x143F0000 31 24 ∧ fld 0x143F0000 21 16 = 63 ∧ 48 ≤ fld b.p0.ctl 21 16 ∧
        bit (0x143F0001 : W32) 0 = true ∧ bit (0x143F0001 : W32) 1 = false) ∧
      (fld h.spp.p0.ctl 21 16 < 48 ∧ (dmaQ h.com.dma (fld h.spp.p0.ctl 21 16)).cur = some c ∧ fld (wAt c.words 0) 7 0 = 3 ∧ sppBound h 3 = some 0 ∧
        dmaGranted h.com.dma 48 = some 3 ∧ sppSlave h 0 = false ∧ bit h.spp.p0.ctl 0 = true ∧ h.spp.p0.stopped = false ∧ bit h.spp.p0.ctl 2 = false ∧
        h.spp.p0.keep = none ∧ xipOn h = false ∧ bit (wAt c.words 6) 23 = true ∧ bit (wAt c.words 6) 18 = false ∧ fld (wAt c.words 1) 23 0 = 16 ∧
        bit (wAt c.words 6) 17 = true ∧ (wAt c.words 2).toNat % 16 = 0) ∧
      busReads .host s 0x08000000 16 (List.replicate 16 0) ∧ busTakes .host s 0x08000010 (fixLen 16 []) = true ∧
      (bit ({ spp0 with ctl := 0x143F0005, active := true } : Spp).ctl 2 = true ∧ ({ spp0 with waitSel := true } : Spp).stopped = false) ∧
      (xipOn (x spp0) = true ∧ (0x17F : BitVec 28).toNat / 64 = 5 ∧ (0x180 : BitVec 28).toNat / 64 ≠ 5 ∧ spp0.keep = none ∧ spp0.stopped = false ∧
        bit spp0.ctl 2 = false ∧ xipOn (x { spp0 with ctl := 4 }) = true ∧ bit ({ spp0 with ctl := 4 } : Spp).ctl 2 = true ∧ spp0.active = false) ∧
      (slaveOn h = true ∧ b.op = .idle ∧ b.rspWait = [] ∧ 32 < (fld 33 7 0 + 256 - b.reqC) % 256 ∧ (fld 32 7 0 + 256 - b.reqC) % 256 ≤ 32 ∧ h.e.err = []) ∧
      (b.reqP = b.reqC ∧ b.reqC < 256 ∧ fld (1 : W32) 7 0 = (b.reqC + 1) % 256 ∧ r.coresRun = true ∧ r.e.err = [] ∧ post.sstat.testBit 0 = true ∧
        (let g := toolMsg 0 ((List.range 1024).map (fun i => rd8 r.e.mem i) |>.take 16) State.reset.dies.field (withSpp r post)
         g.spp.reqP = g.spp.reqC)) ∧
      (slaveHeader .regRead ≤ 48 ∧ (48 - slaveHeader .regRead) % 32 = 0 ∧ 48 % 8 = 0) := by
  refine ⟨?_, ?_, rfl, ?_, ?_, ?_, ?_, ?_, ?_⟩ <;> decide +kernel

/-- A march of each kind on a bank that allows it, a row named, a spare left or none, a reading at and below the limit. -/
theorem witness_IntegrityCommands :
    let f := State.reset.dies.field
    let i := integ0
    let r : RowId := ⟨resOf .x, 3⟩
    ((comOf .host State.reset.dies).runs = true ∧ bit (0x110 : W32) 8 = true ∧ bit (0x110 : W32) 9 = false ∧ fld 0x110 5 4 = 1 ∧ fld 0x120 5 4 = 2 ∧ fld 0x130 5 4 = 3) ∧
      ((integBank .field (fld 0x110 3 0)).isSome = true ∧ integBank .field (fld 0x11F 3 0) = none ∧ i.march = [] ∧ (∃ e ∈ ({ i with march := [(2, false)] } : Integ).march, e.1 = 2) ∧ f.mer.running = false ∧
        (List.range 6).any (fun k => decide (integBank .field k = some .x)) = true) ∧
      (bit (0x200 : W32) 8 = false ∧ bit (0x200 : W32) 9 = true) ∧ (3 < bankRows .x ∧ 0 < resOf .x ∧ i.cand = [] ∧ i.copying = none ∧ i.copied = []) ∧
      (bit (0x80000003 : W32) 31 = true ∧ r ∉ i.cand ∧ fld 0x80063FFF 19 16 = 6 ∧ bankRows .h0 ≤ fld 0x8000FFFF 15 0) ∧
      (1 ≤ bankNo .x ∧ r ∈ ({ i with cand := [r] } : Integ).cand ∧ ledUsed f.com (resOf .x) < sparesOf (resOf .x) ∧
        sparesOf (resOf .x) ≤ ledUsed ({ f.com with integ := { i with used := [(1, 32)] } }) (resOf .x)) ∧
      rowLeft f.com r ≠ 0 ∧ (420 ≤ (420 : BitVec 12).toInt ∧ ¬(420 ≤ (419 : BitVec 12).toInt)) := by
  refine ⟨?_, ?_, ?_, ?_, ?_, ?_, ?_, ?_⟩ <;> decide +kernel

theorem witness_RegistersWriteAndRead : State.reset.dies.host.com.runs = true ∧ State.reset.dies.field.com.runs = true := by decide

/-- A step of each die that holds its reset: a command for the other die goes on. -/
theorem witness_HeldDiesStand :
    (∃ t, exec (.resetBallLow .field) State.reset = .next t ∧ fieldHeld t.dies.field t) ∧
      ∃ t, exec (.resetBallLow .host) State.reset = .next t ∧ hostHeld t.dies.host t := by
  refine ⟨⟨_, rfl, rfl, by decide +kernel, fun c hc => absurd hc (List.not_mem_nil)⟩, ⟨_, rfl, rfl, by decide +kernel, fun c hc => absurd hc (List.not_mem_nil)⟩⟩

theorem witness_HeldDiesStand_step : ∃ s t, step s = .next t ∧ s.pending = [.hostPowerOn true] ∧ fieldHeld s.dies.field s := by
  refine ⟨{ (fieldIs (fun f => { f with com := { f.com with por := true } })) with pending := [.hostPowerOn true] }, _, rfl, rfl, rfl, rfl, ?_⟩
  intro c hc
  have h : c = .hostPowerOn true := by simpa using hc
  subst h
  exact ⟨Instr.noConfusion, fun _ _ _ => Instr.noConfusion⟩

/-! ### Words of the engine, bit by bit from R87 to R92 and R117

Fields of format A: condition, major opcode, F, SAT, PF, UNIT, ACD, RA, RB, XOP, YOP, ZOP, SUB, SHIFT, OFMT. -/

theorem test_decode_mac : decodeMeridian 0b0000_000010_1_1_01_1_101_0011_0100_000000000_000000000_000000000_00001_0000_00 =
    .mac ⟨0, 1, 1, 1, 1, 5, 3, 4, 0, 0, 0, 1, 0, 0⟩ := by decide
theorem test_decode_tap : decodeMeridian 0b0000_001001_0_0_00_0_000_0000_0000_010110010_010000010_000000000_00000_0000_00 =
    .tapOp ⟨0, 0, 0, 0, 0, 0, 0, 0, 0x0B2, 0x082, 0, 0, 0, 0⟩ := by decide
theorem test_decode_exts : decodeMeridian 0b0101_001111_1_1_00_0_010_0110_0000_100010010_000000000_101110011_00001_0011_10 =
    .extsOp ⟨5, 1, 1, 0, 0, 2, 6, 0, 0x112, 0, 0x173, 1, 3, 2⟩ := by decide
theorem test_decode_acc_ldf : decodeMeridian 0b0000_010000_0_0_00_0_111_1111_0000_000000000_000000000_000000000_01000_0000_00 =
    .accLdf ⟨0, 0, 0, 0, 0, 7, 15, 0, 0, 0, 0, 8, 0, 0⟩ := by decide
theorem test_decode_alu_avg : decodeMeridian 0b0001_010001_1_0_00_0_000_0101_0110_000000000_000000000_000000000_01000_0000_00 =
    .aluAvg ⟨1, 1, 0, 0, 0, 0, 5, 6, 0, 0, 0, 8, 0, 0⟩ := by decide
theorem test_decode_alu_reserved : decodeMeridian 0b0000_010001_0_0_00_0_000_0000_0000_000000000_000000000_000000000_01001_0000_00 =
    .reservedOpcode 0b0000_010001_0_0_00_0_000_0000_0000_000000000_000000000_000000000_01001_0000_00 := by decide
theorem test_decode_shf_ror : decodeMeridian 0b0000_010011_0_0_00_0_000_0001_0010_000000000_000000000_000000000_00011_1111_00 =
    .shfRor ⟨0, 0, 0, 0, 0, 0, 1, 2, 0, 0, 0, 3, 15, 0⟩ := by decide
theorem test_decode_clamp : decodeMeridian 0b0000_011100_0_0_00_0_000_1000_1001_000000000_000000000_000000000_00000_0000_00 =
    .clamp ⟨0, 0, 0, 0, 0, 0, 8, 9, 0, 0, 0, 0, 0, 0⟩ := by decide
/-- MOVR has its source code in bits [37:31], its destination code in bits [28:22] (R126). -/
theorem test_decode_movr : decodeMeridian 0b0000_010100_0000000000000000_0010001_00_0000101_00_000000000_00000000000 =
    .movr ⟨0, 0b0000000000000000_0010001_00_0000101_00_000000000_00000000000⟩ := by decide
theorem test_decode_bus : decodeMeridian 0b0000_010101_0_0_00_0_011_0001_0010_011000010_100010101_011110100_00000_0000_00 =
    .busOp ⟨0, 0, 0, 0, 0, 3, 1, 2, 0x0C2, 0x115, 0x0F4, 0, 0, 0⟩ := by decide
theorem test_decode_macp : decodeMeridian 0b0000_011111_0_0_00_0_001_0010_0100_000000000_000000000_000000000_00001_0000_00 =
    .macp ⟨0, 0, 0, 0, 0, 1, 2, 4, 0, 0, 0, 1, 0, 0⟩ := by decide

/-- Format B: REG, IOP, reserved, IMM (R90). -/
theorem test_decode_opi_add : decodeMeridian 0b0000_100000_0001111_001_000000000000_00000000000000000000000000000001 =
    .opiAdd ⟨0, 15, 1, 0, 1⟩ := by decide
theorem test_decode_stz : decodeMeridian 0b0000_100110_0000011_000_000000000000_00000000000000100000000000000111 =
    .stz ⟨0, 3, 0, 0, 0x20007⟩ := by decide

/-- Format C: BLEN, CACHE, SPAN, CHAN, CSRC, CREG, CSTEP, COUNT, BUDGET, reserved (R91). -/
theorem test_decode_rpt : decodeMeridian 0b0000_101001_00000111_1_0_0_01_0011_0000_0000000000000000_000000000000_00000 =
    .rpt ⟨0, 7, 1, 0, 0, 1, 3, 0, 0, 0, 0⟩ := by decide
theorem test_decode_rpt_chan : decodeMeridian 0b0000_101001_00000001_0_0_1_00_0000_0001_0000000001000000_000000000000_00000 =
    .rptChan ⟨0, 1, 0, 0, 1, 0, 0, 1, 64, 0, 0⟩ := by decide
theorem test_decode_rpt_span : decodeMeridian 0b0000_101001_00000111_0_1_0_00_0000_0000_0001010000000000_000001000000_00000 =
    .rptSpan ⟨0, 7, 0, 1, 0, 0, 0, 0, 5120, 64, 0⟩ := by decide

/-- Format U (R92): user instruction 1 is major opcode 38h with USEL 1. -/
theorem test_decode_user : decodeMeridian 0b0000_111000_01_000_1001_0010_010110000_000000000_000000000_00000000000000 =
    .userInstruction ⟨0, 1, 0, 9, 2, 0x0B0, 0, 0, 0⟩ := by decide
/-- Major opcode 30h is reserved (R87). -/
theorem test_decode_reserved_major : decodeMeridian 0b0000_110000_000000000000000000000000000000000000000000000000000000 =
    .reservedOpcode 0b0000_110000_000000000000000000000000000000000000000000000000000000 := by decide
/-- The command table gives its rows no bits, so a word of it spells none. -/
theorem test_table_word : decodeTableWord 64 0 = none ∧ decodeTableWord 0 5 = none := by decide

/-! ### Well-formed commands: an ill-formed term for each check, which the check refuses -/

theorem test_wf_message : (Instr.paramRead .field ⟨0, 0, 0, List.replicate 4096 0, 0, false⟩).wf = false ∧ (Instr.paramRead .field (msg 3 [1, 2])).wf = true := by
  decide +kernel
theorem test_wf_frame : (Instr.sFrame .ca { frame 0 0 0 [] with hdr := [1, 2, 3] } []).wf = false ∧ (Instr.vFrame .ca { frame 3 0 0 [] with fcs := 3 }).wf = false ∧
    (Instr.sFrame .ca (frame 0 0 0 []) [.cb]).wf = true := by decide
theorem test_wf_request : (Instr.readReq (ask (List.replicate 1009 0))).wf = false ∧ (Instr.saveCmd (ask [])).wf = true := by decide +kernel
theorem test_wf_numbers : (Instr.notifySend 32).wf = false ∧ (Instr.subscriptionLapse 32).wf = false ∧ (Instr.sessionIdle 16).wf = false ∧
    (Instr.testToken .host ⟨[1], false⟩).wf = false ∧ (Instr.laneFailed .host 5).wf = false ∧ (Instr.notifySend 31).wf = true := by decide
theorem test_wf_access : (Instr.fieldBankAccess ⟨0x10000000, 3, none⟩).wf = false ∧ (Instr.atomicAddAlias ⟨0x10000001, 2, none⟩).wf = false ∧
    (Instr.siltWindowAccess ⟨2 ^ 32, 4, none⟩).wf = false ∧ (Instr.fieldBankAccess ⟨0x10000002, 2, none⟩).wf = true := by decide
/-- A row's command with the fields of another row, and a word that is no reserved encoding. -/
theorem test_wf_engine : (Instr.aluAdd (fa 0 0 0 0 0 1 0)).wf = false ∧ (Instr.accClr (fa 0 0 0 0 0 0 0)).wf = true ∧
    (Instr.rpt (fc 0 0 1 0 1 1)).wf = false ∧ (Instr.opiMov ⟨0, 0, 1, 0, 0⟩).wf = false ∧ (Instr.reservedOpcode 0).wf = false := by decide
theorem test_wf_register : (Instr.registerWrite .host ⟨0x2, false⟩ 0).wf = false ∧ (Instr.readSnapshot .field ⟨0x30000, false⟩).wf = false ∧
    (Instr.readSnapshot .field ⟨0x24100, false⟩).wf = true := by decide
theorem test_wf_dma : (Instr.dmaPidxWrite .field 16 0).wf = false ∧ (Instr.dmaPidxWrite .host 47 0).wf = true ∧ (Instr.dmaFill .host 48 1).wf = false ∧
    (Instr.dmaSpp 48 []).wf = false ∧ (Instr.sppEnWrite 2 0).wf = false ∧ (Instr.slaveRegRead 0 ⟨65, []⟩).wf = false ∧
    (Instr.slaveRegWrite 0 ⟨(List.replicate 65 0), []⟩).wf = false ∧ (Instr.exchangeRead 0 16385 [] []).wf = false ∧
    (Instr.repairStart .field 14 0).wf = false ∧ (Instr.repairStart .field 0 0).wf = false := by decide
theorem test_wf_exchange : (Instr.exchangeWrite 0 (List.replicate 16385 0) [] []).wf = false ∧ (Instr.dmaSpp 0 (List.replicate 65537 0)).wf = false := by
  have h1 (l : List W32) : (Instr.exchangeWrite 0 l [] []).wf = decide (l.length ≤ 16384) := rfl
  have h2 (l : List Byte) : (Instr.dmaSpp 0 l).wf = (true && decide (l.length ≤ 65536)) := rfl
  rw [h1, h2, List.length_replicate, List.length_replicate]
  decide
theorem test_wf_parts : (Instr.xScrub 0x20000).wf = false ∧ (Instr.cgDescWrite 256 0).wf = false ∧ (Instr.siltLineWrite 1024 0 0).wf = false ∧
    (Instr.siltLineWrite 0 3 0).wf = false ∧ (Instr.delayLoWrite 2048 0).wf = false ∧ (Instr.siltPatrol (2 ^ 27)).wf = false := by decide
theorem test_wf_audio : (Instr.sapCfgWrite 24 0).wf = false ∧ (Instr.sapBallFrame 0 [] [] 65 0).wf = false ∧ (Instr.rateWindow 24 0 0).wf = false ∧
    (Instr.groupFrame 0).wf = false ∧ (Instr.groupFrame 5).wf = false ∧ (Instr.rsmpLock 16).wf = false ∧ (Instr.groupFrame 4).wf = true := by decide
theorem test_wf_sense : (Instr.snsCfgWrite 32 0).wf = false ∧ (Instr.senseBoundary 0 []).wf = false ∧ (Instr.snsFirWrite 8 0 0).wf = false ∧
    (Instr.snsFirWrite 7 32 0).wf = false ∧ (Instr.pdacCodeWrite 8 0).wf = false ∧ (Instr.pdacSpanClamp 8).wf = false ∧ (Instr.sineUpdate 16).wf = false := by
  decide

/-! ### Single steps, with values that the spec works out or that follow from its tables by hand -/

/-- CRC-32 of R17 and CRC-16 of R248 over the nine digits: the published check values of these two polynomials. -/
theorem test_crc : crc32 (ascii "123456789") = 0xCBF43926 ∧ hcrc (ascii "123456789") = 0x29B1 := by decide +kernel

/-- R94: LX 5, MX 2, from offset 3: 3, 0, 2, 4, 1. R95: LX 8, MX 4: 0, 4, 2, 6, 1, 5, 3, 7. -/
theorem test_modulo_pointer :
    let e : Eng := { eng0 with regs := [(0x20, 5)] }
    (modAdd e true 0 3 2, modAdd e true 0 0 2, modAdd e true 0 2 2, modAdd e true 0 4 2) = (0, 2, 4, 1) := by decide
theorem test_bit_reversed_pointer :
    let e : Eng := { eng0 with regs := [(0x20, 8), (0x50, 1)] }
    [0, 4, 2, 6, 1, 5, 3].map (fun a => modAdd e true 0 a 4) = [4, 2, 6, 1, 5, 3, 7] := by decide

/-- The table of the worked example of a gain glide: word 1000_0000h to 0C00_0005h in eight steps. -/
theorem test_glide : [1, 2, 3, 4, 5, 6, 7].map (fun k => glideValue 268435456 201326597 k 3) =
    [260046849, 251658241, 243269634, 234881027, 226492419, 218103812, 209715204] := by decide

/-- R124: an addition that overflows is clamped with SAT, wraps without; V and Q follow. -/
theorem test_add_saturates :
    let s := inPass 0 [(1, 0x7FFFFFFF), (2, 1)]
    let r (sat : BitVec 1) := (match exec (.aluAdd (fa 1 sat 0 1 2 0 0)) s with | .next t => (dW t.dies.field.eng 1, engReg t.dies.field.eng 0x53) | _ => (0, 0))
    r 1 = (0x7FFFFFFF, 12) ∧ r 0 = (0x80000000, 6) := by decide +kernel

/-- R124: ABS of the most negative number is the most positive one where it saturates. -/
theorem test_abs_of_least :
    (match exec (.aluAbs (fa 0 1 0 1 1 3 0)) (inPass 0 [(1, 0x80000000)]) with | .next t => dW t.dies.field.eng 1 | _ => 0) = 0x7FFFFFFF := by decide +kernel

/-- The worked user instruction HS (user 1): D2 := (D0 + D1)/2 by the words of its table, rounded half up. -/
theorem test_user_average :
    let s := (inPass 0 [(0, 5), (1, 2)]).setField { (inPass 0 [(0, 5), (1, 2)]).dies.field with
      eng := { eng0 with regs := [(0, 5), (1, 2)], dtAct := [(16, 0x00001085), (17, 0x8A200000), (18, 0x00004019)] } }
    (match exec (.userInstruction ⟨0, 1, 0, 9, 2, 0, 0, 0, 0⟩) s with | .next t => dW t.dies.field.eng 2 | _ => 0) = 4 := by decide +kernel

/-- R99: a bank load is visible two slots on, not one. -/
theorem test_bank_latency :
    let f := { (inPass 0 []).dies.field with bk := { (inPass 0 []).dies.field.bk with x := { bank0 with mem := [(0x1000, 7)] } } }
    let s := (inPass 0 []).setField f
    (match exec (.ldx (fb 3 0x400)) s with
      | .next t => (dW t.dies.field.eng 3, match exec nop t with | .next u => dW u.dies.field.eng 3 | _ => (9 : W32))
      | _ => ((9 : W32), (9 : W32))) = (0, 7) := by decide +kernel

/-- R33: a keyed reset with a wrong key changes nothing; with the right key a core reset puts the host back into its ROM. -/
theorem test_core_reset_key :
    let s := served legend0 id
    (match exec (.coreRst 0x5AC30001 false) s with | .next t => decide (t = s) | _ => false) = true ∧ (match exec (.coreRst 0xA5C30001 false) s with | .next t => t.dies.host.boot.inRom | _ => false) = true := by
  decide +kernel

/-- A command is taken from the front of the queue; an empty queue leaves a block without passes as it was (log entry 6). -/
theorem test_step_takes_front :
    let s := { State.reset with pending := [.registerWrite .host ⟨0x2190, false⟩ 5, .weirBringUp] }
    (match step s with | .next t => (t.pending, t.dies.host.cw.macLo) | _ => ([], 0)) = ([.weirBringUp], 5) := by decide +kernel
theorem test_step_idles : (match step State.reset with | .next t => decide (t = State.reset) | _ => false) = true := by decide +kernel

/-- R145, R8: bytes written on the field bus read back, and the byte beside them stays; every memory keeps its form. -/
theorem test_memory_reset : Memory.wf State.reset.dies = true := by decide
theorem test_field_bus :
    (match exec (.fieldBankAccess ⟨0x10000002, 2, some 0xBEEF⟩) State.reset with
      | .next t => (Memory.wf t.dies, (match exec (.fieldBankAccess ⟨0x10000000, 4, none⟩) t with | .next u => u.dies.field.com.lastRead | _ => (0 : W32)))
      | _ => (false, (0 : W32))) = (true, 0xBEEF0000) := by decide +kernel

/-- R361: an extend of MS1 counts; MS0 once locked refuses. -/
theorem test_ms0_locked :
    let s := hostIs (fun h => { h with boot := { h.boot with ksCtrl := 1 } })
    (match exec (.msExtend 0x100) s with | .next t => (t.dies.host.boot.msRef, tget 0 t.dies.host.boot.msCnt 0) | _ => (false, 9)) = (true, 0) := by decide +kernel

/-- R380: a queue ends a descriptor with DONE and 16 bytes at STATUS, bytes 28 to 31 of the descriptor. -/
theorem test_dma_copy :
    let s := hostDmaIs 3 { dmaQ0 with base := 0x08001000, en := true, pidx := 1, cidx := 1, cur := some (desc 1 16 0x08000000 0x08000010 0 0 0) } id
    let t := match exec (.dmaCopy .host 3 1) (s.setHost { s.dies.host with h0 := { s.dies.host.h0 with mem := [(3, 9)] } }) with | .next t => t | _ => s
    ([0x13, 0x101C, 0x101F].map (rd8 t.dies.host.h0.mem), (dmaQ t.dies.host.com.dma 3).didx) = ([9, 16, 0x80], 1) := by decide +kernel

end Sys2Proof.Tests
end

/-! Register writes and snapshot reads of either die (R7, R8). -/

namespace Sys2Proof.Machine

/-! ### What a register command answers -/

/-- What the host side's judgement of its class reads of the field side: NUM_CONFLICT, the locks, COAST. -/
def classCauses (f : FieldDie) : Bool × Bool × Bool := (f.mer.numConflict, f.mer.tickLock && f.aud.osc.lock, f.mer.coast)

theorem fieldTimes_eq (d : Dies) : fieldTimes d = if d.host.com.weir.farPresent then some (classCauses d.field) else none := rfl

/-- The host side judges its class only where a command has moved what it reads of the field side (R295, R299). -/
theorem heard_of_sameTimes (d e : Dies) (h : fieldTimes d = fieldTimes e) : heard d e = e :=
  if_neg fun hr => hr.2 h

/-- A write of a host register that leaves the Weir bridge, whose FAR_PRESENT the judgement reads, is that register's effect alone. -/
theorem exec_registerWrite_host {s : State} (o : Nat) (v : W32) {g : HostDie} (hr : s.dies.host.com.runs = true)
    (hg : hostRegWrite o v s.dies.field s.dies.host = g) (hw : g.com.weir = s.dies.host.com.weir) :
    exec (.registerWrite .host ⟨o, false⟩ v) s = .next (s.setHost g) := by
  have hd : regWrite .host o v false s.dies = { s.dies with host := g } := by simp [regWrite, onHost, hr, hg]
  have ht : fieldTimes s.dies = fieldTimes { s.dies with host := g } := by simp [fieldTimes_eq, hw]
  calc exec (.registerWrite .host ⟨o, false⟩ v) s
      = .next { s with dies := heard s.dies (regWrite .host o v false s.dies) } := rfl
    _ = .next (s.setHost g) := by rw [hd, heard_of_sameTimes _ _ ht]; rfl

/-- A command of the field side that moves no cause of a class is its effect alone. -/
theorem fieldHeard_sameCauses {s : State} {act : FieldDie → FieldDie} {g : FieldDie} (hr : s.dies.field.com.runs = true)
    (hg : act s.dies.field = g) (hc : classCauses g = classCauses s.dies.field) : fieldHeard act s = .next (s.setField g) := by
  have hd : onField act s.dies = { s.dies with field := g } := by simp [onField, hr, hg]
  have ht : fieldTimes s.dies = fieldTimes { s.dies with field := g } := by simp [fieldTimes_eq, hc]
  calc fieldHeard act s = .next { s with dies := heard s.dies (onField act s.dies) } := rfl
    _ = .next (s.setField g) := by rw [hd, heard_of_sameTimes _ _ ht]; rfl

theorem exec_registerWrite_field {s : State} (o : Nat) (v : W32) {g : FieldDie} (hr : s.dies.field.com.runs = true)
    (hg : fieldRegWrite o v s.dies.field = g) (hc : classCauses g = classCauses s.dies.field) :
    exec (.registerWrite .field ⟨o, false⟩ v) s = .next (s.setField g) :=
  fieldHeard_sameCauses hr hg hc

theorem exec_readSnapshot_host {s : State} (o : Nat) (hr : s.dies.host.com.runs = true) :
    exec (.readSnapshot .host ⟨o, false⟩) s = .next (s.setHost (hostSnap o s.dies.host)) :=
  hostCmd_runs (hostSnap o) s hr

theorem exec_readSnapshot_field {s : State} (o : Nat) {g : FieldDie} (hr : s.dies.field.com.runs = true)
    (hg : fieldSnap o s.dies.field = g) (hc : classCauses g = classCauses s.dies.field) :
    exec (.readSnapshot .field ⟨o, false⟩) s = .next (s.setField g) :=
  fieldHeard_sameCauses hr hg hc

/-! ### Registers of the host die -/

theorem hostRegWrite_identity (v : W32) (f : FieldDie) (h : HostDie) : hostRegWrite 0 v f h = h := rfl

/-- No register of the host die lies at 8000h or above. -/
theorem hostRegWrite_beyond (o : Nat) (v : W32) (f : FieldDie) (h : HostDie) (ho : 0x8000 ≤ o) : hostRegWrite o v f h = h := by
  unfold hostRegWrite
  repeat rw [if_neg (by omega)]

theorem hostRegWrite_macLo (v : W32) (f : FieldDie) (h : HostDie) : hostRegWrite 0x2190 v f h = { h with cw := { h.cw with macLo := v } } := rfl

theorem hostRegWrite_ksVer (v : W32) (f : FieldDie) (h : HostDie) :
    hostRegWrite 0x501C v f h = withBoot h { h.boot with ksVer := v } := rfl

/-- HOT of TSENS is write-1-to-clear. -/
theorem hostRegWrite_tsens (v : W32) (f : FieldDie) (h : HostDie) :
    hostRegWrite 0x7900 v f h = { h with com := { h.com with hot := h.com.hot && !bit v 28 } } := rfl

/-- Key-slot label words 0 to 7 stand at 5020h and up. -/
theorem hostRegWrite_ksLabel (k : Nat) (v : W32) (f : FieldDie) (h : HostDie) (hk : k < 8) :
    hostRegWrite (0x5020 + 4 * k) v f h = withBoot h { h.boot with ksLabel := tput 0 h.boot.ksLabel k v } := by
  have hi : (0x5020 + 4 * k - 0x5020) / 4 = k := by omega
  have hb : bootRegWrite (0x5020 + 4 * k) v h = withBoot h { h.boot with ksLabel := tput 0 h.boot.ksLabel k v } := by
    unfold bootRegWrite
    iterate 4 rw [if_neg (by omega)]
    rw [if_pos (by omega), hi]
    rfl
  unfold hostRegWrite
  iterate 4 rw [if_neg (by omega)]
  rw [if_pos (by omega), hb]

/-- A read of a register that latches nothing. -/
theorem hostSnap_plain (o : Nat) (h : HostDie) (h1 : o ≠ 0x3010) (h2 : o ≠ 0x3020) :
    hostSnap o h = { h with com := { h.com with lastRead := hostReg h o } } := by
  simp [hostSnap, h1, h2]

/-- The low word of DT_TIME latches the seconds and the fraction. -/
theorem hostSnap_dtTime (h : HostDie) :
    hostSnap 0x3010 h = { h with com := { h.com with lastRead := w32 (h.dt.time / 65536 % 1000000000) },
                                 dt := { h.dt with timeLatch := dtTimeWords h.dt.time } } := rfl

/-! ### Registers of the field die -/

theorem fieldRegWrite_identity (v : W32) (f : FieldDie) : fieldRegWrite 0 v f = f := rfl

/-- No register of the field die lies at 25000h or above. -/
theorem fieldRegWrite_beyond (o : Nat) (v : W32) (f : FieldDie) (ho : 0x25000 ≤ o) : fieldRegWrite o v f = f := by
  unfold fieldRegWrite
  repeat rw [if_neg (by omega)]

theorem fieldRegWrite_keep (v : W32) (f : FieldDie) : fieldRegWrite 0x101C v f = { f with mer := { f.mer with keep := v } } := rfl

theorem fieldRegWrite_plen0 (v : W32) (f : FieldDie) :
    fieldRegWrite 0x1020 v f = { f with mer := { f.mer with plen0 := v &&& 0xFFFF } } := rfl

/-- The engine's fault bits are write-1-to-clear. -/
theorem fieldRegWrite_fault (v : W32) (f : FieldDie) :
    fieldRegWrite 0x1080 v f = { f with eng := { f.eng with fault := f.eng.fault &&& ~~~(v &&& 0x3F) } } := rfl

theorem fieldRegWrite_passLo (v : W32) (f : FieldDie) : fieldRegWrite 0x3804 v f = { f with cg := { f.cg with passLo := v } } := rfl

theorem fieldRegWrite_window (v : W32) (f : FieldDie) :
    fieldRegWrite 0x1C008 v f = { f with silt := { f.silt with win := v &&& 0xFFF00000 } } := rfl

theorem fieldRegWrite_syncMask (v : W32) (f : FieldDie) :
    fieldRegWrite 0x22100 v f = { f with pil := { f.pil with syncMask := v &&& 0xFF } } := rfl

/-- The words of the decode tables stand at 2000h and up. -/
theorem fieldRegWrite_decodeTable (k : Nat) (v : W32) (f : FieldDie) (hk : k < 512) :
    fieldRegWrite (0x2000 + 4 * k) v f = { f with eng := { f.eng with dtSh := tput 0 f.eng.dtSh k v } } := by
  have hi : (0x2000 + 4 * k - 0x2000) / 4 = k := by omega
  have hb : bankRegWrite (0x2000 + 4 * k) v f = { f with eng := { f.eng with dtSh := tput 0 f.eng.dtSh k v } } := by
    unfold bankRegWrite
    rw [if_pos (by omega), hi]
  unfold fieldRegWrite
  iterate 4 rw [if_neg (by omega)]
  rw [if_pos (by omega), hb]

/-- The low word of MER_PCNT latches the high one. -/
theorem fieldSnap_pcnt (f : FieldDie) :
    fieldSnap 0x1008 f = setRead { f with mer := { f.mer with pcntLatch := w32 (f.mer.pcnt / 2 ^ 32) } } (w32 f.mer.pcnt) := rfl

theorem fieldSnap_keep (f : FieldDie) : fieldSnap 0x101C f = setRead f f.mer.keep := rfl

/-- Settles O58: each register by the equation of its offset; no write named moves what the host side's class depends on. -/
theorem registersWriteAndRead : Obligations.RegistersWriteAndRead := by
  unfold Obligations.RegistersWriteAndRead
  intro s h f
  refine ⟨fun hr => ⟨?_, ?_, ?_, ?_, ?_, ?_, ?_, ?_, rfl, rfl, rfl, rfl⟩, fun hr => ⟨?_, ?_, ?_, ?_, ?_, ?_, ?_, ?_, ?_, ?_, ?_, rfl⟩⟩
  · exact fun v => exec_registerWrite_host 0 v hr (hostRegWrite_identity v f h) rfl
  · exact fun o v ho => exec_registerWrite_host o v hr (hostRegWrite_beyond o v f h ho) rfl
  · exact fun v => ⟨_, exec_registerWrite_host 0x2190 v hr (hostRegWrite_macLo v f h) rfl, rfl⟩
  · exact fun v => ⟨_, exec_registerWrite_host 0x501C v hr (hostRegWrite_ksVer v f h) rfl, rfl⟩
  · exact fun k v hk => ⟨_, exec_registerWrite_host _ v hr (hostRegWrite_ksLabel k v f h hk) rfl, rfl⟩
  · exact fun v => ⟨_, exec_registerWrite_host 0x7900 v hr (hostRegWrite_tsens v f h) rfl, rfl⟩
  · exact fun o h1 h2 => ⟨_, exec_readSnapshot_host o hr, congrArg s.setHost (hostSnap_plain o h h1 h2)⟩
  · exact ⟨_, exec_readSnapshot_host 0x3010 hr, congrArg s.setHost (hostSnap_dtTime h), rfl, rfl⟩
  · exact fun v => exec_registerWrite_field 0 v hr (fieldRegWrite_identity v f) rfl
  · exact fun o v ho => exec_registerWrite_field o v hr (fieldRegWrite_beyond o v f ho) rfl
  · exact fun v => ⟨_, exec_registerWrite_field 0x101C v hr (fieldRegWrite_keep v f) rfl, rfl⟩
  · exact fun v => ⟨_, exec_registerWrite_field 0x1020 v hr (fieldRegWrite_plen0 v f) rfl, rfl⟩
  · exact fun v => ⟨_, exec_registerWrite_field 0x1080 v hr (fieldRegWrite_fault v f) rfl, rfl⟩
  · exact fun k v hk => ⟨_, exec_registerWrite_field _ v hr (fieldRegWrite_decodeTable k v f hk) rfl, rfl⟩
  · exact fun v => ⟨_, exec_registerWrite_field 0x3804 v hr (fieldRegWrite_passLo v f) rfl, rfl⟩
  · exact fun v => ⟨_, exec_registerWrite_field 0x1C008 v hr (fieldRegWrite_window v f) rfl, rfl⟩
  · exact fun v => ⟨_, exec_registerWrite_field 0x22100 v hr (fieldRegWrite_syncMask v f) rfl, rfl⟩
  · exact ⟨_, exec_readSnapshot_field 0x1008 hr (fieldSnap_pcnt f) rfl, rfl⟩
  · exact ⟨_, exec_readSnapshot_field 0x101C hr (fieldSnap_keep f) rfl, rfl⟩

end Sys2Proof.Machine

/-! What an EVENT of the host die, and a judgement of its class, leave unchanged (R295, R324). -/

namespace Sys2Proof.Machine

/-! ### What a message that the host die sends leaves unchanged (R271, R324, R402) -/

/-- `g` is `h` but for its ports, Legend's records, the serial ports and the exchange bank. -/
def sendsOnly (h g : HostDie) : Prop := g = { h with cw := g.cw, leg := g.leg, spp := g.spp, e := g.e }

theorem sendsOnly.refl (h : HostDie) : sendsOnly h h := rfl

theorem sendsOnly.trans {a b c : HostDie} (hab : sendsOnly a b) (hbc : sendsOnly b c) : sendsOnly a c :=
  Eq.trans hbc (congrArg (fun x : HostDie => { x with cw := c.cw, leg := c.leg, spp := c.spp, e := c.e }) hab)

theorem sendsOnly.com {h g : HostDie} (hg : sendsOnly h g) : g.com = h.com := by rw [hg]

theorem sendsOnly.bank {h g : HostDie} (hg : sendsOnly h g) (id : BankId) (hi : id ≠ .e) : hostBank g id = hostBank h id := by
  rw [hg]
  cases id <;> first | rfl | exact absurd rfl hi

theorem cwQueue_sendsOnly (h : HostDie) (x : Nat) (t : CwTx) : sendsOnly h (cwQueue h x t) := by
  unfold cwQueue
  split <;> rfl

theorem ringPost_sendsOnly (h : HostDie) (m : LegMsg) : sendsOnly h (ringPost h m).1 := by
  unfold ringPost
  split <;> rfl

theorem legLocal_sendsOnly (h : HostDie) (ep : Nat) (notify : Bool) (m : LegMsg) : sendsOnly h (legLocal h ep notify m) := by
  unfold legLocal
  dsimp only
  split
  · rfl
  · split
    · exact (ringPost_sendsOnly h m).trans rfl
    · split <;> rfl

theorem legHere_sendsOnly (h : HostDie) (notify : Bool) (m : LegMsg) : sendsOnly h (legHere h notify m) := by
  unfold legHere
  split
  · exact legLocal_sendsOnly h _ notify m
  · rfl

theorem legSend_sendsOnly (h : HostDie) (notify : Bool) (m : LegMsg) : sendsOnly h (legSend h notify m) := by
  unfold legSend
  dsimp only
  split
  · exact legHere_sendsOnly h notify m
  · split
    · rfl
    · split
      · rfl
      · exact (cwQueue_sendsOnly h _ _).trans rfl

theorem notifyOut_sendsOnly (h : HostDie) (sub : Sub) (type : Nat) (data : List Byte) : sendsOnly h (notifyOut h sub type data) := by
  unfold notifyOut
  dsimp only
  refine sendsOnly.trans ?_ rfl
  split
  · split
    · exact legLocal_sendsOnly h _ true _
    · rfl
  · exact legHere_sendsOnly h true _
  · exact legSend_sendsOnly h true _

/-- An EVENT of the host die is recorded, and sent on. -/
theorem hostEventRaw_sendsOnly (h : HostDie) (k : EvKind) (data : List W32) :
    sendsOnly { h with com := { h.com with events := evWords k data :: h.com.events } } (hostEventRaw h k data) :=
  foldl_keeps (sendsOnly _) _ (fun _ sub hg => hg.trans (notifyOut_sendsOnly _ sub _ _)) _ _ rfl

/-! ### What a judgement of the class leaves unchanged (R295) -/

/-- `g` is `h` but for what messages change, its EVENTs, and its part of Datum without the host sensor's history. -/
def judgesOnly (h g : HostDie) : Prop :=
  sendsOnly { h with com := { h.com with events := g.com.events }, dt := { g.dt with histH := h.dt.histH } } g

theorem judgesOnly.trans {a b c : HostDie} (hab : judgesOnly a b) (hbc : judgesOnly b c) : judgesOnly a c := by
  unfold judgesOnly sendsOnly at *
  exact Eq.trans hbc (congrArg (fun x : HostDie =>
    { x with com := { x.com with events := c.com.events }, dt := { c.dt with histH := x.dt.histH }, cw := c.cw, leg := c.leg, spp := c.spp,
             e := c.e }) hab)

theorem hostEventRaw_judgesOnly (h : HostDie) (k : EvKind) (data : List W32) : judgesOnly h (hostEventRaw h k data) := by
  have hs := hostEventRaw_sendsOnly h k data
  unfold judgesOnly
  rw [hs]
  rfl

theorem setClass_judgesOnly (h : HostDie) (c : Nat) : judgesOnly h (setClass h c) :=
  judgesOnly.trans (b := { h with dt := { h.dt with cls := c, markDue := true } }) rfl (hostEventRaw_judgesOnly _ _ _)

/-- The die with TEMP_OK, NUM_CONFLICT, BOUND and LIMIT as they stand (R292, R294): what a judgement compares the class with. -/
def measured (f : FieldDie) (h : HostDie) : HostDie :=
  let h := { h with dt := { h.dt with tempOk := tempOkOf h.dt.histH h.dt.histF,
                                      numConfl := if h.com.weir.farPresent then f.mer.numConflict else h.dt.numConfl } }
  let h := { h with dt := { h.dt with bound := min (boundOf (ownS h) (ownV h)) 0xFFFFFF } }
  { h with dt := { h.dt with limit := limitOf f h } }

theorem measured_judgesOnly (f : FieldDie) (h : HostDie) : judgesOnly h (measured f h) := rfl

theorem safeMove_judgesOnly (h : HostDie) : judgesOnly h (safeMove h) := rfl

theorem classFall_eq (f : FieldDie) (h : HostDie) :
    classFall f h =
      let g := measured f h
      safeMove (if g.dt.cls < classOf f g then setClass { g with dt := { g.dt with cnt := ctrAdd g.dt.cnt 0 1 } } (classOf f g) else g) := rfl

theorem classFall_judgesOnly (f : FieldDie) (h : HostDie) : judgesOnly h (classFall f h) := by
  rw [classFall_eq]
  refine (measured_judgesOnly f h).trans ?_
  generalize measured f h = g
  refine judgesOnly.trans ?_ (safeMove_judgesOnly _)
  split
  · exact judgesOnly.trans (b := { g with dt := { g.dt with cnt := ctrAdd g.dt.cnt 0 1 } }) rfl (setClass_judgesOnly _ _)
  · rfl

end Sys2Proof.Machine

/-! Memory integrity (R403 to R421): the unit of either die, what its operations do, and from there what a command does. -/

namespace Sys2Proof.Machine

/-! ### The integrity unit of a die -/

/-- What the integrity unit relies on: what the operations of its die leave unchanged. An EVENT may write the exchange bank (R402). -/
structure DieLaws {σ : Type} (D : DieOps σ) : Prop where
  com_setCom (x : σ) (c : Common) : D.com (D.setCom x c) = c
  setCom_setCom (x : σ) (c c' : Common) : D.setCom (D.setCom x c) c' = D.setCom x c'
  bank_setCom (x : σ) (c : Common) : D.bank (D.setCom x c) = D.bank x
  destrOk_setCom (x : σ) (c : Common) : D.destrOk (D.setCom x c) = D.destrOk x
  com_setBank (x : σ) (id : BankId) (b : Bank) : D.com (D.setBank x id b) = D.com x
  bank_setBank_same (x : σ) (k : Nat) (id : BankId) (b : Bank) (hk : D.bankAt k = some id) : D.bank (D.setBank x id b) id = b
  bank_setBank_other (x : σ) (i j : BankId) (b : Bank) (hij : j ≠ i) : D.bank (D.setBank x i b) j = D.bank x j
  integ_event (x : σ) (k : EvKind) (ws : List W32) : (D.com (D.event x k ws)).integ = (D.com x).integ
  bank_event (x : σ) (k : EvKind) (ws : List W32) (id : BankId) (hid : id ≠ .e) : D.bank (D.event x k ws) id = D.bank x id
  integ_fault (x : σ) (n : Nat) (ws : List W32) : (D.com (D.fault x n ws)).integ = (D.com x).integ
  bank_fault (x : σ) (n : Nat) (ws : List W32) : D.bank (D.fault x n ws) = D.bank x

/-- The banks that a BANK field names on each die (R412). -/
theorem hostOps_bankAt (k : Nat) (id : BankId) (hk : hostOps.bankAt k = some id) :
    id = .h0 ∨ id = .h1 ∨ id = .h2 ∨ id = .h3 ∨ id = .n ∨ id = .e := by
  simp only [hostOps] at hk
  repeat' split at hk
  all_goals cases hk
  all_goals decide

theorem fieldOps_bankAt (k : Nat) (id : BankId) (hk : fieldOps.bankAt k = some id) :
    id = .f ∨ id = .p0 ∨ id = .p1 ∨ id = .x ∨ id = .y ∨ id = .z := by
  simp only [fieldOps] at hk
  repeat' split at hk
  all_goals cases hk
  all_goals decide

/-- A bank of the die reads as it was set. -/
theorem hostBank_set_same (h : HostDie) (k : Nat) (id : BankId) (b : Bank) (hk : hostOps.bankAt k = some id) :
    hostBank (hostSetBank h id b) id = b := by
  rcases hostOps_bankAt k id hk with rfl | rfl | rfl | rfl | rfl | rfl <;> rfl

theorem fieldBank_set_same (f : FieldDie) (k : Nat) (id : BankId) (b : Bank) (hk : fieldOps.bankAt k = some id) :
    fieldBank (fieldSetBank f id b) id = b := by
  rcases fieldOps_bankAt k id hk with rfl | rfl | rfl | rfl | rfl | rfl <;> rfl

theorem hostOps_laws : DieLaws hostOps where
  com_setCom _ _ := rfl
  setCom_setCom _ _ _ := rfl
  bank_setCom _ _ := by funext id; cases id <;> rfl
  destrOk_setCom _ _ := rfl
  com_setBank := hostSetBank_com
  bank_setBank_same := hostBank_set_same
  bank_setBank_other h i j b hij := hostBank_set_other h i j b hij.symm
  integ_event h k ws := (congrArg Common.integ (hostEventRaw_sendsOnly h k ws).com :)
  bank_event h k ws id hid :=
    ((hostEventRaw_sendsOnly h k ws).bank id hid).trans (by cases id <;> rfl)
  integ_fault _ _ _ := rfl
  bank_fault _ _ _ := by funext id; cases id <;> rfl

theorem fieldOps_laws : DieLaws fieldOps where
  com_setCom _ _ := rfl
  setCom_setCom _ _ _ := rfl
  bank_setCom _ _ := by funext id; cases id <;> rfl
  destrOk_setCom _ _ := by funext id; cases id <;> rfl
  com_setBank := fieldSetBank_com
  bank_setBank_same := fieldBank_set_same
  bank_setBank_other f i j b hij := fieldBank_set_other f i j b hij.symm
  integ_event _ _ _ := rfl
  bank_event _ _ _ id _ := by cases id <;> rfl
  integ_fault _ _ _ := rfl
  bank_fault _ _ _ := by funext id; cases id <;> rfl

/-- A destructive march of a bank is accepted now on side `d` (R412). -/
def destrAllowed (d : Side) (s : State) (id : BankId) : Bool :=
  match d with
  | .host => hostOps.destrOk s.dies.host id
  | .field => fieldOps.destrOk s.dies.field id

/-- `D` is the unit of side `d`, and `x` the die of that side in `s`. -/
structure DieOf (d : Side) (s : State) {σ : Type} (D : DieOps σ) (x : σ) : Prop where
  laws : DieLaws D
  com : D.com x = comOf d s.dies
  bank : D.bank x = bankOf d s
  bankAt : D.bankAt = integBank d
  side : D.side = d
  destrOk : D.destrOk x = destrAllowed d s

theorem hostDie_dieOf (s : State) : DieOf .host s hostOps s.dies.host := ⟨hostOps_laws, rfl, rfl, rfl, rfl, rfl⟩
theorem fieldDie_dieOf (s : State) : DieOf .field s fieldOps s.dies.field := ⟨fieldOps_laws, rfl, rfl, rfl, rfl, rfl⟩

/-! ### From the unit of either die to the command -/

section
variable {d : Side} {s : State} {cmd : Instr} (F : ∀ {σ : Type}, DieOps σ → σ → σ)
  (hc : exec cmd s = integCmd d (F hostOps) (F fieldOps) s) (hr : (comOf d s.dies).runs = true)
include hc hr

/-- What holds of the integrity record and the banks whichever die the unit belongs to, holds of the die commanded. -/
theorem answers_unit (p : Integ → (BankId → Bank) → Prop)
    (h : ∀ {σ : Type} (D : DieOps σ) (x : σ), DieOf d s D x → p (D.com (F D x)).integ (D.bank (F D x))) :
    answers cmd s (fun t => p (comOf d t.dies).integ (bankOf d t)) := by
  cases d with
  | host => exact ⟨_, hc.trans (hostCmd_runs _ s hr), h hostOps _ (hostDie_dieOf s)⟩
  | field => exact ⟨_, hc.trans (fieldCmd_runs _ s hr), h fieldOps _ (fieldDie_dieOf s)⟩

/-- A command that changes the integrity record and nothing else. -/
theorem answers_withInteg (f : Integ → Integ) (h : ∀ {σ : Type} (D : DieOps σ) (x : σ), DieOf d s D x → F D x = modInteg D x f) :
    answers cmd s (fun t => t = withInteg d (f (comOf d s.dies).integ) s) := by
  cases d with
  | host => exact ⟨_, hc.trans (hostCmd_runs _ s hr), congrArg s.setHost (h hostOps _ (hostDie_dieOf s))⟩
  | field => exact ⟨_, hc.trans (fieldCmd_runs _ s hr), congrArg s.setField (h fieldOps _ (fieldDie_dieOf s))⟩
end

/-! ### Operations of the unit -/

section
variable {σ : Type} {D : DieOps σ} (L : DieLaws D)
include L

theorem DieLaws.com_modInteg (x : σ) (f : Integ → Integ) : D.com (modInteg D x f) = { D.com x with integ := f (D.com x).integ } :=
  L.com_setCom x _

theorem DieLaws.bank_modInteg (x : σ) (f : Integ → Integ) : D.bank (modInteg D x f) = D.bank x := L.bank_setCom x _

theorem DieLaws.modInteg_modInteg (x : σ) (f g : Integ → Integ) : modInteg D (modInteg D x f) g = modInteg D x (fun i => g (f i)) := by
  unfold modInteg
  simp only [L.com_setCom, L.setCom_setCom]

theorem DieLaws.destrOk_modInteg (x : σ) (f : Integ → Integ) : D.destrOk (modInteg D x f) = D.destrOk x := L.destrOk_setCom x _

/-- RESERVE_LOW marks the resource and changes nothing else of the record (R421). -/
theorem DieLaws.integ_ledCheck (x : σ) (r : RowId) : ∃ l, (D.com (ledCheck D x r)).integ = { (D.com x).integ with low := l } := by
  unfold ledCheck
  dsimp only
  split
  · exact ⟨_, by rw [L.integ_fault, L.integ_event, L.com_modInteg]⟩
  · exact ⟨_, rfl⟩

theorem DieLaws.bank_ledCheck (x : σ) (r : RowId) (id : BankId) (hid : id ≠ .e) : D.bank (ledCheck D x r) id = D.bank x id := by
  unfold ledCheck
  dsimp only
  split
  · rw [L.bank_fault, L.bank_event _ _ _ id hid, L.bank_modInteg]
  · rfl

end

/-! ### March tests (R410 to R413) -/

theorem marching_iff (i : Integ) (k : Nat) : marching i k = true ↔ ∃ e ∈ i.march, e.1 = k := by
  simp [marching]

section
variable {σ : Type} {D : DieOps σ}

/-- GO without ABORT: MODE, BANK and ROW_THRESH are taken, and the march is asked for. -/
theorem memCtrlWrite_go (x : σ) (v : W32) (h8 : bit v 8 = true) (h9 : bit v 9 = false) :
    memCtrlWrite D v x = marchStart D (modInteg D x (fun i => { i with ctrl := v &&& 0x00FF003F })) (fld v 3 0) (fld v 5 4) := by
  simp [memCtrlWrite, h8, h9]

/-- A bank that runs no march takes one in a mode that it allows. -/
theorem memCtrlWrite_accepts (L : DieLaws D) (x : σ) (v : W32) (b : BankId) (h8 : bit v 8 = true) (h9 : bit v 9 = false)
    (hb : D.bankAt (fld v 3 0) = some b) (hm : ∀ e ∈ (D.com x).integ.march, e.1 ≠ fld v 3 0)
    (hmode : fld v 5 4 = 1 ∨ fld v 5 4 = 2 ∧ D.destrOk x b = true) :
    memCtrlWrite D v x = modInteg D x (fun i =>
      { i with ctrl := v &&& 0x00FF003F, march := i.march ++ [(fld v 3 0, decide (fld v 5 4 = 2))], result := 1, progress := 0 }) := by
  have hn : ¬ ∃ e ∈ (D.com x).integ.march, e.1 = fld v 3 0 := fun ⟨e, he, hk⟩ => hm e he hk
  have hno : ¬ (marching (D.com x).integ (fld v 3 0) = true ∨ (fld v 5 4 ≠ 1 ∧ fld v 5 4 ≠ 2) ∨ (fld v 5 4 = 2 ∧ D.destrOk x b = false)) := by
    rw [marching_iff]
    rcases hmode with h1 | ⟨h2, hd⟩
    · simp [hn, h1]
    · simp [hn, h2, hd]
  have hc : marching { (D.com x).integ with ctrl := v &&& 0x00FF003F } (fld v 3 0) = marching (D.com x).integ (fld v 3 0) := rfl
  rw [memCtrlWrite_go x v h8 h9]
  simp only [marchStart, hb, L.com_modInteg, hc, L.destrOk_modInteg, if_neg hno, L.modInteg_modInteg]

/-- A march that the bank does not allow sets REFUSED. -/
theorem memCtrlWrite_refuses (L : DieLaws D) (x : σ) (v : W32) (h8 : bit v 8 = true) (h9 : bit v 9 = false)
    (hno : D.bankAt (fld v 3 0) = none ∨ (∃ e ∈ (D.com x).integ.march, e.1 = fld v 3 0) ∨ (fld v 5 4 ≠ 1 ∧ fld v 5 4 ≠ 2) ∨
      (fld v 5 4 = 2 ∧ ∀ b, D.destrOk x b = false)) :
    memCtrlWrite D v x = modInteg D x (fun i => { i with ctrl := v &&& 0x00FF003F, refused := true, result := 4 }) := by
  have hc : marching { (D.com x).integ with ctrl := v &&& 0x00FF003F } (fld v 3 0) = marching (D.com x).integ (fld v 3 0) := rfl
  rw [memCtrlWrite_go x v h8 h9]
  cases hb : D.bankAt (fld v 3 0) with
  | none => simp only [marchStart, hb, L.modInteg_modInteg]
  | some b =>
    have hyes : marching (D.com x).integ (fld v 3 0) = true ∨ (fld v 5 4 ≠ 1 ∧ fld v 5 4 ≠ 2) ∨ (fld v 5 4 = 2 ∧ D.destrOk x b = false) := by
      rw [marching_iff]
      rcases hno with h | h | h | ⟨h2, hd⟩
      · rw [hb] at h; cases h
      · exact .inl h
      · exact .inr (.inl h)
      · exact .inr (.inr ⟨h2, hd b⟩)
    simp only [marchStart, hb, L.com_modInteg, hc, L.destrOk_modInteg, if_pos hyes, L.modInteg_modInteg]

/-- ABORT without GO stops every march of the die. -/
theorem memCtrlWrite_abort (L : DieLaws D) (x : σ) (v : W32) (h8 : bit v 8 = false) (h9 : bit v 9 = true)
    (hm : (D.com x).integ.march ≠ []) :
    memCtrlWrite D v x = (D.com x).integ.march.foldl (marchStopOne D)
      (modInteg D x (fun i => { i with ctrl := v &&& 0x00FF003F, march := [], result := 0 })) := by
  simp [memCtrlWrite, marchStop, h8, h9, L.com_modInteg, hm, L.modInteg_modInteg]

/-- Marches that destroy nothing leave nothing behind. -/
theorem foldl_marchStopOne_kept (l : List (Nat × Bool)) (x : σ) (hl : ∀ e ∈ l, e.2 = false) : l.foldl (marchStopOne D) x = x := by
  induction l with
  | nil => rfl
  | cons e l ih =>
    have he : marchStopOne D x e = x := by simp [marchStopOne, hl e (List.mem_cons_self ..)]
    rw [List.foldl_cons, he]
    exact ih fun e' he' => hl e' (List.mem_cons_of_mem _ he')

/-- A destructive march stopped leaves its own bank changed, and draws free values. -/
theorem marchStopOne_destructive (L : DieLaws D) (x : σ) (k : Nat) (b : BankId) (hb : D.bankAt k = some b) :
    (D.com (marchStopOne D x (k, true))).integ = (D.com x).integ ∧
      ∀ id, id ≠ b → D.bank (marchStopOne D x (k, true)) id = D.bank x id := by
  simp only [marchStopOne, hb]
  refine ⟨?_, fun id hid => ?_⟩
  · rw [L.com_setBank, L.com_setCom, draw_integ, draw_integ]
  · rw [L.bank_setBank_other _ _ _ _ hid, L.bank_setCom]

end

/-- The march of a bank that runs, by its number. -/
theorem find?_march (l : List (Nat × Bool)) (k : Nat) (q : Bool) (hk : (k, q) ∈ l) (hq : ∀ e ∈ l, e.1 = k → e.2 = q) :
    l.find? (fun e => e.1 == k) = some (k, q) := by
  cases hf : l.find? (fun e => e.1 == k) with
  | none => exact absurd (List.find?_eq_none.mp hf _ hk) (by simp)
  | some e =>
    have h1 : e.1 = k := by simpa using List.find?_some hf
    have h2 : e.2 = q := hq e (List.mem_of_find?_eq_some hf) h1
    rw [← h1, ← h2]

/-- The record once the march of bank `k` has ended with the rows `bad` failing (R410, R423). -/
def marchEnded (i : Integ) (k : Nat) (bad : List Nat) : Integ :=
  let rest := i.march.filter (fun e => e.1 != k)
  { i with march := rest, result := if rest ≠ [] then 1 else if bad = [] then 2 else 3, fail := i.fail || decide (bad ≠ []) }

section
variable {σ : Type} {D : DieOps σ}

/-- A march that met no bad row. -/
theorem marchDone_clean (x : σ) (k : Nat) (q : Bool) (b : BankId) (hf : (D.com x).integ.march.find? (fun e => e.1 == k) = some (k, q))
    (hb : D.bankAt k = some b) :
    marchDone D k [] x =
      let y := modInteg D x (fun i => marchEnded i k [])
      if q then D.setBank y b { D.bank y b with mem := [], err := [], wb := [] } else y := by
  simp [marchDone, hf, hb, marchEnded]

/-- A march that destroyed nothing and met one bad row: the row becomes a candidate (R413). -/
theorem integ_marchDone_failed (L : DieLaws D) (x : σ) (k r : Nat) (b : BankId)
    (hf : (D.com x).integ.march.find? (fun e => e.1 == k) = some (k, false)) (hb : D.bankAt k = some b) (hrow : r < bankRows b) :
    (D.com (marchDone D k [r] x)).integ = addCand (marchEnded (D.com x).integ k [r]) ⟨resOf b, r⟩ := by
  simp [marchDone, hf, hb, hrow, marchEnded, L.integ_fault, L.com_modInteg]

end

/-- A row with spares that is neither waiting, nor being copied, nor copied joins the candidates (R415). -/
theorem addCand_new (i : Integ) (r : RowId) (h0 : r.res ≠ 0) (h1 : r ∉ i.cand) (h2 : i.copying.map (·.1) ≠ some r)
    (h3 : r ∉ i.copied.map (·.1)) : addCand i r = { i with cand := i.cand ++ [r] } :=
  if_neg (by simp only [h0, h1, h2, h3, or_self, not_false_eq_true])

/-- The first bad row of a die becomes its only candidate. -/
theorem addCand_marchEnded (i : Integ) (k : Nat) (r : RowId) (h0 : r.res ≠ 0) (hcand : i.cand = []) (hcopy : i.copying = none)
    (hcopied : i.copied = []) :
    addCand (marchEnded i k [r.row]) r =
      { i with march := i.march.filter (fun e => e.1 != k), result := if i.march.filter (fun e => e.1 != k) ≠ [] then 1 else 3,
               fail := true, cand := [r] } := by
  rw [addCand_new _ r h0 (by simp [marchEnded, hcand]) (by simp [marchEnded, hcopy]) (by simp [marchEnded, hcopied])]
  simp [marchEnded, hcand]

/-! ### Repairs (R415 to R421) -/

section
variable {σ : Type} {D : DieOps σ}

/-- A row named for repair: its bank and row are taken, and it is asked for. -/
theorem memRepairWrite_named (x : σ) (v : W32) (h31 : bit v 31 = true) :
    memRepairWrite D v x = repairAsk D (fld v 19 16) (fld v 15 0) (modInteg D x (fun i => { i with repair := v &&& 0x000FFFFF })) := by
  simp [memRepairWrite, h31]

theorem memRepairWrite_row (L : DieLaws D) (x : σ) (v : W32) (r : RowId) (h31 : bit v 31 = true)
    (hrow : repairRow D (fld v 19 16) (fld v 15 0) = some r) :
    memRepairWrite D v x = modInteg D x (fun i => addCand { i with repair := v &&& 0x000FFFFF } r) := by
  rw [memRepairWrite_named x v h31]
  simp only [repairAsk, hrow, L.modInteg_modInteg]

theorem memRepairWrite_noRow (L : DieLaws D) (x : σ) (v : W32) (h31 : bit v 31 = true)
    (hrow : repairRow D (fld v 19 16) (fld v 15 0) = none) :
    memRepairWrite D v x = modInteg D x (fun i => { i with repair := v &&& 0x000FFFFF, refused := true }) := by
  rw [memRepairWrite_named x v h31]
  simp only [repairAsk, hrow, L.modInteg_modInteg]

theorem repairRow_bank (k row : Nat) (b : BankId) (hb : D.bankAt k = some b) :
    repairRow D k row = if row < bankRows b then some ⟨resOf b, row⟩ else none := by
  simp only [repairRow, hb]

theorem repairRow_noBank (k row : Nat) (hb : D.bankAt k = none) :
    repairRow D k row = if D.side = .field ∧ k = 6 then some ⟨11, row⟩ else none := by
  simp only [repairRow, hb]

/-- The spare that a copy of the row begins on where one is left (R414, R416). -/
def freeSpare (c : Common) (r : RowId) : Nat := if r.res = 11 then tget 0 c.integ.dramUsed (r.row / 2048) else ledUsed c r.res

/-- The record once the copy of row `r` to spare `n` has begun, which counts as used from then on (R416, R420). -/
def copyBegun (i : Integ) (r : RowId) (n : Nat) : Integ :=
  if r.res = 11 then { i with copying := some (r, n), dramUsed := tmod 0 i.dramUsed (r.row / 2048) (· + 1) }
  else { i with copying := some (r, n), used := tmod 0 i.used r.res (· + 1) }

theorem copyBegun_copying (i : Integ) (r : RowId) (n : Nat) : (copyBegun i r n).copying = some (r, n) := by
  unfold copyBegun; split <;> rfl

theorem copyBegun_cand (i : Integ) (r : RowId) (n : Nat) : (copyBegun i r n).cand = i.cand := by
  unfold copyBegun; split <;> rfl

theorem copyBegun_remap (i : Integ) (r : RowId) (n : Nat) : (copyBegun i r n).remap = i.remap := by
  unfold copyBegun; split <;> rfl

/-- Where a spare is left, the copy begins on the next one. -/
theorem repairOn_spare (L : DieLaws D) (x : σ) (r : RowId) (hleft : rowLeft (D.com x) r ≠ 0) :
    repairOn D x r = ledCheck D (modInteg D x (fun i => copyBegun i r (freeSpare (D.com x) r))) r := by
  simp only [repairOn, if_neg hleft, takeSpare, L.modInteg_modInteg]
  rfl

/-- Where none is left, the resource is marked as run out. -/
theorem integ_repairOn_none (L : DieLaws D) (x : σ) (r : RowId) (hleft : rowLeft (D.com x) r = 0) :
    (D.com (repairOn D x r)).integ = { (D.com x).integ with copying := none, out := (D.com x).integ.out ||| 2 ^ r.res } := by
  simp only [repairOn, if_pos hleft, ledOut, L.integ_fault, L.integ_event, L.com_modInteg]

/-- The record once a row is no candidate any more. -/
def withoutCand (i : Integ) (r : RowId) : Integ := { i with cand := i.cand.filter (· ≠ r) }

theorem not_mem_withoutCand (i : Integ) (r : RowId) : r ∉ (withoutCand i r).cand := by simp [withoutCand]

/-- REPAIR_START of a candidate while no row is copied: by bank number (R423), the row leaves the candidates. -/
theorem repairStart_candidate (x : σ) (b : BankId) (row : Nat) (hcopy : (D.com x).integ.copying = none)
    (hcand : (⟨resOf b, row⟩ : RowId) ∈ (D.com x).integ.cand) :
    repairStart D (bankNo b) row x =
      repairOn D (modInteg D x (fun i => withoutCand i ⟨resOf b, row⟩)) ⟨resOf b, row⟩ := by
  have hres : (if bankNo b = 13 then 11 else if 7 ≤ bankNo b ∧ bankNo b ≤ 8 then bankNo b - 3
      else if 9 ≤ bankNo b ∧ bankNo b ≤ 11 then bankNo b - 8 else if bankNo b = 12 then 6
      else if 1 ≤ bankNo b ∧ bankNo b ≤ 4 then bankNo b + 6 else 0) = resOf b := by cases b <;> rfl
  simp [repairStart, hres, hcopy, hcand, withoutCand]

/-- A spare that fails its check stays used, and the copy begins again (R416). -/
theorem repairCopyDone_badSpare (x : σ) (r : RowId) (k : Nat) (hcopy : (D.com x).integ.copying = some (r, k)) :
    repairCopyDone D true x = repairOn D x r := by
  simp [repairCopyDone, hcopy]

end

/-- No bank's rows are those of the DRAM. -/
theorem resOf_ne_dram (b : BankId) : resOf b ≠ 11 := by cases b <;> decide

theorem rowLeft_bank (c : Common) (b : BankId) (row : Nat) : rowLeft c ⟨resOf b, row⟩ = sparesOf (resOf b) - ledUsed c (resOf b) := by
  simp [rowLeft, resOf_ne_dram, ledLeft]

theorem freeSpare_bank (c : Common) (b : BankId) (row : Nat) : freeSpare c ⟨resOf b, row⟩ = ledUsed c (resOf b) :=
  if_neg (resOf_ne_dram b)

/-- Candidates count no spare. -/
theorem ledUsed_withoutCand (c : Common) (r : RowId) (k : Nat) : ledUsed { c with integ := withoutCand c.integ r } k = ledUsed c k := rfl

section
variable {σ : Type} {D : DieOps σ}

/-- REPAIR_START with a spare of the bank left: the copy begins on the next one, and the row leaves the candidates. -/
theorem repairStart_spare (L : DieLaws D) (x : σ) (b : BankId) (row : Nat) (hcopy : (D.com x).integ.copying = none)
    (hcand : (⟨resOf b, row⟩ : RowId) ∈ (D.com x).integ.cand) (hleft : ledUsed (D.com x) (resOf b) < sparesOf (resOf b)) :
    repairStart D (bankNo b) row x = ledCheck D (modInteg D x (fun i =>
      copyBegun (withoutCand i ⟨resOf b, row⟩) ⟨resOf b, row⟩ (ledUsed (D.com x) (resOf b)))) ⟨resOf b, row⟩ := by
  have hl : rowLeft (D.com (modInteg D x (fun i => withoutCand i ⟨resOf b, row⟩))) ⟨resOf b, row⟩ ≠ 0 := by
    rw [L.com_modInteg, rowLeft_bank, ledUsed_withoutCand]
    omega
  rw [repairStart_candidate x b row hcopy hcand, repairOn_spare L _ _ hl, freeSpare_bank, L.com_modInteg, ledUsed_withoutCand,
    L.modInteg_modInteg]

/-- REPAIR_START with no spare of the bank left: nothing is copied, and the resource is marked as run out. -/
theorem integ_repairStart_none (L : DieLaws D) (x : σ) (b : BankId) (row : Nat) (hcopy : (D.com x).integ.copying = none)
    (hcand : (⟨resOf b, row⟩ : RowId) ∈ (D.com x).integ.cand) (hleft : sparesOf (resOf b) ≤ ledUsed (D.com x) (resOf b)) :
    (D.com (repairStart D (bankNo b) row x)).integ =
      { withoutCand (D.com x).integ ⟨resOf b, row⟩ with copying := none, out := (D.com x).integ.out ||| 2 ^ resOf b } := by
  have hl : rowLeft (D.com (modInteg D x (fun i => withoutCand i ⟨resOf b, row⟩))) ⟨resOf b, row⟩ = 0 := by
    rw [L.com_modInteg, rowLeft_bank, ledUsed_withoutCand]
    omega
  rw [repairStart_candidate x b row hcopy hcand, integ_repairOn_none L _ _ hl, L.com_modInteg]
  rfl

end

/-- A copy begun on a spare of a bank counts that spare as used. -/
theorem copyBegun_used (i : Integ) (b : BankId) (row n : Nat) :
    tget 0 (copyBegun i ⟨resOf b, row⟩ n).used (resOf b) = tget 0 i.used (resOf b) + 1 := by
  simp [copyBegun, resOf_ne_dram, tmod, tget_tput]

end Sys2Proof.Machine

/-! The commands of the integrity unit on either die (R410 to R421), and the temperature sensors (R446). -/

namespace Sys2Proof.Machine

/-! ### March tests -/

/-- On a field die whose pass stands, every bank but F allows a destructive march (R412). -/
theorem destrAllowed_stopped (s : State) (k : Nat) (b : BankId) (hb : integBank .field k = some b) (hrun : s.dies.field.mer.running = false)
    (hf : b ≠ .f) : destrAllowed .field s b = true := by
  rcases fieldOps_bankAt k b hb with rfl | rfl | rfl | rfl | rfl | rfl
  · exact absurd rfl hf
  all_goals simp [destrAllowed, fieldOps, hrun]

section
variable {d : Side} {s : State} (hr : (comOf d s.dies).runs = true)
include hr

theorem marchGo_begins (v : W32) (b : BankId) (h8 : bit v 8 = true) (h9 : bit v 9 = false) (hb : integBank d (fld v 3 0) = some b)
    (hm : ∀ e ∈ (comOf d s.dies).integ.march, e.1 ≠ fld v 3 0) (hmode : fld v 5 4 = 1 ∨ fld v 5 4 = 2 ∧ destrAllowed d s b = true) :
    answers (.marchGo d v) s (fun t => t = withInteg d
      { (comOf d s.dies).integ with ctrl := v &&& 0x00FF003F,
                                    march := (comOf d s.dies).integ.march ++ [(fld v 3 0, decide (fld v 5 4 = 2))],
                                    result := 1, progress := 0 } s) :=
  answers_withInteg (fun D => memCtrlWrite D v) rfl hr
    (fun i => { i with ctrl := v &&& 0x00FF003F, march := i.march ++ [(fld v 3 0, decide (fld v 5 4 = 2))], result := 1, progress := 0 })
    fun _ x hx => memCtrlWrite_accepts hx.laws x v b h8 h9 (by rw [hx.bankAt, hb]) (by rwa [hx.com]) (by rwa [hx.destrOk])

theorem marchGo_refuses (v : W32) (h8 : bit v 8 = true) (h9 : bit v 9 = false)
    (hno : integBank d (fld v 3 0) = none ∨ (∃ e ∈ (comOf d s.dies).integ.march, e.1 = fld v 3 0) ∨ (fld v 5 4 ≠ 1 ∧ fld v 5 4 ≠ 2) ∨
      (fld v 5 4 = 2 ∧ ∀ b, destrAllowed d s b = false)) :
    answers (.marchGo d v) s (fun t => t = withInteg d
      { (comOf d s.dies).integ with ctrl := v &&& 0x00FF003F, refused := true, result := 4 } s) :=
  answers_withInteg (fun D => memCtrlWrite D v) rfl hr (fun i => { i with ctrl := v &&& 0x00FF003F, refused := true, result := 4 })
    fun _ x hx => memCtrlWrite_refuses hx.laws x v h8 h9 (by rwa [hx.bankAt, hx.com, hx.destrOk])

/-- Marches that destroy nothing stop without a trace. -/
theorem marchAbort_kept (v : W32) (h8 : bit v 8 = false) (h9 : bit v 9 = true) (hm : (comOf d s.dies).integ.march ≠ [])
    (hk : ∀ e ∈ (comOf d s.dies).integ.march, e.2 = false) :
    answers (.marchAbort d v) s (fun t => t = withInteg d
      { (comOf d s.dies).integ with ctrl := v &&& 0x00FF003F, march := [], result := 0 } s) :=
  answers_withInteg (fun D => memCtrlWrite D v) rfl hr (fun i => { i with ctrl := v &&& 0x00FF003F, march := [], result := 0 })
    fun _ x hx => by
      rw [← hx.com] at hm hk
      rw [memCtrlWrite_abort hx.laws x v h8 h9 hm, foldl_marchStopOne_kept _ _ hk]

/-- A destructive march that is stopped leaves every bank but its own. -/
theorem marchAbort_destructive (v : W32) (k : Nat) (b : BankId) (h8 : bit v 8 = false) (h9 : bit v 9 = true)
    (hm : (comOf d s.dies).integ.march = [(k, true)]) (hb : integBank d k = some b) :
    answers (.marchAbort d v) s (fun t =>
      (comOf d t.dies).integ = { (comOf d s.dies).integ with ctrl := v &&& 0x00FF003F, march := [], result := 0 } ∧
        ∀ id, id ≠ b → bankOf d t id = bankOf d s id) :=
  answers_unit (fun D => memCtrlWrite D v) rfl hr
    (fun j bk => j = { (comOf d s.dies).integ with ctrl := v &&& 0x00FF003F, march := [], result := 0 } ∧ ∀ id, id ≠ b → bk id = bankOf d s id)
    fun D x hx => by
      have hm' : (D.com x).integ.march = [(k, true)] := by rw [hx.com, hm]
      obtain ⟨hinteg, hbank⟩ := marchStopOne_destructive hx.laws
        (modInteg D x (fun i => { i with ctrl := v &&& 0x00FF003F, march := [], result := 0 })) k b (by rw [hx.bankAt, hb])
      rw [memCtrlWrite_abort hx.laws x v h8 h9 (by simp [hm']), hm']
      refine ⟨hinteg.trans ?_, fun id hid => (hbank id hid).trans ?_⟩
      · rw [hx.laws.com_modInteg, hx.com]
      · rw [hx.laws.bank_modInteg, hx.bank]

theorem marchDone_passes (k : Nat) (b : BankId) (hk : (k, false) ∈ (comOf d s.dies).integ.march)
    (hq : ∀ e ∈ (comOf d s.dies).integ.march, e.1 = k → e.2 = false) (hb : integBank d k = some b) :
    answers (.marchDone d k []) s (fun t => t = withInteg d (marchEnded (comOf d s.dies).integ k []) s) :=
  answers_withInteg (fun D => marchDone D k []) rfl hr (fun i => marchEnded i k []) fun _ x hx => by
    rw [← hx.com] at hk hq
    exact marchDone_clean x k false b (find?_march _ k false hk hq) (by rw [hx.bankAt, hb])

theorem marchDone_fails (k r : Nat) (b : BankId) (hk : (k, false) ∈ (comOf d s.dies).integ.march)
    (hq : ∀ e ∈ (comOf d s.dies).integ.march, e.1 = k → e.2 = false) (hb : integBank d k = some b) (hrow : r < bankRows b) :
    answers (.marchDone d k [r]) s (fun t => (comOf d t.dies).integ = addCand (marchEnded (comOf d s.dies).integ k [r]) ⟨resOf b, r⟩) :=
  answers_unit (fun D => marchDone D k [r]) rfl hr (fun j _ => j = addCand (marchEnded (comOf d s.dies).integ k [r]) ⟨resOf b, r⟩)
    fun D x hx => by
      rw [← hx.com] at hk hq ⊢
      exact integ_marchDone_failed hx.laws x k r b (find?_march _ k false hk hq) (by rw [hx.bankAt, hb]) hrow

/-- A destructive march that ends leaves every codeword of its bank zero (R410). -/
theorem marchDone_zeroes (k : Nat) (b : BankId) (hm : (comOf d s.dies).integ.march = [(k, true)]) (hb : integBank d k = some b) :
    answers (.marchDone d k []) s (fun t =>
      (comOf d t.dies).integ = { (comOf d s.dies).integ with march := [], result := 2 } ∧
        bankOf d t b = { bankOf d s b with mem := [], err := [], wb := [] }) :=
  answers_unit (fun D => marchDone D k []) rfl hr
    (fun j bk => j = { (comOf d s.dies).integ with march := [], result := 2 } ∧ bk b = { bankOf d s b with mem := [], err := [], wb := [] })
    fun D x hx => by
      have hf : (D.com x).integ.march.find? (fun e => e.1 == k) = some (k, true) := by simp [hx.com, hm]
      have hbk : D.bankAt k = some b := by rw [hx.bankAt, hb]
      have he : marchEnded (comOf d s.dies).integ k [] = { (comOf d s.dies).integ with march := [], result := 2 } := by
        simp [marchEnded, hm]
      rw [marchDone_clean x k true b hf hbk]
      refine ⟨?_, (hx.laws.bank_setBank_same _ k b _ hbk).trans ?_⟩
      · simp only [if_true, hx.laws.com_setBank, hx.laws.com_modInteg, hx.com, he]
      · rw [hx.laws.bank_modInteg, hx.bank]

/-! ### Repairs -/

/-- A row named that the die has, and that is under no repair yet, becomes a candidate. -/
theorem repairRequest_row (v : W32) (r : RowId) (h31 : bit v 31 = true)
    (hrow : ∀ {σ : Type} (D : DieOps σ), D.bankAt = integBank d → D.side = d → repairRow D (fld v 19 16) (fld v 15 0) = some r)
    (h0 : r.res ≠ 0) (hcand : r ∉ (comOf d s.dies).integ.cand) (hcopy : (comOf d s.dies).integ.copying.map (·.1) ≠ some r)
    (hcopied : r ∉ (comOf d s.dies).integ.copied.map (·.1)) :
    answers (.repairRequest d v) s (fun t => t = withInteg d
      { (comOf d s.dies).integ with repair := v &&& 0x000FFFFF, cand := (comOf d s.dies).integ.cand ++ [r] } s) := by
  have h := answers_withInteg (cmd := .repairRequest d v) (fun D => memRepairWrite D v) rfl hr
    (fun i => addCand { i with repair := v &&& 0x000FFFFF } r)
    fun D x hx => memRepairWrite_row hx.laws x v r h31 (hrow D hx.bankAt hx.side)
  rwa [addCand_new { (comOf d s.dies).integ with repair := v &&& 0x000FFFFF } r h0 hcand hcopy hcopied] at h

/-- A row that the die does not have is refused. -/
theorem repairRequest_noRow (v : W32) (h31 : bit v 31 = true)
    (hrow : ∀ {σ : Type} (D : DieOps σ), D.bankAt = integBank d → D.side = d → repairRow D (fld v 19 16) (fld v 15 0) = none) :
    answers (.repairRequest d v) s (fun t => t = withInteg d
      { (comOf d s.dies).integ with repair := v &&& 0x000FFFFF, refused := true } s) :=
  answers_withInteg (fun D => memRepairWrite D v) rfl hr (fun i => { i with repair := v &&& 0x000FFFFF, refused := true })
    fun D x hx => memRepairWrite_noRow hx.laws x v h31 (hrow D hx.bankAt hx.side)

/-- Where a spare is left, the copy begins on the next one, which counts as used from then on (R416, R420). -/
theorem repairStart_begins (b : BankId) (row : Nat) (hcopy : (comOf d s.dies).integ.copying = none)
    (hcand : (⟨resOf b, row⟩ : RowId) ∈ (comOf d s.dies).integ.cand)
    (hleft : ledUsed (comOf d s.dies) (resOf b) < sparesOf (resOf b)) :
    answers (.repairStart d (bankNo b) row) s (fun t =>
      let j := (comOf d t.dies).integ
      j.copying = some (⟨resOf b, row⟩, ledUsed (comOf d s.dies) (resOf b)) ∧ (⟨resOf b, row⟩ : RowId) ∉ j.cand ∧
        tget 0 j.used (resOf b) = tget 0 (comOf d s.dies).integ.used (resOf b) + 1 ∧ j.remap = (comOf d s.dies).integ.remap ∧
        ∀ id, id ≠ .e → bankOf d t id = bankOf d s id) :=
  answers_unit (fun D => repairStart D (bankNo b) row) rfl hr
    (fun j bk => j.copying = some (⟨resOf b, row⟩, ledUsed (comOf d s.dies) (resOf b)) ∧ (⟨resOf b, row⟩ : RowId) ∉ j.cand ∧
      tget 0 j.used (resOf b) = tget 0 (comOf d s.dies).integ.used (resOf b) + 1 ∧ j.remap = (comOf d s.dies).integ.remap ∧
      ∀ id, id ≠ .e → bk id = bankOf d s id)
    fun D x hx => by
      rw [← hx.com] at hcopy hcand hleft
      rw [← hx.com, ← hx.bank, repairStart_spare hx.laws x b row hcopy hcand hleft]
      obtain ⟨l, hlow⟩ := hx.laws.integ_ledCheck (modInteg D x (fun i =>
        copyBegun (withoutCand i ⟨resOf b, row⟩) ⟨resOf b, row⟩ (ledUsed (D.com x) (resOf b)))) ⟨resOf b, row⟩
      rw [hlow, hx.laws.com_modInteg]
      refine ⟨copyBegun_copying .., ?_, copyBegun_used .., copyBegun_remap .., fun id hid => ?_⟩
      · show _ ∉ (copyBegun _ _ _).cand
        rw [copyBegun_cand]
        exact not_mem_withoutCand _ _
      · rw [hx.laws.bank_ledCheck _ _ id hid, hx.laws.bank_modInteg]

/-- Where no spare is left, nothing is copied, and the resource is marked as run out (R421). -/
theorem repairStart_runsOut (b : BankId) (row : Nat) (hcopy : (comOf d s.dies).integ.copying = none)
    (hcand : (⟨resOf b, row⟩ : RowId) ∈ (comOf d s.dies).integ.cand)
    (hleft : sparesOf (resOf b) ≤ ledUsed (comOf d s.dies) (resOf b)) :
    answers (.repairStart d (bankNo b) row) s (fun t =>
      let j := (comOf d t.dies).integ
      j.copying = none ∧ (⟨resOf b, row⟩ : RowId) ∉ j.cand ∧ j.out.testBit (resOf b) = true ∧ j.used = (comOf d s.dies).integ.used) :=
  answers_unit (fun D => repairStart D (bankNo b) row) rfl hr
    (fun j _ => j.copying = none ∧ (⟨resOf b, row⟩ : RowId) ∉ j.cand ∧ j.out.testBit (resOf b) = true ∧
      j.used = (comOf d s.dies).integ.used)
    fun D x hx => by
      rw [← hx.com] at hcopy hcand hleft ⊢
      rw [integ_repairStart_none hx.laws x b row hcopy hcand hleft]
      exact ⟨rfl, not_mem_withoutCand _ _, by simp [Nat.testBit_or], rfl⟩

/-- A spare that fails its check: the copy begins again on the next. -/
theorem repairCopyDone_again (r : RowId) (k : Nat) (hcopy : (comOf d s.dies).integ.copying = some (r, k))
    (hleft : rowLeft (comOf d s.dies) r ≠ 0) :
    answers (.repairCopyDone d true) s (fun t => (comOf d t.dies).integ.copying = some (r, freeSpare (comOf d s.dies) r) ∧
      (comOf d t.dies).integ.remap = (comOf d s.dies).integ.remap) :=
  answers_unit (fun D => repairCopyDone D true) rfl hr
    (fun j _ => j.copying = some (r, freeSpare (comOf d s.dies) r) ∧ j.remap = (comOf d s.dies).integ.remap)
    fun D x hx => by
      rw [← hx.com] at hcopy hleft ⊢
      rw [repairCopyDone_badSpare x r k hcopy, repairOn_spare hx.laws x r hleft]
      obtain ⟨l, hlow⟩ := hx.laws.integ_ledCheck (modInteg D x (fun i => copyBegun i r (freeSpare (D.com x) r))) r
      rw [hlow, hx.laws.com_modInteg]
      exact ⟨copyBegun_copying .., copyBegun_remap ..⟩

end

/-- A fault log with room keeps every record (R375). -/
theorem hostFault_log_room (h : HostDie) (code : Nat) (data : List W32) (hroom : h.boot.log.length < 32768) :
    (hostFault h code data).boot.log = ⟨h.boot.logSeq + 1, h.dt.time, code, data⟩ :: h.boot.log :=
  congrArg (List.cons _) (if_pos hroom)

/-- A row of the host die moves at the end of its copy: logged, and recorded in the configuration store (R416, R419). -/
theorem repairCopyDone_host (h : HostDie) (r : RowId) (k : Nat) (hcopy : h.com.integ.copying = some (r, k)) :
    repairCopyDone hostOps false h =
      hostOps.record (hostFault (modInteg hostOps h (fun i => { i with copying := none, remap := i.remap ++ [(r, k)] }))
        (if r.res = 11 then 0x101 else 0x100) [w32 r.res, w32 r.row, w32 k]) r k := by
  have hc : (hostOps.com h).integ.copying = some (r, k) := hcopy
  have ha : hostOps.atOnce r.res = true := rfl
  simp only [repairCopyDone, hc, ha]
  rfl

/-- Rows of F move at the end of their copy; the other rows of the field die wait for the seam (R416). -/
theorem repairCopyDone_field (f : FieldDie) (r : RowId) (k : Nat) (hcopy : f.com.integ.copying = some (r, k)) :
    repairCopyDone fieldOps false f =
      if r.res = 6 then
        fieldFault (modInteg fieldOps f (fun i => { i with copying := none, remap := i.remap ++ [(r, k)] })) 0x100 [w32 6, w32 r.row, w32 k]
      else modInteg fieldOps f (fun i => { i with copying := none, copied := i.copied ++ [(r, k)] }) := by
  have hc : (fieldOps.com f).integ.copying = some (r, k) := hcopy
  by_cases h6 : r.res = 6
  · simp only [repairCopyDone, hc, rowMoved, h6]
    rfl
  · have ha : fieldOps.atOnce r.res = false := decide_eq_false h6
    simp only [repairCopyDone, hc, ha, if_neg h6]
    rfl

/-- A row of the host die that moves: what the log, the record and the configuration store then hold. -/
theorem repairCopyDone_hostMoves {s : State} (r : RowId) (k : Nat) (hr : s.dies.host.com.runs = true)
    (hcopy : s.dies.host.com.integ.copying = some (r, k)) :
    answers (.repairCopyDone .host false) s (fun t =>
      let h := s.dies.host
      let i := h.com.integ
      (h.boot.log.length < 32768 → t.dies.host.boot.log =
        ⟨h.boot.logSeq + 1, h.dt.time, if r.res = 11 then 0x101 else 0x100, [w32 r.res, w32 r.row, w32 k]⟩ :: h.boot.log) ∧
      t.dies.host.com = { h.com with integ := { i with copying := none, remap := i.remap ++ [(r, k)] } } ∧
      t.dies.host.boot.repairs = h.boot.repairs.filter (fun e => e.1 != r) ++ [(r, k)]) := by
  have hx := hostCmd_runs (repairCopyDone hostOps false) s hr
  rw [repairCopyDone_host _ r k hcopy] at hx
  exact ⟨_, hx, fun hroom => hostFault_log_room _ _ _ hroom, rfl, rfl⟩

/-- A row of F that moves. -/
theorem repairCopyDone_fieldMoves {s : State} (r : RowId) (k : Nat) (hr : s.dies.field.com.runs = true)
    (hcopy : s.dies.field.com.integ.copying = some (r, k)) (h6 : r.res = 6) :
    answers (.repairCopyDone .field false) s (fun t =>
      let c := s.dies.field.com
      t.dies.field.com.integ = { c.integ with copying := none, remap := c.integ.remap ++ [(r, k)] } ∧
        t.dies.field.com.faults = (0x100, [w32 6, w32 r.row, w32 k]) :: c.faults) := by
  have hx := fieldCmd_runs (repairCopyDone fieldOps false) s hr
  rw [repairCopyDone_field _ r k hcopy, if_pos h6] at hx
  exact ⟨_, hx, rfl, rfl⟩

/-! ### The temperature sensors (R446) -/

/-- A sample that does not set HOT anew raises nothing. -/
theorem tempField_quiet (t : BitVec 12) (f : FieldDie) (hq : (sampleCom t f.com).hot = false ∨ f.com.hot = true) :
    tempField t f = { f with com := sampleCom t f.com } :=
  if_neg (by rcases hq with h | h <;> simp [h])

/-- A sample that sets HOT raises an EVENT. -/
theorem tempField_hot (t : BitVec 12) (f : FieldDie) (h1 : (sampleCom t f.com).hot = true) (h0 : f.com.hot = false) :
    tempField t f = fieldEvent { f with com := sampleCom t f.com } .hot [w32 t.toNat] :=
  if_pos (by simp [h1, h0])

theorem tempSample_fieldHot (t12 : BitVec 12) {s : State} (hr : s.dies.field.com.runs = true)
    (h1 : (sampleCom t12 s.dies.field.com).hot = true) (h0 : s.dies.field.com.hot = false) :
    answers (.tempSample .field t12) s (fun t =>
      evWords .hot [w32 t12.toNat] ∈ t.dies.field.com.events ∧ t.dies.field.com.hot = true) := by
  have hx := fieldCmd_runs (tempField t12) s hr
  rw [tempField_hot t12 _ h1 h0] at hx
  exact ⟨_, hx, List.mem_cons_self .., h1⟩

/-- The host die once the sample is taken, before its EVENT and the judgement. -/
def sampledHost (t : BitVec 12) (h : HostDie) : HostDie :=
  { h with com := sampleCom t h.com, far := if h.farFresh then h.far else h.far &&& 0x7FFFFFFF, farFresh := false,
           dt := { h.dt with histH := histAdd h.dt.histH t.toInt 6000 } }

theorem tempHost_judgesOnly (t : BitVec 12) (f : FieldDie) (h : HostDie) : judgesOnly (sampledHost t h) (tempHost t f h) := by
  refine judgesOnly.trans ?_ (classFall_judgesOnly f _)
  show judgesOnly _ (if (sampledHost t h).com.hot && !h.com.hot then hostEventRaw (sampledHost t h) .hot [w32 t.toNat] else sampledHost t h)
  split
  · exact hostEventRaw_judgesOnly _ _ _
  · rfl

theorem bit_cleared_valid (v : W32) : bit (v &&& 0x7FFFFFFF) 31 = false := by
  have hm : Nat.testBit 0x7FFFFFFF 31 = false := by decide
  simp [bit, Nat.testBit_and, hm]

/-- TSENS_FAR stays VALID only where a STATUS came within the period. -/
theorem bit_far_sampled (t : BitVec 12) (h : HostDie) : bit (sampledHost t h).far 31 = (bit h.far 31 && h.farFresh) := by
  show bit (if h.farFresh then h.far else h.far &&& 0x7FFFFFFF) 31 = _
  cases h.farFresh
  · rw [Bool.and_false]
    exact bit_cleared_valid h.far
  · rw [Bool.and_true]
    rfl

/-- A sample on the host die, and what it leaves unchanged whatever EVENT and judgement follow. -/
theorem tempSample_host (t12 : BitVec 12) {s : State} (hr : s.dies.host.com.runs = true) :
    answers (.tempSample .host t12) s (fun t =>
      let g := t.dies.host
      let k := sampledHost t12 s.dies.host
      t = s.setHost g ∧ g.com.temp = k.com.temp ∧ g.com.tmax = k.com.tmax ∧ g.com.hot = k.com.hot ∧ g.farFresh = k.farFresh ∧
        g.far = k.far ∧ g.dt.histH = k.dt.histH) := by
  refine ⟨_, hostCmd_runs (tempHost t12 s.dies.field) s hr, ?_⟩
  have hj := tempHost_judgesOnly t12 s.dies.field s.dies.host
  dsimp only [setHost_dies_host]
  generalize tempHost t12 s.dies.field s.dies.host = g at hj ⊢
  exact ⟨rfl, by rw [hj], by rw [hj], by rw [hj], by rw [hj], by rw [hj], by rw [hj]⟩

/-- Settles O57: each command on the unit of its side, by what that unit does on either die. -/
theorem integrityCommands : Obligations.IntegrityCommands := by
  unfold Obligations.IntegrityCommands
  intro s d hr c i only
  refine ⟨fun v h8 h9 => ⟨?_, ?_, ?_⟩, ?_, ?_, ?_, ?_, fun v h31 => ⟨?_, ?_, ?_, ?_⟩, ?_, fun r k hcopy => ⟨?_, ?_, ?_, ?_⟩,
    fun t12 => ⟨?_, ?_, ?_⟩⟩
  · intro b hb hm hmode
    have h := marchGo_begins hr v b h8 h9 hb hm (.inl hmode)
    rwa [hmode] at h
  · rintro b rfl hb hm hmode hrun hf
    have h := marchGo_begins hr v b h8 h9 hb hm (.inr ⟨hmode, destrAllowed_stopped s _ b hb hrun hf⟩)
    rwa [hmode] at h
  · intro hno
    refine marchGo_refuses hr v h8 h9 ?_
    rcases hno with h | h | h | h | ⟨h, rfl⟩
    · exact .inl h
    · exact .inr (.inl h)
    · exact .inr (.inr (.inl (by omega)))
    · exact .inr (.inr (.inl (by omega)))
    · exact .inr (.inr (.inr ⟨h, fun _ => rfl⟩))
  · exact fun v h8 h9 hm hk => marchAbort_kept hr v h8 h9 hm hk
  · exact fun v k b h8 h9 hm hb => marchAbort_destructive hr v k b h8 h9 hm hb
  · intro k b hk hq hb
    refine ⟨marchDone_passes hr k b hk hq hb, fun r hrow hres hcand hcopy hcopied => ?_⟩
    have h := marchDone_fails hr k r b hk hq hb hrow
    rwa [addCand_marchEnded i k ⟨resOf b, r⟩ (Nat.ne_of_gt hres) hcand hcopy hcopied] at h
  · exact fun k b hm hb => marchDone_zeroes hr k b hm hb
  · intro b hb hrow hres hcand hcopy hcopied
    refine repairRequest_row hr v ⟨resOf b, fld v 15 0⟩ h31 (fun D hD _ => ?_) (Nat.ne_of_gt hres) hcand hcopy hcopied
    rw [repairRow_bank _ _ b (by rw [hD, hb]), if_pos hrow]
  · intro b hb hrow _
    exact repairRequest_noRow hr v h31 fun D hD _ => by
      rw [repairRow_bank _ _ b (by rw [hD, hb]), if_neg (Nat.not_lt.2 hrow)]
  · intro hb hd
    exact repairRequest_noRow hr v h31 fun D hD hside => by
      rw [repairRow_noBank _ _ (by rw [hD, hb]), if_neg]
      rintro ⟨hf, h6⟩
      exact hd.elim (fun hh => by rw [hside, hh] at hf; cases hf) (fun hn => hn h6)
  · rintro rfl h6 hcand hcopy hcopied
    have h := repairRequest_row hr v ⟨11, fld v 15 0⟩ h31
      (fun D hD hside => by rw [repairRow_noBank _ _ (by rw [hD, h6]; rfl), if_pos ⟨hside, h6⟩])
      (Nat.succ_ne_zero 10) (by rw [hcand]; exact List.not_mem_nil) (by rw [hcopy]; exact nofun) (by rw [hcopied]; exact List.not_mem_nil)
    rwa [hcand] at h
  · exact fun b row _ _ hcopy hcand => ⟨repairStart_begins hr b row hcopy hcand, repairStart_runsOut hr b row hcopy hcand⟩
  · rintro rfl
    exact repairCopyDone_hostMoves r k hr hcopy
  · rintro rfl h6
    exact repairCopyDone_fieldMoves r k hr hcopy h6
  · intro hleft
    obtain ⟨t, ht, hcopying, hremap⟩ := repairCopyDone_again hr r k hcopy hleft
    exact ⟨t, ht, _, hcopying, hremap, fun h11 => if_neg h11⟩
  · rintro rfl h6
    exact ⟨_, fieldCmd_runs (repairCopyDone fieldOps false) s hr,
      congrArg s.setField ((repairCopyDone_field _ r k hcopy).trans (if_neg h6))⟩
  · rintro rfl hq
    exact ⟨_, fieldCmd_runs (tempField t12) s hr, congrArg s.setField (tempField_quiet t12 _ hq)⟩
  · rintro rfl h1 h0
    exact tempSample_fieldHot t12 hr h1 h0
  · rintro rfl
    obtain ⟨t, ht, hs, htemp, htmax, hhot, hfresh, hfar, hhist⟩ := tempSample_host t12 hr
    exact ⟨t, ht, hs, htemp, htmax, hhot, hfresh, by rw [hfar, bit_far_sampled], hhist⟩

end Sys2Proof.Machine
